-- ==== Sys2Proof/Word.lean ====
section
/-! DEFINITION. The word types, and the one shape of sparse data the state uses: a list of (key, value) pairs with
strictly rising keys. The operations on it stand in Machine/Maps.lean. -/

namespace Sys2Proof

/-- A 64-bit register column (R24). -/
abbrev Word := BitVec 64

/-- A byte of memory (R5). -/
abbrev Byte := BitVec 8

/-- A lane mask, bit l for lane l (R79). -/
abbrev Lanes := BitVec 32

/-- A virtual instruction address (R77: 48 bits). -/
abbrev Pc := BitVec 48

/-- Sparse data by key: strictly rising keys; an absent key reads as the reader's default. -/
abbrev SMap (α : Type) := List (Nat × α)

end Sys2Proof
end

