-- ==== Sys2Proof/Config.lean ====
section
/-! DEFINITION. What one implementation fixes and the values the spec leaves open (free values: opaque constants, so
that nothing can be proved of their value). -/

namespace Sys2Proof.Config

/-- FREE VALUE (log entry 1). The unspecified bits of Expose (R45) and every other value the spec leaves open: the
`idx`-th value of the `draw`-th draw. The state's counter `free` gives each draw its own number. -/
opaque unspecified (draw idx : Nat) : Nat

/-- FREE VALUE (log entry 2). The number of the package's fused identity key (R384). -/
opaque identityKey : Nat

/-- FREE VALUE (log entry 2). The nonce of a signature, which ECDSA leaves to the signer: of the `draw`-th draw. -/
opaque signingNonce (draw : Nat) : Nat

/-- FREE VALUE (log entry 2). The digests a report carries: 0 ROM, 1 management firmware, 2 service-sheaf firmware,
3 fuse set (R384). -/
opaque fusedDigest (which : Nat) : BitVec 512

/-- Dies of a package, clusters of a die, cores of a cluster, slots of a core (R1, R2). -/
def dies : Nat := 16
def clustersPerDie : Nat := 12
def coresPerCluster : Nat := 8
def slotsPerCore : Nat := 16
def coresPerDie : Nat := 96
def cores : Nat := 1536
def clusters : Nat := 192
/-- Bytes of a die's cellar (R147). -/
def cellarBytes : Nat := 201326592
/-- The top of each die's stacks that the service holds back from allocation: both reserve areas of R312, 1 GiB each, and under
them 16 MiB for the rings of R314 and R318 (DESIGN CHOICE, log entry 21). -/
def reserveBase : Nat := 2 ^ 38 - 2 ^ 31
def serviceBase : Nat := reserveBase - 2 ^ 24
/-- A die's log `k`: 0 the array log, 1 the transfer log, 2 the event log (R314). -/
def logPa (d k : Nat) : Nat := d * 2 ^ 40 + serviceBase + k * 196608
/-- A guest's virtual error queue in die 0's stacks: the page of the header and ring, then the page of READ (R318). -/
def queuePa (v : Nat) : Nat := serviceBase + 2 ^ 20 + v * 131072
/-- Where the guest sees the two pages. -/
def queueVa : Nat := 2 ^ 52 - 131072
/-- Mesh cycles of an interval (R254). -/
def interval : Nat := 20000

end Sys2Proof.Config
end

