-- ==== Sys2Proof/Machine/Maps.lean ====
section
/-! DEFINITION. Sparse maps with strictly rising keys, and byte memory in its canonical form: an unlisted address reads
as 0 (log entry 6), and no listed cell holds 0. -/

namespace Sys2Proof

def SMap.find {α : Type} : SMap α → Nat → Option α
  | [], _ => none
  | (j, v) :: r, k => if j = k then some v else SMap.find r k

def SMap.put {α : Type} : SMap α → Nat → α → SMap α
  | [], k, v => [(k, v)]
  | (j, u) :: r, k, v =>
    if k < j then (k, v) :: (j, u) :: r else if j = k then (k, v) :: r else (j, u) :: SMap.put r k v

def SMap.del {α : Type} (m : SMap α) (k : Nat) : SMap α := m.filter fun e => e.1 != k

/-- The value at a key, or the default. -/
def SMap.val {α : Type} (m : SMap α) (k : Nat) (d : α) : α := (m.find k).getD d

/-- Write a value; a value equal to the default is not listed. -/
def SMap.store {α : Type} [DecidableEq α] (m : SMap α) (d : α) (k : Nat) (v : α) : SMap α :=
  if v = d then m.del k else m.put k v

def SMap.upd {α : Type} (m : SMap α) (k : Nat) (d : α) (f : α → α) : SMap α := m.put k (f (m.val k d))

def SMap.has {α : Type} (m : SMap α) (k : Nat) : Bool := (m.find k).isSome

/-- The keys rise strictly. -/
def SMap.sorted {α : Type} : SMap α → Bool
  | [] => true
  | [_] => true
  | (j, _) :: (k, v) :: r => j < k && SMap.sorted ((k, v) :: r)

namespace Machine

/-- Byte memory. -/
abbrev Mem := List Host.Cell

/-- The byte at an address; an unlisted address reads as 0 (log entry 6). -/
def Mem.get (m : Mem) (a : Nat) : Byte := SMap.val m a 0

/-- Write one byte; a byte 0 removes the cell. -/
def Mem.set (m : Mem) (a : Nat) (b : Byte) : Mem := SMap.store m 0 a b

/-- Every key is above `lo`, keys rise strictly and no cell holds 0. -/
def Mem.wfFrom : Nat → Mem → Bool
  | _, [] => true
  | lo, (j, v) :: r => lo ≤ j && v != 0 && Mem.wfFrom (j + 1) r

/-- The canonical form. -/
def Mem.wf (m : Mem) : Bool := Mem.wfFrom 0 m

/-- `n` bytes from an address, lowest first. -/
def Mem.getN (m : Mem) (a : Nat) : Nat → List Byte
  | 0 => []
  | n + 1 => m.get a :: Mem.getN m (a + 1) n

/-- Write bytes from an address upward. -/
def Mem.setN (m : Mem) (a : Nat) : List Byte → Mem
  | [] => m
  | b :: r => Mem.setN (m.set a b) (a + 1) r

/-- Set `n` bytes from an address to 0. -/
def Mem.zero (m : Mem) (a n : Nat) : Mem := m.filter fun c => c.1 < a || a + n ≤ c.1

/-- The number of bytes in memory order, least significant first (R5). -/
def bytesNat : List Byte → Nat
  | [] => 0
  | b :: r => b.toNat + 256 * bytesNat r

/-- The low `n` bytes of a number in memory order (R5). -/
def natBytes : Nat → Nat → List Byte
  | 0, _ => []
  | n + 1, v => BitVec.ofNat 8 v :: natBytes n (v / 256)

def Mem.getNat (m : Mem) (a n : Nat) : Nat := bytesNat (m.getN a n)

end Machine
end Sys2Proof
end

