-- ==== Sys2Proof/Syntax.lean ====
section
/-! DEFINITION. The whole instruction set: one constructor per row of the opcode table. The first 151 are the
instructions of R70; the rest are the part's events, each whole and indivisible (95_what_each_step_holds.md). -/

namespace Sys2Proof

/-- Element types, in code order (R67). -/
inductive Ty where
  | s8 | s16 | s32 | s64 | n8 | n16 | n32 | n64 | f16 | bf16 | f32 | f64 | tb8 | tb4
deriving DecidableEq, Repr

/-- Rounding modes, in code order (R68). -/
inductive Rnd where
  | rne | rtz | rup | rdn
deriving DecidableEq, Repr

/-- Scopes, in code order (R69, R321). -/
inductive Scope where
  | strand | sheaf | team | core | cluster | die | package | system
deriving DecidableEq, Repr

/-- Comparisons, in fn order (R70). -/
inductive Cmp where
  | lt | le | eq | ne | ge | gt
deriving DecidableEq, Repr

/-- The control part, the A bit and the guard of a word (R56). `hold` counts only under version 1 (R60). -/
structure Ctl where
  ver1 : Bool := false
  sw : Bool := false
  hold : Nat := 0
  apx : Bool := false
  gn : Bool := false
  gp : Nat := 15
deriving DecidableEq, Repr

/-- A b or c slot of format R or S: its kind bit (uniform or vector) and its index (R64). -/
structure Slot where
  uni : Bool := false
  idx : Nat := 0
deriving DecidableEq, Repr

/-- Bits 30:15 of format R: two slots, or imm16 (R64). -/
inductive BC where
  | regs (b c : Slot)
  | imm (v : Nat)
deriving DecidableEq, Repr

/-- Format R without major and fn (R64). -/
structure OpR where
  d : Nat := 0
  a : Nat := 0
  bc : BC := .regs {} {}
  ty : Ty := .s8
  rnd : Rnd := .rne
  u : Bool := false
  x : Nat := 0
deriving DecidableEq, Repr

/-- Format W (R129). -/
structure OpW where
  d : Nat := 0
  h : Bool := false
  imm : Nat := 0
  u : Bool := false
deriving DecidableEq, Repr

/-- Format M (R65); `disp` is the 16-bit field as it stands in the word. -/
structure OpM where
  t : Nat := 0
  base : Option Nat := none
  index : Option Nat := none
  disp : Nat := 0
  ty : Ty := .s8
  u : Bool := false
  x : Nat := 0
deriving DecidableEq, Repr

/-- Format X without fn (R65); `g` is the whole seven-bit slot, whose bits 3:0 hold a transition or a context. -/
structure OpX where
  d : Nat := 0
  base : Option Nat := none
  index : Option Nat := none
  e : Nat := 0
  g : Nat := 0
  ty : Ty := .s8
deriving DecidableEq, Repr

/-- Format B (R66); `off` is the 36-bit field as it stands in the word. -/
structure OpB where
  y : Bool := false
  frame : Nat := 0
  off : Nat := 0
deriving DecidableEq, Repr

/-- Format J (R66). -/
structure OpJ where
  y : Bool := false
  frame : Nat := 0
  target : Nat := 0
deriving DecidableEq, Repr

/-- Format N (R66). -/
structure OpN where
  code : Nat := 0
deriving DecidableEq, Repr

/-- Format S without fn (R66). -/
structure OpS where
  d : Nat := 0
  a : Nat := 0
  b : Slot := {}
  sel : Nat := 0
  scope : Scope := .strand
deriving DecidableEq, Repr

/-- Format Q (R66). -/
structure OpQ where
  z : Nat := 0
  sA : Nat := 0
  sN : Nat := 0
  latch : Nat := 0
  ty : Ty := .s8
  rnd : Rnd := .rne
  x : Nat := 0
deriving DecidableEq, Repr

/-- Format E (R66). -/
structure OpE where
  sd : Nat := 0
  st : Nat := 0
  so : Nat := 0
  sn : Bool := false
  chan : Nat := 0
  x : Nat := 0
  ty : Ty := .s8
deriving DecidableEq, Repr

/-- Why a word is refused before it issues, in the order of R72 rows 2 to 8. -/
inductive Reject where
  | version | zero | major | fn | reserved | approx | type
deriving DecidableEq, Repr

/-- A fabric message: the Stavhild header of R369 and the fields that the operations carry. Fields an operation does
not carry are zero. -/
structure Msg where
  op : Nat := 0
  version : Nat := 1
  srcPod : Nat := 0
  srcDie : Nat := 0
  dstDie : Nat := 0xFF
  zero : Nat := 0
  tag : Nat := 0
  key : Nat := 0
  vdev : Nat := 0
  va : Nat := 0
  ty : Ty := .n64
  fn : Nat := 0          -- atomic member, or staged kind (0 LDT, 1 STT, 2 XTR)
  trans : Nat := 0
  e : Word := 0
  g : Word := 0
  value : Word := 0
  word : Word := 0       -- metadata word, or acknowledged write-pointer offset
  cause : Nat := 0
  clock : List Nat := []
  data : List Byte := []
  handle : Word := 0
  pos : Nat := 0
  lo : Nat := 0
  hi : Nat := 0
deriving DecidableEq, Repr

/-- A packet at a port (R374 to R377). -/
structure Packet where
  dest : Nat := 0
  hops : Nat := 0
  rod : Bool := true
  msg : Msg := {}
deriving DecidableEq, Repr

/-- A command's header and body, and the key of the packet that carried it (R380). -/
structure Cmd where
  session : Nat := 0
  seq : Nat := 0
  key : Nat := 0
  zero : Nat := 0        -- the header's ten zero bytes
  length : Nat := 0      -- LENGTH of the body
  body : List Byte := []
deriving DecidableEq, Repr

/-- An .alloc line of a code object (R20, R22, R366): grade 8 is P. -/
structure AllocLine where
  bytes : Nat := 0
  cellar : Bool := false
  grade : Nat := 8
  die : Option Nat := none
  image : List Byte := []
deriving DecidableEq, Repr

/-- What BURST_COMPLETE finds of one burst (R310, R311, R313). -/
structure Burst where
  pa : Nat := 0
  vdev : Nat := 255
  bank : Nat := 0
  row : Nat := 0
  write : Bool := false                    -- it writes the line
  damage : List (Nat × Nat × Nat) := []    -- array bits in error: sector, byte of its codeword (0 to 35), mask of the byte's bits
  flips : List (Nat × Nat) := []           -- bits in error on the bus: beat (0 to 15), lane of the channel (0 to 63)
deriving DecidableEq, Repr

/-- A partition's settings (R249, R349, R259); `none` leaves one as it is. -/
structure Settings where
  pfloor : Option Nat := none
  afloor : Option Nat := none
  cap : Option Nat := none
  quantum : Option Nat := none
  quota : Option Nat := none
deriving DecidableEq, Repr

inductive Instr where
  -- control (04)
  | nop (c : Ctl) (o : OpN)
  | bra (c : Ctl) (o : OpB)
  | brx (c : Ctl) (o : OpJ)
  | land (c : Ctl) (o : OpN)
  | call (c : Ctl) (o : OpB)
  | callx (c : Ctl) (o : OpJ)
  | ret (c : Ctl) (o : OpN)
  | join (c : Ctl) (o : OpS)
  | leave (c : Ctl) (o : OpS)
  | waitm (c : Ctl) (o : OpS)
  | spawn (c : Ctl) (o : OpB)
  | refill (c : Ctl) (o : OpB)
  | exit (c : Ctl) (o : OpN)
  | yield (c : Ctl) (o : OpN)
  | trap (c : Ctl) (o : OpN)
  | bpt (c : Ctl) (o : OpN)
  | tret (c : Ctl) (o : OpN)
  -- integer and address (05)
  | iadd (c : Ctl) (o : OpR)
  | isub (c : Ctl) (o : OpR)
  | imul (c : Ctl) (o : OpR)
  | imulh (c : Ctl) (o : OpR)
  | imad (c : Ctl) (o : OpR)
  | idiv (c : Ctl) (o : OpR)
  | irem (c : Ctl) (o : OpR)
  | imin (c : Ctl) (o : OpR)
  | imax (c : Ctl) (o : OpR)
  | iabs (c : Ctl) (o : OpR)
  | ineg (c : Ctl) (o : OpR)
  | and (c : Ctl) (o : OpR)
  | or (c : Ctl) (o : OpR)
  | xor (c : Ctl) (o : OpR)
  | not (c : Ctl) (o : OpR)
  | andn (c : Ctl) (o : OpR)
  | shl (c : Ctl) (o : OpR)
  | shr (c : Ctl) (o : OpR)
  | rot (c : Ctl) (o : OpR)
  | popc (c : Ctl) (o : OpR)
  | clz (c : Ctl) (o : OpR)
  | brev (c : Ctl) (o : OpR)
  | bfx (c : Ctl) (o : OpR)
  | bfi (c : Ctl) (o : OpR)
  | sel (c : Ctl) (o : OpR)
  | icmp (c : Ctl) (k : Cmp) (o : OpR)
  | mov (c : Ctl) (o : OpR)
  | movi (c : Ctl) (o : OpW)
  | lea (c : Ctl) (o : OpR)
  -- floating point
  | fadd (c : Ctl) (o : OpR)
  | fsub (c : Ctl) (o : OpR)
  | fmul (c : Ctl) (o : OpR)
  | ffma (c : Ctl) (o : OpR)
  | fmin (c : Ctl) (o : OpR)
  | fmax (c : Ctl) (o : OpR)
  | fcmp (c : Ctl) (k : Cmp) (o : OpR)
  | fclass (c : Ctl) (o : OpR)
  | frcp (c : Ctl) (o : OpR)
  | frsq (c : Ctl) (o : OpR)
  | fsqrt (c : Ctl) (o : OpR)
  | fexp2 (c : Ctl) (o : OpR)
  | flog2 (c : Ctl) (o : OpR)
  | fsin (c : Ctl) (o : OpR)
  | fcos (c : Ctl) (o : OpR)
  | frnd (c : Ctl) (o : OpR)
  | fdiv (c : Ctl) (o : OpR)
  | fscale (c : Ctl) (o : OpR)
  -- conversions
  | cvt (c : Ctl) (o : OpR)
  | cvtb (c : Ctl) (o : OpR)
  | cvtx (c : Ctl) (o : OpR)
  | pack (c : Ctl) (o : OpR)
  | unpk (c : Ctl) (o : OpR)
  -- cross-lane, predicates, flags, tags
  | swz (c : Ctl) (o : OpR)
  | shfl (c : Ctl) (o : OpR)
  | shfli (c : Ctl) (o : OpR)
  | voteAny (c : Ctl) (o : OpR)
  | voteAll (c : Ctl) (o : OpR)
  | voteBallot (c : Ctl) (o : OpR)
  | pand (c : Ctl) (o : OpR)
  | por (c : Ctl) (o : OpR)
  | pxor (c : Ctl) (o : OpR)
  | pnot (c : Ctl) (o : OpR)
  | pget (c : Ctl) (o : OpR)
  | pset (c : Ctl) (o : OpR)
  | flgrd (c : Ctl) (o : OpR)
  | flgclr (c : Ctl) (o : OpR)
  | endorse (c : Ctl) (o : OpR)
  | endp (c : Ctl) (o : OpR)
  | atag (c : Ctl) (o : OpR)
  -- memory (06)
  | ld (c : Ctl) (o : OpM)
  | st (c : Ctl) (o : OpM)
  | ldl (c : Ctl) (o : OpM)
  | stl (c : Ctl) (o : OpM)
  | lds (c : Ctl) (o : OpM)
  | pref (c : Ctl) (o : OpM)
  | fenceAcq (c : Ctl) (o : OpS)
  | fenceRel (c : Ctl) (o : OpS)
  | fenceFull (c : Ctl) (o : OpS)
  -- core (08)
  | role (c : Ctl) (o : OpS)
  | bar (c : Ctl) (o : OpS)
  | barx (c : Ctl) (o : OpS)
  | sread (c : Ctl) (o : OpS)
  | plevel (c : Ctl) (o : OpS)
  | setgrade (c : Ctl) (o : OpS)
  | pread (c : Ctl) (o : OpS)
  -- matrix (09, 12)
  | wld (c : Ctl) (o : OpQ)
  | wswp (c : Ctl) (o : OpQ)
  | mma (c : Ctl) (o : OpQ)
  | zclr (c : Ctl) (o : OpQ)
  | zrd (c : Ctl) (o : OpQ)
  | zwr (c : Ctl) (o : OpQ)
  | rdc (c : Ctl) (o : OpQ)
  | scan (c : Ctl) (o : OpQ)
  | chain (c : Ctl) (o : OpQ)
  -- engines (10)
  | cpy (c : Ctl) (o : OpE)
  | cpyr (c : Ctl) (o : OpE)
  | cpos (c : Ctl) (o : OpE)
  | cwait (c : Ctl) (o : OpE)
  | ewait (c : Ctl) (o : OpE)
  | eqry (c : Ctl) (o : OpE)
  | dtab (c : Ctl) (o : OpE)
  | dec (c : Ctl) (o : OpE)
  -- atomics (12)
  | aadd (c : Ctl) (o : OpX)
  | amin (c : Ctl) (o : OpX)
  | amax (c : Ctl) (o : OpX)
  | aand (c : Ctl) (o : OpX)
  | aor (c : Ctl) (o : OpX)
  | axor (c : Ctl) (o : OpX)
  | axchg (c : Ctl) (o : OpX)
  | acas (c : Ctl) (o : OpX)
  | afadd (c : Ctl) (o : OpX)
  | afaddO (c : Ctl) (o : OpX)
  | aflush (c : Ctl) (o : OpX)
  -- staged (15)
  | stbl (c : Ctl) (o : OpX)
  | ldt (c : Ctl) (o : OpX)
  | stt (c : Ctl) (o : OpX)
  | xtr (c : Ctl) (o : OpX)
  -- combine (16)
  | ccfg (c : Ctl) (o : OpX)
  | cslot (c : Ctl) (o : OpX)
  | cgate (c : Ctl) (o : OpX)
  | cput (c : Ctl) (o : OpX)
  | cstat (c : Ctl) (o : OpX)
  | cfree (c : Ctl) (o : OpX)
  -- package (18, 19, 21)
  | settle (c : Ctl) (o : OpS)
  | codesync (c : Ctl) (o : OpS)
  | tlbinv (c : Ctl) (o : OpS)
  | mapctlMap (c : Ctl) (o : OpS)
  | mapctlUnmap (c : Ctl) (o : OpS)
  | mapctlProtect (c : Ctl) (o : OpS)
  | mapctlMigrate (c : Ctl) (o : OpS)
  | lnch (c : Ctl) (o : OpS)
  | savectx (c : Ctl) (o : OpS)
  | restctx (c : Ctl) (o : OpS)
  | snap (c : Ctl) (o : OpS)
  -- events. t: team key; j: sheaf index; core, k: cluster, d: die are physical indices.
  | trapDelivery (t j : Nat)
  | roleGrant (core : Nat)
  | forcedCommit (t : Nat)
  | issueAging (core : Nat) (memPort : Bool)
  | sequencerEntryBegin (t id : Nat)
  | sequencerEntryFinish (t id : Nat)
  | chainTimeout (k launch key : Nat)
  | completionRegistration (k : Nat)
  | jobStart (t seq : Nat)
  | jobComplete (t seq : Nat)
  | jobFail (t seq : Nat)
  | engineArrival (k : Nat)
  | atomicServe (k : Nat)
  | stagedRequest (k : Nat)
  | requestWithdrawal (t j lane : Nat)
  | cslotGrant (d ctx : Nat)
  | poolGrant (d ctx : Nat)
  | contributionIntake (d ctx : Nat)
  | combineDeadline (d ctx slot : Nat)
  | slotRelease (d ctx slot : Nat)
  | settleComplete (n : Nat)
  | resultReturn (t j seq : Nat) (lanes : Lanes)
  | walkComplete (d vdev page : Nat)
  | faultService (d vdev page : Nat)
  | writeStamp (d n : Nat)
  | writeApply (d src : Nat)
  | levelClockSwitch (k : Nat)
  | gradeReached (k : Nat)
  | droop (k : Nat) (injected : Bool)
  | thermalMigration (core : Nat)
  | capture (t : Nat)
  | captureTimeout (t : Nat)
  | resizeKill (t : Nat)
  | launchRun (n : Nat)
  | launchComplete (n : Nat)
  | phaseAdvance (n : Nat)
  | burstRetry (d id : Nat) (failed : Bool)
  | laneSwap (d id : Nat) (failed : Bool)
  | burstComplete (d : Nat) (b : Burst)
  | retrain (stack : Nat) (mandatory : Bool)
  | retrainSaveTimeout (stack : Nat)
  | rowDisturbance (stack bank row vdev : Nat)
  | activationWindowEnd (stack : Nat)
  | bandwidthInterval (stack : Nat)
  | packetArrival (port : Nat) (p : Packet)
  | remoteAtomicRequest (m : Msg)
  | remoteAtomicAnswer (m : Msg)
  | remoteStagedRequest (m : Msg)
  | remoteStagedAnswer (m : Msg)
  | copyReadRequest (m : Msg)
  | copyReadData (m : Msg)
  | copyWrite (m : Msg)
  | writeAcknowledgement (m : Msg)
  | contributionRequest (m : Msg)
  | contributionData (m : Msg)
  | remoteSettleRequest (m : Msg)
  | remoteSettleAnswer (m : Msg)
  | journalQuery (m : Msg)
  | linkNotice (m : Msg)
  | operationUnreachable (tag : Nat)
  | powerOn (failStep : Option Nat)
  | snapshotTrigger (source code : Nat)
  | openCmd (m : Cmd) (role vdev : Nat)
  | closeCmd (m : Cmd)
  | loadCmd (m : Cmd) (obj : List Byte) (allocs : List AllocLine)
  | allocCmd (m : Cmd) (a : AllocLine)
  | freeCmd (m : Cmd) (va : Nat)
  | launchCmd (m : Cmd) (record : Nat)
  | killCmd (m : Cmd) (launch : Nat)
  | partMake (m : Cmd) (part vdev : Nat) (clusters : List Nat) (share : Option Nat)
  | partResize (m : Cmd) (part : Nat) (clusters : List Nat)
  | partDrop (m : Cmd) (part : Nat)
  | partSettings (m : Cmd) (part : Nat) (cluster : Option Nat) (v : Settings)
  | window (m : Cmd) (idx : Nat) (w0 w1 : Word)
  | route (m : Cmd) (entries : List (Nat × Word)) (pod : Option Nat)
  | routeswap (m : Cmd)
  | keys (m : Cmd) (table : List (BitVec 16))
  | subscribe (m : Cmd)
  | logread (m : Cmd) (d log : Nat)
  | budget (m : Cmd) (stack vdev bytes : Nat)
  | attest (m : Cmd) (nonce : List Byte)
  | snapCommand (m : Cmd) (code : Nat)
  | snapread (m : Cmd)
  | debugRead (m : Cmd) (t j : Nat) (pcs : List (Nat × Nat))
  | debugResume (m : Cmd) (t j : Nat)
  | debugEnd (m : Cmd) (t j : Nat)
  | illegal (r : Option Reject)
  | writePointerAdvance (t seq : Nat)
  | interruptionPointReached (t id : Nat)
  | droopClears (k : Nat)
  | retrainingComplete (stack : Nat)
  | preEmptionSaveEnd (stack : Nat)
  | serviceEndsTeam (t : Nat)
  -- the last eleven: compiled code cannot build a constructor past the 244th that holds data
  | serviceSheafRestart (k : Nat)
  | serviceSheafHalt (k : Nat)
  | portDown (port reason : Nat)
  | portUp (port peer : Nat)
  | thermalTrip (core reading : Nat)
  | intervalBoundary
  | quotaRotation
  | placement
  | bankSwap
  | fetchTrap
  | powerOff
deriving DecidableEq, Repr

end Sys2Proof
end

