-- ==== Sys2Proof/Machine/State.lean ====
section
/-! DEFINITION. The state of the whole package as plain data, and its value at reset. Addresses, indices and counts are
Nat; register contents, masks and the fields the spec numbers bit by bit are bit vectors. Sparse maps (SMap) read as
their reader's default where nothing is listed. -/

namespace Sys2Proof.Machine

/-- Why the machine stops. No step of this model raises one: every instruction and event of the table has an effect in
every state. The one constructor stands for a state that no rule describes; nobody raises it (safe). -/
inductive Fault where
  /-- Raised by nobody: kept so that the type has a name to report (safe). -/
  | unreachableState
deriving DecidableEq, Repr

/-- Why an instruction has no meaning. -/
inductive Refusal where
  /-- Raised by an arm of `exec` whose instruction has no meaning yet: by none (safe). -/
  | notModelled (mnemonic : String)
deriving DecidableEq, Repr

/-! ### Registers and strands -/

/-- A vector or uniform register column with its A tag (R24, R41). -/
structure Val where
  bits : Word := 0
  tag : Bool := false
deriving DecidableEq, Repr

/-- The run state of a strand (R78). `why` and `mask` are the WHY field. -/
inductive Run where
  | vacant
  | active
  | yielded
  | parked (why : Nat)
  | waiting (mask : Nat)
deriving DecidableEq, Repr

/-- What a parked lane waits for, beside WHY: the data its release needs. -/
inductive ParkOn where
  | nothing
  | request (id : Nat)                       -- WHY 0: a home's answer (R270)
  | slot (ctx : Nat)                         -- WHY 1: a combine slot (R294)
  | barrier (mask : Option Nat)              -- WHY 2: BAR, or BARX with its mask (R170)
  | growth                                   -- WHY 3 (R167)
  | job (seq : Nat) (count : Option Nat)     -- WHY 4: CWAIT with its count, or EWAIT (R224)
  | page (vdev va : Nat)                     -- WHY 5: a translation (R154)
  | pool (iss : Nat) (granted : Bool)        -- WHY 6: pool grants of one CPUT issue (R296)
deriving DecidableEq, Repr

/-- One strand (R77), its item (R184), its sequence index (R237), its return slots (R232) and the hidden DEPTH copy of
R110. -/
structure Strand where
  pc : Pc := 0
  depth : Nat := 0
  base : Nat := 0
  floor : Nat := 0
  pword : BitVec 32 := 0x8000
  flags : BitVec 5 := 0
  run : Run := .vacant
  park : ParkOn := .nothing
  item : Word := 0
  seqIdx : BitVec 32 := 0
  slots : Nat := 0
  hdepth : Nat := 0
  refused : Option Nat := none    -- page (VA) whose fault request the service refused: unmapped at the reissue (R335)
  covers : SMap (List Nat) := []  -- the covers that its remote requests' answers have returned, by target package (R373)
  pkgs : List Nat := []           -- packages that its remote requests and completed remote copies have reached (R373)
  acq : Nat := 0                  -- writes performed on its die when it last acquired: what may happen before what it does next (R322)
deriving DecidableEq, Repr

/-- One write of sheaf state that an instruction has issued (R59). A tag of `none` keeps the tag. -/
inductive Wr where
  | v (lane entry : Nat) (mask bits : Word) (tag : Option Bool)
  | u (idx : Nat) (mask bits : Word) (tag : Option Bool)
  | p (lane idx : Nat) (val : Option Bool) (tag : Option Bool)
  | f (lane : Nat) (set clr : BitVec 5)
deriving DecidableEq, Repr

/-- An outstanding result (R59): written at cycle `due` when the latency is fixed (R61), by RESULT_RETURN once `ready`
when it is variable (R62). -/
structure Pending where
  seq : Nat := 0
  due : Option Nat := none
  ready : Bool := true
  waits : Nat := 0                -- answers of homes still to come
  slotOf : Lanes := 0             -- lanes whose return slot it occupies (R232)
  writes : List Wr := []
deriving DecidableEq, Repr

/-- A trap raised and not yet delivered (R107): one cause and address for each faulting lane. -/
structure TrapReq where
  iss : Nat := 0
  code : Nat := 0
  causes : List (Nat × Nat × Nat) := []     -- lane, cause code of R115, address
deriving DecidableEq, Repr

/-- A mapped translation (R334, R339): grade 8 is P. -/
structure Mapping where
  vdev : Nat := 0
  va : Nat := 0
  size : Nat := 65536
  pa : Nat := 0
  r : Bool := true
  w : Bool := true
  x : Bool := false
  grade : Nat := 8
  migrating : Bool := false
deriving DecidableEq, Repr

/-- What a leader tells its shadow beside results and strands (R180): a new strand's V0, an entry that a RET restored, a uniform
register that a trap's entry or return wrote. -/
inductive Told where
  | born (lane : Nat) (v0 : Val)
  | entry (lane e : Nat) (v : Val)
  | uni (k : Nat) (v : Val)
deriving DecidableEq, Repr

/-- Why a sheaf issues nothing although it has a batch. -/
inductive Hold where
  | none
  | home (ids : List Nat)     -- answers of a home for one issue (R271, R272)
  | chain                     -- a CHAIN that waits to form (R243)
  | service                   -- a trap with the management service (R111)
  | debug                     -- a breakpoint held for the host (R396)
  | commit                    -- an instruction that waits for a forced commit (R178)
deriving DecidableEq, Repr

/-- One sheaf (R79) with its registers, outstanding results and issue bookkeeping. -/
structure Sheaf where
  slot : Nat := 0
  shadow : Option Nat := none     -- the slot of its shadow sheaf, in a paired team (R180)
  role : Nat := 0
  allot : Nat := 8
  cls : Nat := 0
  entry : Pc := 0
  vreg : SMap Val := []           -- key: lane * 2048 + ring entry
  ureg : SMap Val := []
  masks : SMap Lanes := []        -- M0 to M11
  strands : List Strand := []
  tmode : Bool := false
  hmask : Lanes := 0
  pend : List Pending := []
  iss : Nat := 0                  -- issues made
  marked : Bool := false          -- a switch marker restrains it (R59)
  nextAt : Nat := 0               -- first cycle a hold count allows (R60)
  hold : Hold := .none
  cleared : Bool := false         -- a forced commit has been taken for the instruction it holds, which issues next (R178)
  traps : List TrapReq := []
  finished : Bool := false
  lastV : Nat := 0                -- cycle after its last issue on the vector port (R174)
  lastM : Nat := 0
  readyV : Nat := 0               -- consecutive cycles ready and not issued (R174)
  readyM : Nat := 0
  spills : Nat := 0               -- count of window-spill (R85, R112)
  mismatches : Nat := 0           -- count of paired-mismatch (R112, R182)
  given : List Pending := []      -- results written since its last issue, for its shadow (R180)
  told : List Told := []          -- and what else its shadow is told
  safeAt : Lanes := 0             -- lanes at their safe point while a pre-emption is decided (R351)
  heldAt : Lanes := 0             -- lanes that were parked or waiting when the core last looked at it in a decided team (R351)
  poison : SMap Unit := []        -- register entries whose ECC is uncorrectable (R183)
  record : List Byte := []        -- its trap record in the service's area (R111)
  sCause : Nat := 0               -- the S cause that stopped it (R111)
deriving DecidableEq, Repr

/-! ### Matrix state -/

/-- A weight latch (R187); the tile is the tile image of R190 (constant tiles are given by `kind`). -/
structure Latch where
  fmt : Nat := 0
  tag : Bool := false
  kind : Nat := 0
  tile : SMap Byte := []
deriving DecidableEq, Repr

inductive SeqOp where
  | wld | wswp | mma | zclr | zrd | zwr | rdc | scan | chain
deriving DecidableEq, Repr

/-- A sequencer entry (R192) with its step index (R194). -/
structure SeqEntry where
  id : Nat := 0
  op : SeqOp := .wswp
  sheaf : Nat := 0
  seq : Nat := 0                  -- the outstanding result it is
  z : Nat := 0
  latch : Nat := 0
  ty : Ty := .f32
  rnd : Rnd := .rne
  x : Nat := 0
  apx : Bool := false
  addr : Nat := 0
  desc : Word := 0
  gtag : Bool := false
  grade : Nat := 7
  flags : BitVec 5 := 0           -- a ZRD's flags so far (R208)
  jobs : Nat := 0                 -- jobs issued before it have lower numbers (R216)
  step : Nat := 0
  base : Nat := 0                 -- its step index as it began, or as a decision found it: it runs past it (R194)
  started : Bool := false
  formed : Bool := false
  lines : Bool := false           -- a formed chain's member: the tag of the head's row lines (R245)
  fin : Bool := false
deriving DecidableEq, Repr

/-- A core's matrix state, held by its matrix team (R186 to R188). -/
structure Matrix where
  latch0 : Latch := {}
  latch1 : Latch := {}
  issued0 : Nat × Bool := (0, false)     -- issued format and tag (R200)
  issued1 : Nat × Bool := (0, false)
  bins : SMap (Nat × Nat) := []          -- key: bin * 4096 + row * 64 + column; FP32 patterns (s, c)
  shadow : SMap (Nat × Nat) := []        -- a paired team's shadow copy of the bins (R197)
  binTag : BitVec 16 := 0
  issuedBinTag : BitVec 16 := 0
  queue : List SeqEntry := []
  nextId : Nat := 0
  bad : Option (Nat × Nat) := none       -- an uncorrectable error in a latch or bin that an entry will meet, and its word (R196, R316)
deriving DecidableEq, Repr

/-! ### Engines -/

inductive JobKind where
  | cpy | cpyr | cpos | dtab | dec
deriving DecidableEq, Repr

/-- A job's entry in its team's job table (R212 to R216). -/
structure Job where
  seq : Nat := 0
  kind : JobKind := .cpy
  chan : Nat := 0
  d0 : Word := 0
  d1 : Word := 0
  d2 : Word := 0
  d3 : Word := 0
  x : Nat := 0
  ty : Ty := .s8
  state : Nat := 0                -- R214: 0 waiting, 1 running, 2 complete, 3 failed
  cause : Nat := 0
  addr : Nat := 0
  wp : Nat := 0
  bitPos : Nat := 0
  so : Option Nat := none         -- completion object
  soVa : Nat := 0                 -- and its address as the job instruction gave it
  sheaf : Nat := 0                -- the issuing sheaf and the lanes whose guard was true (R373)
  lanes : Lanes := 0
  arrived : Bool := false
  fail : Option (Nat × Nat) := none      -- a failing access met, cause and address (R218)
  stalled : Option Nat := none           -- address whose page it waits for (R218)
  row : Option (Nat × Nat) := none       -- the row of a CPOS under way and its index (R223)
  acked : Bool := false                  -- the home has performed the next unit's write (R271)
  got : List (Nat × List Byte) := []     -- words of the decoder's source that homes have answered, by address (R271)
  asked : Bool := false           -- the arrival has been sent
  order : Nat := 0                -- the model's own: order of issue among the core's teams (R226)
  entries : Nat := 0              -- sequencer entries issued before it have lower ids (R216)
  source : Option (List Byte) := none    -- bytes of the next unit read from a remote source
  target : Option (List Byte) := none    -- and, for CPYR, from its remote destination
  waiting : Bool := false                -- a remote read or write of the next unit is unanswered (R372)
  remoteVa : Nat := 0                    -- and the address that it names (R218)
deriving DecidableEq, Repr

/-- A job instruction that waits for its registration (R272). -/
structure JobWait where
  id : Nat := 0
  job : Job := {}
  j : Nat := 0
  iss : Nat := 0
  ticket : Nat := 0               -- uniform for the ticket
  batch : Lanes := 0
  on : Lanes := 0
  so : Nat := 0                   -- the object's address
deriving DecidableEq, Repr

/-! ### Guarded and paired launches -/

/-- How an issue, or what came before it, changed the strand of a lane: before and after. -/
structure Change where
  lane : Nat
  old : Strand
  new : Strand
deriving DecidableEq, Repr

/-- One issue of a leader that its shadow has not made (R180): what the shadow takes before it and after it, in the leader's
order. -/
structure ShadowRec where
  instr : Instr
  seq : Nat := 0
  mem : Bool := false                           -- the port that it needs
  taken : Bool := false                         -- the shadow takes its results from the leader
  got : List Pending := []                      -- results that the leader wrote before it
  told0 : List Told := []
  sync : List Change := []                      -- and how its strands changed since its last issue
  told : List Told := []                        -- for a taken issue: what it told and changed
  after : List Change := []
  masks : SMap Lanes := []                      -- for a taken issue: the masks that it left
  free : Nat := 0                               -- the number of its first free value
  tmode : Bool := false
  hmask : Lanes := 0
  safeAt : Lanes := 0
  maps : List Mapping := []                     -- the translations that it met
deriving DecidableEq, Repr

/-- One release-buffer entry (R175): physical address, up to 8 bytes, storage width, grade and VDEV. -/
structure ShareEntry where
  pa : Nat := 0
  bytes : List Byte := []
  width : Nat := 32
  grade : Nat := 8
  sheaf : Nat := 0                              -- the sheaf and lanes whose store it is, as in `Write`
  lanes : Lanes := 0
  tag : Bool := false                           -- the stored data's tag (R181)
deriving DecidableEq, Repr

/-- A shadow sheaf (R180): its registers and strands, the leader's strands after its last issue, the issues it has still to
make, and its stores since the checkpoint. -/
structure Shadow where
  sheaf : Sheaf := {}
  last : List Strand := []
  stream : List ShadowRec := []
  stores : List ShareEntry := []
deriving DecidableEq, Repr

/-- What a guarded team holds beside a plain one (R175 to R179); the checkpoint copies sheaves and matrix state. -/
structure Guarded where
  sheaves : List Sheaf := []
  matrix : Matrix := {}
  undo : List (Nat × List Byte × Nat) := []     -- larder line, old bytes, old storage width; newest first
  share : List ShareEntry := []                 -- oldest first
  rollbacks : Nat := 0
  mismatch : Option Nat := none                 -- the sheaf whose double run, load or readout has differed (R182, R197)
  shadows : List Shadow := []                   -- of a paired team, one for each sheaf (R180)
  backed : Bool := true                         -- shadow banks and release buffer are sound (R183)
  committing : Bool := false                    -- a commit has sent the share, and its lanes wait until it is performed (R176)
deriving DecidableEq, Repr

/-! ### Stages, teams, launches -/

structure RoleRow where
  k : Nat := 0
  cls : Nat := 0
  regs : Nat := 8
  entry : Nat := 0
deriving DecidableEq, Repr

/-- A stage record (R342); GRADE, LGRADE 8 are P. -/
structure Stage where
  entry : Nat := 0
  trap : Option Nat := none
  index : Nat := 0
  pri : Nat := 0
  mode : Nat := 0
  phased : Bool := false
  hasIn : Bool := false
  hasOut : Bool := false
  sheaves : Nat := 1
  bins : Nat := 0
  grade : Nat := 8
  level : Nat := 4
  items : Nat := 0
  larderA : Nat := 0
  larderP : Nat := 16384
  attic : Nat := 0
  lgrade : Nat := 8
  roles : List RoleRow := []
deriving DecidableEq, Repr

/-- How far a decided pre-emption of a team is (R351), and for whom. -/
inductive Preempt where
  | none
  | decided (since : Nat) (why : Nat) (record : Nat) (sheaf : Nat × Nat × Nat)
      -- why: 0 R349, 1 thermal, 2 resize, 3 SAVECTX; the record address; the SAVECTX's team, sheaf and result number
deriving DecidableEq, Repr

/-- A SAVECTX that has asked for a team's record: when, where the record goes, and its team, sheaf and result number (R357). -/
structure SaveAsk where
  since : Nat := 0
  record : Nat := 0
  t : Nat := 0
  j : Nat := 0
  seq : Nat := 0
deriving DecidableEq, Repr

/-- A team (R2, R347): resident on `core`, or saved. -/
structure Team where
  key : Nat := 0
  launch : Nat := 0
  stage : Nat := 0
  lid : Nat := 0
  core : Nat := 0
  die : Nat := 0
  vdev : Nat := 0
  part : Nat := 0
  priv : Bool := false
  debug : Bool := false
  st : Stage := {}
  code : Nat := 0                  -- code-section base address
  codeSize : Nat := 0
  sheaves : List Sheaf := []
  larder : SMap Byte := []
  larderW : SMap Nat := []         -- storage width by line (R48)
  larderBad : SMap Unit := []      -- words with uncorrectable errors (R183)
  matrix : Matrix := {}
  jobs : List Job := []
  jobWait : List JobWait := []
  nextSeq : Nat := 1
  decoder : SMap (List Nat) := []  -- code length tables by slot (R225)
  grade : Nat := 8
  level : Nat := 4
  levelWait : List (Nat × Nat × Nat) := []   -- PLEVELs whose predicate is not written: sheaf, result, earlier level (R261)
  gradeWait : List (Nat × Nat × Nat) := []   -- SETGRADEs in force whose predicate is not written: sheaf, result, earlier grade (R261)
  gradeReq : List (Nat × Nat × Nat) := []    -- SETGRADEs that wait for the rail: grade, sheaf, result (R252)
  phase : Nat := 0
  itemNext : Nat := 0              -- phased launches: next item and one past the last (R347)
  itemEnd : Nat := 0
  spill : Nat := 0                 -- spill region base (R84)
  guarded : Option Guarded := none
  preempt : Preempt := .none
  saveAsk : Option SaveAsk := none -- the SAVECTX that waits with a resize's decision (R357, R361)
  since : Nat := 0                 -- time of placement or last restore
  resident : Nat := 0              -- time resident before the last save
  waitsRail : Bool := false        -- a placement or restore that waits for its grade (R253)
  railAnswer : Option (Nat × Nat × Nat) := none  -- the RESTCTX that waits with it: team, sheaf, result (R253, R358)
  remoteOut : List Nat := []       -- tags of remote requests not yet remotely complete (R372)
  killed : Bool := false           -- ended with a cause (R111); already counted in KILLED
  granA : List Nat := []           -- larder granules of its approximate part, of the core's 256; granule g lies in group g div 32 (R172)
  granP : List Nat := []           -- and of its precise part and undo log (R172, R175)
  resuming : Nat := 0              -- restored sequencer entries have lower ids: their chains form before it issues (R246, R358)
deriving DecidableEq, Repr

/-- A saved team: by the scheduler (R348) or by SAVECTX (R357), with its record's address. -/
structure Saved where
  team : Team := {}
  bySavectx : Bool := false
  record : Nat := 0                          -- its record's address as SAVECTX gave it; the scheduler's own, a physical one
  size : Nat := 0
  at_ : Nat := 0
  clock : List Nat := []                     -- the writes that its save made globally visible (R357, R358)
  attic : Option (SMap Byte) := none         -- the stage's attic region, saved with the core's last team of the stage
deriving DecidableEq, Repr

/-- A stage of a running launch: its entry of R343 and its progress. -/
structure StageRun where
  st : Stage := {}
  teams : Nat := 0
  phaseW : Nat := 0
  inq : Nat := 0
  outq : Nat := 0
  args : Nat := 0
  dies : Nat := 0
  nextLid : Nat := 0
  item : Nat := 0
  ended : List Nat := []           -- lid.team of finished or killed teams
deriving DecidableEq, Repr

/-- A launch (R343 to R346). -/
structure Launch where
  n : Nat := 0
  state : Nat := 0                 -- 0 waits, 1 runs, 2 complete
  vdev : Nat := 0
  part : Nat := 0
  debug : Bool := false
  priv : Bool := false
  code : Nat := 0
  compl : Nat := 0
  signal : Nat := 0
  after : List Nat := []
  stages : List StageRun := []
  done : Nat := 0
  killed : Nat := 0
  cause : Nat := 0
  phase : Nat := 0
  phased : Bool := false
  classes : List Nat := []
  issuer : Nat := 0
  spill : Nat := 0                 -- its spill region: base address, 512 KiB for each sheaf (R84, R345)
  clock : List Nat := []           -- writes that its teams' acquire at placement covers (R345, R346, R362)
deriving DecidableEq, Repr

/-! ### Core and cluster -/

/-- A core's own state beside its teams (R162, R168, R174, R191, R334, R359). -/
structure Core where
  cycle : Nat := 0
  usedV : Bool := false
  usedM : Bool := false
  agedV : Option (Nat × Nat) := none
  agedM : Option (Nat × Nat) := none
  borrow : List (Nat × Nat × Nat) := []      -- team, sheaf, role asked for (R168)
  attic : List (Nat × Nat × SMap Byte) := [] -- launch, stage, region
  atticBad : List (Nat × Nat × Nat) := []    -- launch, stage and offset of words with uncorrectable errors (R191, R196)
  corrected : List (Nat × Nat × Nat) := []   -- corrected errors met and not yet counted: store, word offset, VDEV (R183)
  ibuf : SMap Word := []                     -- fetched words by physical address (R333)
  tlb : List Mapping := []
  sensor : Nat := 0
  hotSince : Option Nat := none              -- since when the sensor has read at least 360 W/cm² (R359)
  migratedAt : Option Nat := none
  retryAt : Nat := 0                         -- first time at which a withdrawn migration is tried again (R351)
  stall : Nat := 0                           -- core-cycles of R257's S in this interval
  cycles0 : Nat := 0                         -- cycle count at the last boundary
  room : List Nat := []                      -- its free resources as the last mesh cycle left them; none listed: all (R348)
deriving DecidableEq, Repr

/-- Where a request's answer goes. -/
inductive ReqSrc where
  | lane (t j l iss : Nat)
  | uniform (t j iss : Nat) (lanes : List Nat)
  | job (t seq : Nat)
  | remote (pod tag key : Nat)
deriving DecidableEq, Repr

/-- The destination register of a request's result. -/
inductive Dst where
  | none
  | v (entry : Nat)
  | u (idx : Nat)
deriving DecidableEq, Repr

inductive ReqKind where
  | atomic | load | store | ldt | stt | xtr | arrival | registration
deriving DecidableEq, Repr

/-- A request at its home (R231, R268). -/
structure Req where
  id : Nat := 0
  kind : ReqKind := .load
  src : ReqSrc := .job 0 0
  dst : Dst := .none
  seq : Nat := 0
  pa : Nat := 0
  va : Nat := 0
  grade : Nat := 8
  staged : Bool := false          -- the line lies in a precise cellar region
  ty : Ty := .n64
  fn : Nat := 0
  trans : Nat := 15
  e : Word := 0
  g : Word := 0
  tag : Bool := false
  die : Nat := 0
  clock : List Nat := []
  launch : Nat := 0
  key : List Nat := []            -- an AFADD.o's key (R237)
  bad : Bool := false             -- its queue entry holds an uncorrectable error (R247)
deriving DecidableEq, Repr

/-- A buffered AFADD.o contribution (R237, R238). -/
structure Contribution where
  launch : Nat := 0
  key : List Nat := []
  pa : Nat := 0
  grade : Nat := 8
  ty : Ty := .f32
  e : Word := 0
  bad : Bool := false
deriving DecidableEq, Repr

/-- Members of a chain that wait under (launch, KEY) (R244). -/
structure ChainGroup where
  launch : Nat := 0
  key : Nat := 0
  len : Nat := 0
  rows : Nat := 0
  ty : Ty := .f32
  since : Nat := 0                           -- cycle of the first arrival, on the clock of `core` (R244)
  core : Nat := 0
  members : List (Nat × Nat × Nat) := []     -- POS, team, entry id
  formed : Bool := false
  resumed : Bool := false                    -- it re-forms after a joint restore (R246)
  parity : Nat := 0                          -- transfers of its rows that fail parity: 1 to 3 are resent, a fourth fails (R247)
deriving DecidableEq, Repr

/-- A cluster (R229 to R231, R238, R244, R249 to R259). -/
structure Cluster where
  fused : Bool := false
  part : Option Nat := none
  pfloor : Nat := 300
  afloor : Nat := 220
  cap : Nat := 6
  level : Nat := 4                -- level of the clock in force
  nextLevel : Nat := 4            -- level run in the interval (charged)
  rail : Nat := 350               -- precise rail, mV
  fall : Bool := false
  b2g : Bool := false
  half : Bool := false
  bal : Nat := 64
  busy : Bool := false            -- a resident team issued in this interval
  agrade : Nat := 7               -- grade the approximate rail has reached
  atarget : Nat := 7
  droops : Nat := 0
  injecting : Option (Nat × Bool) := none    -- since when a droop lasts, and whether the charge-injection switch is connected
  injected : List (Nat × Nat) := []          -- start and end of the switch's past connections (R258)
  amoveAt : Nat := 0                         -- when the approximate rail last began to move (R392)
  afrom : Nat := 220                         -- its voltage then, mV
  astand : Nat := 220                        -- and the voltage at which it then counted as standing
  rotate : Nat := 0                          -- position of the unparked set (R259)
  fresh : Bool := false                      -- given by a resize, and takes placements from the next boundary (R361)
  hot : Bool := false             -- the 400 W/cm² trip (R359)
  permits : Word := 0x8400000040  -- the words of the last boundary (R257): EGRADE 8, LEVEL 4, BAL 64 at reset
  stallw : Word := 0
  quota : Nat := 16
  halted : Bool := false
  queue : List Req := []
  overflow : List Req := []       -- requests that wait at their senders for room in a park queue (R270)
  reorder : List Contribution := []
  chains : List ChainGroup := []
  tlb : List Mapping := []
deriving DecidableEq, Repr

/-! ### Die -/

/-- A write performed on its die: bytes at a physical address, and the storage width it sets (R48). -/
structure Write where
  pa : Nat := 0
  bytes : List Byte := []
  width : Nat := 0                -- 0 leaves the line's storage width
  zeros : Nat := 0                -- length of a range of zeros (page zeroing, R340)
  sheaf : Nat := 0                -- issuing sheaf: team * 16 + index; 0 for engines and units
  lanes : Lanes := 0              -- its lanes that made the store
  iss : Nat := 0                  -- the sheaf's issues so far: its place in their program order (R152, R156)
  core : Nat := 0                 -- the issuing core
  vis : Nat := 0                  -- scope within which a store not yet performed on its die is performed: 0 its strand, to 4 its cluster (R159)
  scope : Nat := 5                -- a fence's marker: the scope within which it orders, 5 from .die up (R160)
  no : Nat := 0                   -- its number among the writes performed on its die; of a marker, those below it come before (R322)
  acq : Bool := false             -- a fence's marker that holds the lanes' next accesses (.acq, .full; R159)
  rel : Bool := false             -- a fence's marker that waits for the lanes' earlier stores (.rel, .full; R159)
  pub : Bool := false             -- a fence's marker that asks for global visibility (R327)
  sys : Bool := false             -- and for remote completion (R373)
deriving DecidableEq, Repr

/-- A load issued and not yet performed (R156, R157): the lanes it is made for, its place and grade, what its value is written to (with
bits still 0), and the draw of its exposed bits. -/
structure Load where
  t : Nat := 0
  j : Nat := 0
  seq : Nat := 0
  lanes : Lanes := 0
  lane : Nat := 0
  die : Nat := 0
  pa : Nat := 0
  ty : Ty := .n64
  grade : Nat := 8
  draw : Nat := 0
  writes : List Wr := []
deriving DecidableEq, Repr

/-- A range whose bytes a zeroing wrote, with its key (R326, R340). -/
structure KeyRange where
  pa : Nat := 0
  size : Nat := 0
  sum : Nat := 0
  die : Nat := 0
deriving DecidableEq, Repr

/-- A stamped write on its way to a die (R324). -/
structure Stamped where
  die : Nat := 0
  stamp : List Nat := []
  writes : List Write := []
deriving DecidableEq, Repr

/-- A staged line's metadata word (R265). -/
structure Meta where
  stg : Bool := false
  cls : Nat := 0
  state : Nat := 0
  pend : Nat := 0
  count : Nat := 0
  target : Nat := 0
deriving DecidableEq, Repr

/-- A gate record (R295) with the absolute deadline. -/
structure Gate where
  dest : Nat := 0
  done : Nat := 0
  deadline : Option Nat := none
  n : Nat := 1
  wgt : List Nat := []
  vdev : Nat := 0
  phase : Nat := 0
deriving DecidableEq, Repr

/-- A combine slot (R286, R290, R297). -/
structure CSlot where
  gen : Nat := 1
  st : Nat := 0
  alloc : Nat := 0
  err : Nat := 0
  pres : BitVec 8 := 0
  subst : BitVec 8 := 0
  expect : BitVec 8 := 0
  disc : Nat := 0
  gate : Option Gate := none
  next : Nat := 0
  held : List (Nat × List Byte) := []
  arrived : BitVec 8 := 0
  pairs : SMap (Nat × Nat) := []
  ready : Bool := false
  timedOut : Bool := false
  due : Bool := false             -- it was ready when the last mesh cycle ended (R301)
  bad : Bool := false             -- its row or a held contribution has an uncorrectable error (R307)
  word : Word := 0                -- the status word it keeps after a release
deriving DecidableEq, Repr

/-- A pool request or a granted contribution on its way (R296). -/
structure Contrib where
  handle : Word := 0
  pos : Nat := 0
  src : ReqSrc := .job 0 0
  offset : Nat := 0
  data : List Byte := []
deriving DecidableEq, Repr

/-- A combine context (R286 to R288, R293). -/
structure Ctx where
  launch : Nat := 0
  cfg : Word := 0
  region : Nat := 0               -- global address of the region
  regionPa : Nat := 0
  s : Nat := 0
  baseGen : Nat := 1
  slots : SMap CSlot := []
  fresh : Nat := 0                -- slots never allocated yet, from `fresh` to s - 1
  freed : List Nat := []          -- then the freed slots, oldest first
  nextAlloc : Nat := 0
  late : Nat := 0
  disc : Nat := 0
  tookAt : Option Nat := none     -- the mesh cycle of its last intake (R307)
  waiters : List (Nat × Nat × Nat × Nat) := []   -- team, sheaf, lane, ring entry of parked CSLOT.p
deriving DecidableEq, Repr

/-- One log record (R315). -/
structure LogRec where
  time : Nat := 0
  addr : Nat := 0
  count : Nat := 0
  kind : Nat := 0
  src : Nat := 0
  vdev : Nat := 255
  flags : Nat := 0
  detail : Nat := 0
  aux : Nat := 0
deriving DecidableEq, Repr

/-- What the writer of a ring keeps of its header (R314); the ring and header themselves lie in memory. -/
structure LogRing where
  write : Nat := 0
  dropped : Nat := 0
  loss : Bool := false                       -- a record was dropped since the last one written
deriving DecidableEq, Repr

/-- A burst that the controller retries (R311). -/
structure Retry where
  id : Nat := 0
  burst : Burst := {}
  attempt : Nat := 0              -- retries made
  first : Nat := 0                -- time of the failure that began the retries
  since : Nat := 0                -- time of the last failure
deriving DecidableEq, Repr

/-- A pre-emption save that streams to a die's stacks: the context record's bytes, the code and length of each section, the blocks
of physical memory that the bytes take in their order (none where no page holds them), how many bytes are written, the team saved,
and the SAVECTX that waits for it, if one does (R312, R357). -/
structure Save where
  bytes : List Byte := []
  sections : List (Nat × Nat) := []
  blocks : List (Option Nat × Nat) := []
  done : Nat := 0
  team : Nat := 0
  ask : Option SaveAsk := none
  moved : Bool := false            -- the rest goes to the partner's reserve area (R312)
deriving DecidableEq, Repr

/-- A stack's memory controller (R308, R311, R312, R320). -/
structure Stack where
  retries : List Retry := []
  spares : SMap Nat := []                    -- spares used, by lane group
  tracker : SMap (List (Nat × SMap Nat)) := []   -- by bank: row, its activations by VDEV; at most 16 (R320)
  rowPa : SMap Nat := []                     -- the address of a row's last access, by 2,048 times the row and its bank
  window : Nat := 0                          -- when the trackers' 32 ms window began
  interval : Nat := 0                        -- when the budgets' interval began
  charged : SMap Nat := []                   -- bytes charged in the interval, by VDEV
  budget : SMap Nat := []                    -- by VDEV; absent: no limit
  wantRetrain : Option Nat := none           -- requested at this time
  out : Option Nat := none                   -- out of service since then
deriving DecidableEq, Repr

/-- A walk or fault request for one (VDEV, page) (R335). -/
structure Walk where
  vdev : Nat := 0
  page : Nat := 0
  asked : Bool := false                      -- the fault request has gone to the service
  lanes : List (Nat × Nat × Nat) := []       -- team, sheaf, lane in the order they parked
  jobs : List (Nat × Nat) := []
deriving DecidableEq, Repr

/-- A cellar region (R262); grade 8 is P. -/
structure Region where
  pa : Nat := 0
  bytes : Nat := 0
  va : Nat := 0
  vdev : Nat := 0
  grade : Nat := 8
  launch : Option Nat := none
  part : Option Nat := none                  -- without an owning launch: the partition whose launch first created an object in it
  code : Option Nat := none
  ctx : Option Nat := none                   -- the combine context that holds it
  named : Bool := true                       -- its die was named; a code object's other regions follow the launch's partition (R366)
deriving DecidableEq, Repr

/-- A die (R262 to R266, R286, R308 to R320, R323 to R326, R335). -/
structure Die where
  vc : List Nat := []
  stampedAt : Option Nat := none             -- the mesh cycle of its last stamp (R324, R389)
  view : Mem := []
  keys : SMap (Nat × Nat) := []              -- by byte: sum of the stamp, die (R326)
  ranges : List KeyRange := []               -- keys of zeroed ranges
  unstamped : List Write := []               -- performed, not yet globally visible; oldest first
  performed : Nat := 0                       -- writes performed on the die so far
  inbox : List Stamped := []
  lineW : SMap Nat := []                     -- storage width by line; absent: 32 (R48)
  poison : SMap Unit := []                   -- poisoned sectors (R313)
  cache : SMap Unit := []                    -- lines of the cellar cache (R263)
  metas : SMap Meta := []                    -- by line address
  metaBad : SMap Unit := []                  -- lines whose metadata ECC fails (R276 row 11)
  parkq : SMap (List Req) := []              -- by line address
  tables : List (Nat × Nat × List (BitVec 16)) := []   -- partition, class, image (256 entries)
  live : List (Nat × Nat × Nat) := []        -- partition, class, live objects
  regions : List Region := []
  ctxs : SMap Ctx := []
  poolQ : List Contrib := []                 -- pool requests not yet granted, in their order of arrival (R296)
  granted : List Contrib := []               -- grants whose contribution has not been sent
  input : List Contrib := []                 -- accepted contributions not yet taken in (R307)
  slotsTaken : Nat := 0                      -- entries of the slot table in use (R288)
  arrayLog : LogRing := {}
  transferLog : LogRing := {}
  eventLog : LogRing := {}
  events : List LogRec := []                 -- events of this mesh cycle, not yet written to a log (R317)
  saves : List Save := []                    -- pre-emption saves that stream to its stacks (R312)
  counters : SMap Nat := []                  -- by KIND * 65536 + SRC (R316)
  corrected : List (Nat × Nat) := []         -- corrected cellar errors met and not yet counted: cluster or none (192), word (R263)
  stackA : Stack := {}
  stackB : Stack := {}
  pointer : Nat := 0                         -- R256
  tlb : List Mapping := []
  walks : List Walk := []
  covers : SMap (List Nat) := []             -- remote cover by target package (R372)
deriving DecidableEq, Repr

/-! ### Service, fabric, package -/

structure Partition where
  part : Nat := 0
  vdev : Nat := 0
  clusters : List Nat := []
  quantum : Nat := 2000000                   -- mesh cycles; 1 ms (R349)
  shares : SMap Nat := []                    -- class tables by die (R266)
deriving DecidableEq, Repr

/-- Addresses that the service has given: of a region that ALLOC or an .alloc line asked for, whose pages the service maps on demand
(R394), or, not `asked`, of a code object or a launch's spill region, which are mapped as they are made (R73, R345). -/
structure GRegion where
  vdev : Nat := 0
  va : Nat := 0
  bytes : Nat := 0
  grade : Nat := 8
  die : Nat := 0
  asked : Bool := true
deriving DecidableEq, Repr

/-- A safe-point side-table entry (R74). -/
structure SafePoint where
  offset : Nat := 0
  vlive : BitVec 128 := 0
  slive : Word := 0
  zlive : BitVec 16 := 0
  mlive : BitVec 12 := 0
  eng : Bool := false
  kind : Nat := 0
deriving DecidableEq, Repr

/-- A loaded code object: its header address and pages, code section, stage records, class images and side table. -/
structure CodeObj where
  addr : Nat := 0
  bytes : Nat := 0                           -- length of the pages that it was loaded into
  vdev : Nat := 0
  code : Nat := 0
  size : Nat := 0
  stages : List Stage := []
  classes : List (List (BitVec 16)) := []
  safe : List SafePoint := []
  dies : List Nat := []                      -- dies named by die= (R366)
deriving DecidableEq, Repr

structure Session where
  id : Nat := 0
  role : Nat := 0
  vdev : Nat := 0
  high : Nat := 0
  isOpen : Bool := true
deriving DecidableEq, Repr

/-- One journal record (R382). -/
structure JRec where
  jseq : Nat := 0
  time : Nat := 0
  session : Nat := 0
  seq : Nat := 0
  code : Nat := 0
  status : Nat := 0xFFFF
  result : Word := 0
  digest : BitVec 128 := 0
deriving DecidableEq, Repr

/-- A response to a command, or an answer to a host (R381). -/
structure Response where
  session : Nat := 0
  seq : Nat := 0
  status : Nat := 0
  result : Word := 0
  dup : Bool := false
  body : List Byte := []
  jrecs : List JRec := []
deriving DecidableEq, Repr

/-- A port (R368, R379). -/
structure Port where
  up : Bool := false
  peer : Nat := 0xFFFF
  queued : Nat := 0
  sent : List Packet := []                   -- packets that have left by it
deriving DecidableEq, Repr

/-- A link notice (R379). -/
structure Notice where
  time : Nat := 0
  seq : Nat := 0
  origin : Nat := 0
  peer : Nat := 0
  port : Nat := 0
  kind : Nat := 0
  flags : Nat := 0
deriving DecidableEq, Repr

/-- A subscriber's notice ring (R379, R314). -/
structure NoticeRing where
  session : Nat := 0
  write : Nat := 0
  read : Nat := 0
  dropped : Nat := 0
  loss : Bool := false
  ring : SMap Notice := []
deriving DecidableEq, Repr

/-- The fabric side of the package (R368 to R379). -/
structure Fabric where
  pod : Option Nat := none
  podNext : Option Nat := none
  bankA : SMap Word := []
  bankB : SMap Word := []
  useB : Bool := false
  swapDue : Bool := false
  keyTable : List (BitVec 16) := []
  windows : SMap (Word × Word) := []         -- word 0, word 1 (R370)
  ports : List Port := []
  outbox : List Packet := []                 -- messages handed to the transport, newest last
  nextTag : Nat := 1
  waits : List (Nat × Req) := []             -- remote requests by tag, that wait for their answer
  sentAt : SMap Nat := []                    -- when each remote operation was handed to the transport, by tag (R368)
  withdrawn : List Nat := []                 -- tags of requests whose withdrawal has been asked (R279)
  held : List (Nat × Packet) := []           -- requests not sent before their lane's earlier ones are complete (R372)
  copies : List (Nat × Nat × Nat × Nat × Nat) := []  -- remote reads and writes of jobs by tag: team, job, what it carries, address
  contribs : List (Nat × Contrib) := []      -- contribution requests by tag (R296)
  dataOut : List (Nat × ReqSrc × Nat) := []  -- contribution data on its way, by tag: the lane that sent it and its row's offset (R368)
  noticeSeq : Nat := 0
  seen : List (Nat × Nat) := []              -- (origin, sequence) already forwarded
  rings : List NoticeRing := []
  dropped : Nat := 0
  delivered : List Packet := []              -- local deliveries that wait for their operation's event
deriving DecidableEq, Repr

/-- A SETTLE in the arbiter (R332). -/
structure Settle where
  n : Nat := 0
  cover : List Nat := []
  t : Nat := 0
  j : Nat := 0
  seq : Nat := 0
  remote : List Nat := []                    -- remote settles by tag still unanswered (R373)
deriving DecidableEq, Repr

/-- A page operation or other package-wide operation that completes when every die has applied `cover` (R340, R341,
R240, R333). Its result is that of sheaf `j` of team `t`; 0 when no sheaf waits. -/
structure Finish where
  cover : List Nat := []
  t : Nat := 0
  j : Nat := 0
  seq : Nat := 0
  drain : List (Nat × Nat) := []             -- accesses of these physical ranges must first be performed (R338, R341)
  copy : Option (Mapping × Mapping) := none  -- then the page is copied, from the first to the second (R341)
  map : Option Mapping := none               -- installed on completion
  busy : Option (Nat × Nat × Nat) := none    -- VDEV, VA and size of the page operation under way (R339)
  sync : Option (Scope × Nat) := none        -- CODESYNC scope and core
deriving DecidableEq, Repr

/-- What the blocks' snapshot registers copy: the visible state of the cores with their teams, the clusters, the dies and the fabric's
ports (R385). -/
structure Blocks where
  teams : SMap Team := []
  cores : SMap Core := []
  clusters : SMap Cluster := []
  dies : SMap Die := []
  fabric : Fabric := {}
deriving DecidableEq, Repr

/-- The snapshot (R385, R386). -/
structure Snapshot where
  held : Bool := false
  missed : Nat := 0
  code : Nat := 0
  core : Nat := 0
  source : Nat := 0
  time : Nat := 0
  blocks : Blocks := {}
deriving DecidableEq, Repr

/-- The Zalzel service (R380 to R384, R394 to R396). -/
structure Service where
  parts : List Partition := []
  regions : List GRegion := []
  codes : List CodeObj := []
  unmapped : List Mapping := []              -- pages of allocated regions that have been mapped and are not now (R394)
  nextVa : Nat := 0x1000000000
  sessions : List Session := []
  journal : List JRec := []
  jseq : Nat := 0
  responses : List Response := []
  vqueues : SMap LogRing := []               -- virtual error queues by VDEV (R318)
  vcounters : SMap Nat := []                 -- by VDEV * 65536 + KIND (R319)
  nextLaunch : Nat := 1
  holders : List (Nat × Nat × Nat) := []     -- partition, class, launch (R266)
  mapBusy : List (Nat × Nat × Nat) := []     -- VDEV, VA and size of pages with a MAPCTL under way
deriving DecidableEq, Repr

/-- Which of the machine's parts moves next: the agenda of the state (log entry 4). -/
inductive Turn where
  | event (i : Instr)
  | issue (core : Nat) (memPort : Bool)      -- one issue port chooses by R174
  | issueLate (core : Nat) (memPort : Bool)  -- the same, and the loads that it issues are performed later (R157)
  | cycle (core : Nat)                       -- the next arithmetic cycle of a core
  | mesh                                     -- the next mesh cycle
  | perform (n : Nat)                        -- the n-th outstanding store is performed on its die (R157, R158)
  | reveal (n scope : Nat)                   -- the n-th outstanding store is performed for the strands of a narrower scope (R159)
  | read (n : Nat)                           -- the n-th outstanding load is performed (R157)
  | send (n : Nat)                           -- the n-th request that waits at its sender is sent (R231, R328)
  | refetch (core : Nat)                     -- a core drops its fetched words (R333)
deriving DecidableEq, Repr

/-- The issuing sheaf. -/
structure Cur where
  team : Nat := 0
  sheaf : Nat := 0
deriving DecidableEq, Repr

/-- The package. -/
structure State where
  power : Bool                               -- power is applied
  boot : Nat                                 -- boot step reached (R383); 5 accepts commands
  bootFail : Option Nat
  time : Nat                                 -- the time register: mesh cycles since reset (R184)
  turns : List Turn
  lastBoundary : Option Nat                  -- time of the last interval boundary (R254)
  lastRotation : Option Nat                  -- and of the last quota rotation (R259)
  cycled : List Nat                          -- the model's own: cores that have had a cycle since the last mesh cycle
  free : Nat                                 -- the model's own: number of the next free-value draw
  ids : Nat                                  -- the model's own: number of the next request
  cur : Option Cur
  teams : SMap Team                          -- resident teams by key
  saved : List Saved
  launches : List Launch
  cores : SMap Core
  clusters : SMap Cluster
  dies : SMap Die
  stores : List (Nat × Write)                -- stores issued and not yet performed on their die, oldest first
  loads : List Load                          -- loads issued and not yet performed, oldest first
  late : Bool                                -- the issue under way leaves its loads to be performed later: a choice of the agenda
  sending : List Req                         -- requests not yet sent: atomics whose lanes' earlier writes go first (R328), and others
                                             -- that wait for room in their home's queue (R231)
  pages : List Mapping                       -- the page tables of the Zalzel service (R334)
  service : Service
  fabric : Fabric
  settles : List Settle
  settleN : Nat
  settleCover : List Nat
  finishes : List Finish
  snapshot : Snapshot
deriving DecidableEq, Repr

/-- The machine right after reset: held in reset, nothing booted (R383), every clock zero (R324), memory with nothing
listed, the boundary of time 0 behind it, whose words are those of R257's reset column (R254, R261), the approximate and precise requests of R249 and R257 at their reset values (they are the defaults of an
unlisted cluster), the boot key in the key table and the pod index unassigned (R378). -/
def State.reset : State where
  power := true
  boot := 0
  bootFail := none
  time := 0
  turns := []
  lastBoundary := some 0
  lastRotation := some 0
  cycled := []
  free := 0
  ids := 0
  cur := none
  teams := []
  saved := []
  launches := []
  cores := []
  clusters := []
  dies := []
  stores := []
  loads := []
  late := false
  sending := []
  pages := []
  service := {}
  fabric := { keyTable := [0xFFFF] }
  settles := []
  settleN := 0
  settleCover := []
  finishes := []
  snapshot := {}

end Sys2Proof.Machine
end

