-- ==== Sys2Proof/WellFormed.lean ====
section
/-! DEFINITION. The opcode map, each row's operand fields, and what a well-formed instruction is: the checks that R72
makes on the word alone (rows 5 to 8), as Booleans on the decoded fields. -/

namespace Sys2Proof

def Ty.code : Ty → Nat
  | .s8 => 0 | .s16 => 1 | .s32 => 2 | .s64 => 3 | .n8 => 4 | .n16 => 5 | .n32 => 6 | .n64 => 7
  | .f16 => 8 | .bf16 => 9 | .f32 => 10 | .f64 => 11 | .tb8 => 12 | .tb4 => 13

def Ty.ofCode : Nat → Option Ty
  | 0 => some .s8 | 1 => some .s16 | 2 => some .s32 | 3 => some .s64
  | 4 => some .n8 | 5 => some .n16 | 6 => some .n32 | 7 => some .n64
  | 8 => some .f16 | 9 => some .bf16 | 10 => some .f32 | 11 => some .f64
  | 12 => some .tb8 | 13 => some .tb4 | _ => none

def Rnd.code : Rnd → Nat
  | .rne => 0 | .rtz => 1 | .rup => 2 | .rdn => 3

def Rnd.ofCode : Nat → Rnd
  | 1 => .rtz | 2 => .rup | 3 => .rdn | _ => .rne

def Scope.code : Scope → Nat
  | .strand => 0 | .sheaf => 1 | .team => 2 | .core => 3 | .cluster => 4 | .die => 5 | .package => 6 | .system => 7

def Scope.ofCode : Nat → Option Scope
  | 0 => some .strand | 1 => some .sheaf | 2 => some .team | 3 => some .core
  | 4 => some .cluster | 5 => some .die | 6 => some .package | 7 => some .system | _ => none

def Cmp.code : Cmp → Nat
  | .lt => 0 | .le => 1 | .eq => 2 | .ne => 3 | .ge => 4 | .gt => 5

def Cmp.ofCode : Nat → Option Cmp
  | 0 => some .lt | 1 => some .le | 2 => some .eq | 3 => some .ne | 4 => some .ge | 5 => some .gt | _ => none

/-- The ten operand formats (R64 to R66). -/
inductive Fmt where
  | r | w | m | x | b | j | n | s | q | e
deriving DecidableEq, Repr

/-- The operands of a word, by format. -/
inductive Body where
  | r (o : OpR) | w (o : OpW) | m (o : OpM) | x (o : OpX) | b (o : OpB)
  | j (o : OpJ) | n (o : OpN) | s (o : OpS) | q (o : OpQ) | e (o : OpE)
deriving DecidableEq, Repr

/-- A word's meaning-bearing parts. -/
structure Enc where
  major : Nat
  fn : Nat
  ctl : Ctl
  body : Body
deriving DecidableEq, Repr

/-- The format of a major; `none` for 0x00 and the dashes of R70. -/
def Fmt.ofMajor (m : Nat) : Option Fmt :=
  if m = 0 then none
  else if m = 0x01 then some .n else if m = 0x02 then some .b else if m = 0x03 then some .j
  else if m = 0x04 then some .n else if m = 0x05 then some .b else if m = 0x06 then some .j
  else if m = 0x07 then some .n
  else if m ≤ 0x0A then some .s else if m = 0x0B then some .b else if m = 0x0C then some .n
  else if m = 0x0D then some .b else if m ≤ 0x11 then some .n
  else if m < 0x18 then none
  else if m = 0x2C then some .w
  else if m ≤ 0x2D then some .r
  else if m < 0x30 then none
  else if m ≤ 0x48 then some .r
  else if m < 0x50 then none
  else if m ≤ 0x55 then some .m else if m = 0x56 then some .s
  else if m < 0x58 then none
  else if m ≤ 0x5E then some .s
  else if m < 0x60 then none
  else if m ≤ 0x68 then some .q
  else if m < 0x70 then none
  else if m ≤ 0x77 then some .e
  else if m ≤ 0x7D then some .x
  else if m ≤ 0x7F then some .s
  else none

/-- How many fn values a major lists (R70); 1 outside the families. -/
def fnCount (m : Nat) : Nat :=
  if m = 0x23 then 5 else if m = 0x24 then 2 else if m = 0x26 then 3 else if m = 0x2A then 6
  else if m = 0x36 then 6 else if m = 0x38 then 8 else if m = 0x43 then 3 else if m = 0x44 then 6
  else if m = 0x45 then 2 else if m = 0x56 then 3 else if m = 0x78 then 11 else if m = 0x7D then 6
  else if m = 0x7E then 2 else if m = 0x7F then 6 else 1

/-- What a slot of format R holds in a row of R117. -/
inductive Use where
  | no      -- unused: zero
  | reg     -- a register, uniform under U = 1 or under its kind bit
  | vec     -- a vector register
  | uni     -- a uniform register
  | pred    -- a predicate
  | vote    -- VOTE's source (R142)
  | ty      -- a type code
deriving DecidableEq, Repr

inductive ImUse where
  | no | yes | need
deriving DecidableEq, Repr

/-- A row of R117. -/
structure RRow where
  d : Use := .reg
  a : Use := .reg
  b : Use := .reg
  c : Use := .no
  tys : List Ty := []
  rnd : Bool := false
  im : ImUse := .no
  u : Bool := true
  x : List Nat := [0]
  apx : Bool := true
deriving DecidableEq, Repr

def tysInt : List Ty := [.s8, .s16, .s32, .s64, .n8, .n16, .n32, .n64]
def tysSgn : List Ty := [.s8, .s16, .s32, .s64]
def tysNat : List Ty := [.n8, .n16, .n32, .n64]
def tysFlt : List Ty := [.f16, .bf16, .f32, .f64]
def tysTb : List Ty := [.tb8, .tb4]
def tysMem : List Ty := [.s8, .s16, .s32, .s64, .n8, .n16, .n32, .n64, .f16, .bf16, .f32, .f64]
def tysMat : List Ty := [.tb8, .tb4, .bf16, .f16, .f32]

/-- The rows of R117, by major and fn. -/
def rRow (m fn : Nat) : RRow :=
  if m ≤ 0x1A then { tys := tysInt, im := .yes, x := [0, 1] }
  else if m = 0x1B then { tys := tysInt, im := .yes }
  else if m = 0x1C then { c := .reg, tys := tysInt, x := [0, 1] }
  else if m ≤ 0x20 then { tys := tysInt, im := .yes }
  else if m ≤ 0x22 then { b := .no, tys := tysSgn, x := [0, 1] }
  else if m = 0x23 then
    if fn = 3 then { b := .no, tys := tysInt } else { tys := tysInt, im := .yes }
  else if m ≤ 0x25 then { tys := tysInt, im := .yes }
  else if m = 0x26 then { b := .no, tys := tysNat }
  else if m = 0x27 then { tys := [.s32, .s64, .n32, .n64], im := .yes }
  else if m = 0x28 then { c := .reg, tys := [.n32, .n64] }
  else if m = 0x29 then { c := .pred }
  else if m = 0x2A then { d := .pred, tys := tysInt, im := .yes, x := [0, 1, 2] }
  else if m = 0x2B then { a := .no, im := .yes, tys := tysMem }
  else if m = 0x2D then { tys := [.n64], im := .yes, x := [0, 1, 2, 3] }
  else if m ≤ 0x32 then { tys := tysFlt, rnd := true, im := .yes }
  else if m = 0x33 then { c := .reg, tys := tysFlt, rnd := true }
  else if m ≤ 0x35 then { tys := tysFlt, im := .yes }
  else if m = 0x36 then { d := .pred, tys := tysFlt, im := .yes, x := [0, 1, 2] }
  else if m = 0x37 then { b := .no, tys := tysFlt, apx := false }
  else if m = 0x38 then { b := .no, tys := tysFlt, rnd := true }
  else if m ≤ 0x3A then { tys := tysFlt, rnd := true, im := .yes }
  else if m = 0x3B then { b := .no, c := .ty, tys := tysMem, rnd := true, x := [0, 1] }
  else if m = 0x3C then { c := .reg, tys := tysTb, u := false }
  else if m = 0x3D then { tys := tysTb, u := false }
  else if m = 0x3E then
    { tys := [.s8, .s16, .s32, .n8, .n16, .n32, .f16, .bf16, .f32], rnd := true, u := false }
  else if m = 0x3F then
    { b := .no, tys := [.s16, .s32, .s64, .n16, .n32, .n64, .f32, .f64], u := false, x := [0, 1, 2, 3] }
  else if m = 0x40 then { tys := tysInt ++ tysFlt, im := .yes }
  else if m = 0x41 then { tys := tysNat, u := false }
  else if m = 0x42 then { b := .no, tys := tysNat, im := .need, u := false }
  else if m = 0x43 then
    if fn = 2 then { d := .uni, a := .vote, b := .no, apx := false }
    else { d := .pred, a := .vote, b := .no, u := false, apx := false }
  else if m = 0x44 then
    if fn ≤ 2 then { d := .pred, a := .pred, b := .pred, u := false, x := [0, 1, 2, 3], apx := false }
    else if fn = 3 then { d := .pred, a := .pred, b := .no, u := false, x := [0, 1], apx := false }
    else if fn = 4 then { d := .vec, a := .no, b := .no, u := false, apx := false }
    else { d := .no, a := .vec, b := .no, u := false, apx := false }
  else if m = 0x45 then
    if fn = 0 then { d := .vec, a := .no, b := .no, u := false, apx := false }
    else { d := .no, a := .no, im := .yes, u := false, apx := false }
  else if m = 0x46 then { b := .no, apx := false }
  else if m = 0x47 then { d := .pred, a := .pred, b := .no, u := false, apx := false }
  else { b := .no, x := [0, 1], apx := false }

/-- A d or a field keeps the zero bits that its use leaves (R66: a uniform's or a predicate's slot). -/
def Use.fieldOk (k : Use) (u : Bool) (v : Nat) : Bool :=
  match k with
  | .no => v == 0
  | .reg => !u || v < 64
  | .vec => true
  | .uni => v < 64
  | .pred => v < 16
  | .vote => if v < 64 then v < 16 else v % 64 < 8
  | .ty => v < 16

/-- The same for a b or c slot. -/
def Use.slotOk (k : Use) (s : Slot) : Bool :=
  match k with
  | .no => s == {}
  | .reg => !s.uni || s.idx < 64
  | .pred | .ty => !s.uni && s.idx < 16
  | _ => true

/-- Row 6 of R72 for format R: the fields that a row leaves are zero, bits 15:8 of SHFLI's immediate among them (R141).
`ty` is the type field's code. PACK of an integer type uses no rounding, and R117 gives its row one: such a word is
accepted and its rounding has no effect (DESIGN CHOICE, log entry 45). -/
def rReserved (m fn : Nat) (o : OpR) (ty : Nat) : Bool :=
  let r := rRow m fn
  let set := m == 0x48 && o.x % 2 == 1
  let dUse := if m == 0x48 && !set then Use.pred else r.d
  dUse.fieldOk o.u o.d && r.a.fieldOk o.u o.a
  && (match o.bc with
      | .regs b c =>
        (if r.b == .pred then !b.uni && b.idx < 16 else r.b.slotOk b)
        && (if r.c == .pred then r.c.slotOk c else r.c.slotOk c)
      | .imm _ => true)
  && (r.rnd || o.rnd == .rne)
  && (if r.tys.isEmpty then ty == 0 else true)
  && (if m == 0x2B then (match o.bc with | .regs _ _ => ty == 0 | .imm _ => true) else true)
  && (if m == 0x3B then
        (match o.bc with
         | .regs _ c => !(ty < 8 && c.idx < 8) || o.rnd == .rne
         | .imm _ => true)
      else true)
  && (if m == 0x42 then (match o.bc with | .regs _ _ => true | .imm v => v < 256) else true)

/-- Row 8 of R72 for format R. -/
def rTypes (m fn : Nat) (o : OpR) : Bool :=
  let r := rRow m fn
  (r.tys.isEmpty || r.tys.contains o.ty)
  && (if m == 0x3B then (match o.bc with | .regs _ c => c.idx < 12 | .imm _ => true) else true)

/-- Row 6 for format M (R65, R150). -/
def mReserved (m : Nat) (o : OpM) (ty : Nat) : Bool :=
  if m == 0x55 then o.t == 0 && ty == 0 else (!o.u || o.t < 64)

def mTypes (m : Nat) (o : OpM) : Bool := m == 0x55 || tysMem.contains o.ty

/-- A base or index that a row does not use: its field is zero. -/
def unusedOpt (v : Option Nat) : Bool := v.getD 0 == 0

/-- Row 6 for format X (R233, R240, R275, R291). STBL and CCFG have BN = 0. -/
def xReserved (m fn : Nat) (o : OpX) (ty : Nat) : Bool :=
  if m == 0x78 then
    if fn == 10 then o.d == 0 && o.base == some 0 && o.index == some 0 && o.e == 0 && o.g == 0 && ty == 0
    else (fn == 7 || o.g == 0) && (fn != 9 || o.d == 0)
  else if m == 0x79 then o.d == 0 && o.g == 0 && ty == 0 && o.e < 64 && o.base.isSome && unusedOpt o.index
  else if m == 0x7A then o.e == 0 && o.g < 16
  else if m == 0x7B then o.d == 0 && o.g < 16
  else if m == 0x7C then o.g < 16 && ty == 0 && (o.g == 14 || o.e == 0)
  else
    ty == 0 &&
    (if fn == 0 then o.d == 0 && o.g == 0 && o.e < 64 && o.base.isSome && unusedOpt o.index
     else if fn == 1 then
       o.g < 16 && (if o.e ≥ 64 then (o.e - 64) < 16 else o.e == 0) && unusedOpt o.base && unusedOpt o.index
     else if fn == 2 then o.d == 0 && o.g == 0
     else if fn == 3 then o.d == 0
     else if fn == 4 then o.g == 0 && unusedOpt o.base && unusedOpt o.index
     else o.d == 0 && o.g == 0 && unusedOpt o.base && unusedOpt o.index)

def xTypes (m fn : Nat) (o : OpX) : Bool :=
  if m == 0x78 then
    if fn ≤ 2 then [Ty.s32, .s64, .n32, .n64].contains o.ty
    else if fn ≤ 7 then [Ty.n32, .n64].contains o.ty
    else if fn ≤ 9 then [Ty.f32, .f64].contains o.ty
    else true
  else if m == 0x7A || m == 0x7B then tysMem.contains o.ty
  else true

/-- Row 6 for format S. `sc` is the scope field's code. The fields that SAVECTX and RESTCTX do not use are theirs to refuse, with
ill-operand (R356). -/
def sReserved (m fn : Nat) (o : OpS) (sc : Nat) : Bool :=
  let noD := o.d == 0
  let noB := o.b == {}
  let noSel := o.sel == 0
  let noSc := sc == 0
  let uniB := !o.b.uni || o.b.idx < 64
  let entry := m == 0x7F && (fn == 3 || fn == 4)
  (o.a == 0 || entry) &&
  (if m ≤ 0x0A then noD && noB && noSc
   else if m == 0x56 then noD && noB && noSel
   else if m == 0x58 then noD && noB && noSc
   else if m == 0x59 then noD && noB && noSel && noSc
   else if m == 0x5A then noD && uniB && noSel && noSc
   else if m == 0x5B || m == 0x5E then noB && noSc && (o.sel < 128 || o.d < 64)
   else if m == 0x5C || m == 0x5D then
     o.d < 16 && noSc && (if o.sel ≥ 128 then noB && o.sel - 128 < 16 else noSel && uniB)
   else if m == 0x7E then noD && noB && noSel
   else if fn == 0 then noD && noSel && uniB
   else if fn == 1 then o.d < 64 && uniB && noSc
   else if entry then o.d < 64 && uniB
   else if fn ≤ 4 then o.d < 64 && uniB && noSel && noSc
   else noD && noB && noSc)

def sTypes (m fn : Nat) (o : OpS) : Bool :=
  if m == 0x56 then o.scope != .strand
  else if m == 0x7E then
    if fn == 0 then o.scope == .package || o.scope == .system
    else o.scope == .core || o.scope == .cluster || o.scope == .die || o.scope == .package
  else if m == 0x7F && fn == 0 then o.scope == .die || o.scope == .package
  else true

/-- Row 6 for format Q (R199, R242). -/
def qReserved (m : Nat) (o : OpQ) (ty : Nat) : Bool :=
  let zOk := if m == 0x60 || m == 0x61 then o.z == 0 else true
  let aOk := if m == 0x61 || m == 0x63 then o.sA == 0 else true
  let nOk := if m == 0x60 || m == 0x61 || m == 0x63 then o.sN == 0 else true
  let lOk := if m == 0x61 || m == 0x63 || m == 0x64 || m == 0x65 then o.latch == 0 else true
  let rOk := m == 0x64 || o.rnd == .rne
  let xOk := if m == 0x60 || m == 0x64 || m == 0x65 then o.x ≤ 1 else o.x == 0
  let tOk := if m == 0x61 || m == 0x63 then ty == 0 else true
  zOk && aOk && nOk && lOk && rOk && xOk && tOk

def qTypes (m : Nat) (o : OpQ) : Bool :=
  if m == 0x61 || m == 0x63 then true
  else if m == 0x64 then [Ty.f64, .f32, .f16, .bf16].contains o.ty
  else if m == 0x65 then o.ty == .f32
  else if m == 0x67 then [Ty.tb8, .bf16, .f16, .f32].contains o.ty
  else tysMat.contains o.ty

/-- Row 6 for format E (R222). Under SN = 1 `so` is a field that R66 requires to be zero. -/
def eReserved (m : Nat) (o : OpE) (ty : Nat) : Bool :=
  let tOk := m == 0x71 || m == 0x77 || ty == 0
  if m == 0x73 || m == 0x74 || m == 0x75 then
    o.so == 0 && !o.sn && o.chan == 0 && o.x == 0 && tOk && (m != 0x74 || o.sd == 0)
  else (if m == 0x71 then o.x < 4 else o.x == 0) && tOk && (!o.sn || o.so == 0)

def eTypes (m : Nat) (o : OpE) : Bool :=
  if m == 0x71 then tysMem.contains o.ty else if m == 0x77 then o.ty == .tb8 else true

/-- Row 6 for formats B, J and N (R96, R98, R100, R102). -/
def bReserved (m : Nat) (o : OpB) : Bool :=
  if m == 0x02 then o.frame == 0
  else if m == 0x05 then !o.y
  else !o.y && o.frame == 0

def jReserved (m : Nat) (o : OpJ) : Bool :=
  if m == 0x03 then o.frame == 0 else !o.y

def nReserved (m : Nat) (o : OpN) : Bool := m == 0x0F || m == 0x10 || o.code == 0

/-- Row 6 of R72 on a body; `raw` is the type or scope code of the word. -/
def Body.reservedOk (b : Body) (m fn raw : Nat) : Bool :=
  match b with
  | .r o => rReserved m fn o raw
  | .w _ => true
  | .m o => mReserved m o raw
  | .x o => xReserved m fn o raw
  | .b o => bReserved m o
  | .j o => jReserved m o
  | .n o => nReserved m o
  | .s o => sReserved m fn o raw
  | .q o => qReserved m o raw
  | .e o => eReserved m o raw

/-- Row 8 of R72 on a body. -/
def Body.typesOk (b : Body) (m fn : Nat) : Bool :=
  match b with
  | .r o => rTypes m fn o
  | .m o => mTypes m o
  | .x o => xTypes m fn o
  | .s o => sTypes m fn o
  | .q o => qTypes m o
  | .e o => eTypes m o
  | _ => true

/-- The A bit may be 1 in these majors (R58). -/
def approxMajor (m : Nat) : Bool :=
  (0x18 ≤ m && m ≤ 0x2D) || (0x30 ≤ m && m ≤ 0x44) || m == 0x62 || m == 0x66 || m == 0x67

/-- The type or scope code that a body's own word holds. -/
def Body.raw : Body → Nat
  | .r o => o.ty.code
  | .m o => o.ty.code
  | .x o => o.ty.code
  | .s o => o.scope.code
  | .q o => o.ty.code
  | .e o => o.ty.code
  | _ => 0

def optFits (v : Option Nat) (n : Nat) : Bool :=
  match v with
  | some i => i < n
  | none => true

/-- Every field fits its width (R56, R64 to R66). -/
def Body.fits : Body → Bool
  | .r o => o.d < 128 && o.a < 128 && o.x < 4
      && (match o.bc with | .regs sb sc => sb.idx < 128 && sc.idx < 128 | .imm v => v < 65536)
  | .w o => o.d < (if o.u then 64 else 128) && o.imm < 4294967296
  | .m o => o.t < 128 && optFits o.base 64 && optFits o.index 128 && o.disp < 65536 && o.x < 4
  | .x o => o.d < 128 && optFits o.base 64 && optFits o.index 128 && o.e < 128 && o.g < 128
  | .b o => o.frame < 32 && o.off < 68719476736
  | .j o => o.frame < 32 && o.target < 128
  | .n o => o.code < 65536
  | .s o => o.d < 128 && o.a < 128 && o.b.idx < 128 && o.sel < 256
  | .q o => o.z < 16 && o.sA < 64 && o.sN < 64 && o.latch < 2 && o.x < 32
  | .e o => o.sd < 64 && o.st < 64 && o.so < 64 && o.chan < 16 && o.x < 32

def Body.fmt : Body → Fmt
  | .r _ => .r | .w _ => .w | .m _ => .m | .x _ => .x | .b _ => .b
  | .j _ => .j | .n _ => .n | .s _ => .s | .q _ => .q | .e _ => .e

/-- The word parts of an instruction; `none` for an event. -/
def Instr.enc : Instr → Option Enc
  | .nop c o => some ⟨0x01, 0, c, .n o⟩
  | .bra c o => some ⟨0x02, 0, c, .b o⟩
  | .brx c o => some ⟨0x03, 0, c, .j o⟩
  | .land c o => some ⟨0x04, 0, c, .n o⟩
  | .call c o => some ⟨0x05, 0, c, .b o⟩
  | .callx c o => some ⟨0x06, 0, c, .j o⟩
  | .ret c o => some ⟨0x07, 0, c, .n o⟩
  | .join c o => some ⟨0x08, 0, c, .s o⟩
  | .leave c o => some ⟨0x09, 0, c, .s o⟩
  | .waitm c o => some ⟨0x0A, 0, c, .s o⟩
  | .spawn c o => some ⟨0x0B, 0, c, .b o⟩
  | .exit c o => some ⟨0x0C, 0, c, .n o⟩
  | .refill c o => some ⟨0x0D, 0, c, .b o⟩
  | .yield c o => some ⟨0x0E, 0, c, .n o⟩
  | .trap c o => some ⟨0x0F, 0, c, .n o⟩
  | .bpt c o => some ⟨0x10, 0, c, .n o⟩
  | .tret c o => some ⟨0x11, 0, c, .n o⟩
  | .iadd c o => some ⟨0x18, 0, c, .r o⟩
  | .isub c o => some ⟨0x19, 0, c, .r o⟩
  | .imul c o => some ⟨0x1A, 0, c, .r o⟩
  | .imulh c o => some ⟨0x1B, 0, c, .r o⟩
  | .imad c o => some ⟨0x1C, 0, c, .r o⟩
  | .idiv c o => some ⟨0x1D, 0, c, .r o⟩
  | .irem c o => some ⟨0x1E, 0, c, .r o⟩
  | .imin c o => some ⟨0x1F, 0, c, .r o⟩
  | .imax c o => some ⟨0x20, 0, c, .r o⟩
  | .iabs c o => some ⟨0x21, 0, c, .r o⟩
  | .ineg c o => some ⟨0x22, 0, c, .r o⟩
  | .and c o => some ⟨0x23, 0, c, .r o⟩
  | .or c o => some ⟨0x23, 1, c, .r o⟩
  | .xor c o => some ⟨0x23, 2, c, .r o⟩
  | .not c o => some ⟨0x23, 3, c, .r o⟩
  | .andn c o => some ⟨0x23, 4, c, .r o⟩
  | .shl c o => some ⟨0x24, 0, c, .r o⟩
  | .shr c o => some ⟨0x24, 1, c, .r o⟩
  | .rot c o => some ⟨0x25, 0, c, .r o⟩
  | .popc c o => some ⟨0x26, 0, c, .r o⟩
  | .clz c o => some ⟨0x26, 1, c, .r o⟩
  | .brev c o => some ⟨0x26, 2, c, .r o⟩
  | .bfx c o => some ⟨0x27, 0, c, .r o⟩
  | .bfi c o => some ⟨0x28, 0, c, .r o⟩
  | .sel c o => some ⟨0x29, 0, c, .r o⟩
  | .icmp c k o => some ⟨0x2A, k.code, c, .r o⟩
  | .mov c o => some ⟨0x2B, 0, c, .r o⟩
  | .movi c o => some ⟨0x2C, 0, c, .w o⟩
  | .lea c o => some ⟨0x2D, 0, c, .r o⟩
  | .fadd c o => some ⟨0x30, 0, c, .r o⟩
  | .fsub c o => some ⟨0x31, 0, c, .r o⟩
  | .fmul c o => some ⟨0x32, 0, c, .r o⟩
  | .ffma c o => some ⟨0x33, 0, c, .r o⟩
  | .fmin c o => some ⟨0x34, 0, c, .r o⟩
  | .fmax c o => some ⟨0x35, 0, c, .r o⟩
  | .fcmp c k o => some ⟨0x36, k.code, c, .r o⟩
  | .fclass c o => some ⟨0x37, 0, c, .r o⟩
  | .frcp c o => some ⟨0x38, 0, c, .r o⟩
  | .frsq c o => some ⟨0x38, 1, c, .r o⟩
  | .fsqrt c o => some ⟨0x38, 2, c, .r o⟩
  | .fexp2 c o => some ⟨0x38, 3, c, .r o⟩
  | .flog2 c o => some ⟨0x38, 4, c, .r o⟩
  | .fsin c o => some ⟨0x38, 5, c, .r o⟩
  | .fcos c o => some ⟨0x38, 6, c, .r o⟩
  | .frnd c o => some ⟨0x38, 7, c, .r o⟩
  | .fdiv c o => some ⟨0x39, 0, c, .r o⟩
  | .fscale c o => some ⟨0x3A, 0, c, .r o⟩
  | .cvt c o => some ⟨0x3B, 0, c, .r o⟩
  | .cvtb c o => some ⟨0x3C, 0, c, .r o⟩
  | .cvtx c o => some ⟨0x3D, 0, c, .r o⟩
  | .pack c o => some ⟨0x3E, 0, c, .r o⟩
  | .unpk c o => some ⟨0x3F, 0, c, .r o⟩
  | .swz c o => some ⟨0x40, 0, c, .r o⟩
  | .shfl c o => some ⟨0x41, 0, c, .r o⟩
  | .shfli c o => some ⟨0x42, 0, c, .r o⟩
  | .voteAny c o => some ⟨0x43, 0, c, .r o⟩
  | .voteAll c o => some ⟨0x43, 1, c, .r o⟩
  | .voteBallot c o => some ⟨0x43, 2, c, .r o⟩
  | .pand c o => some ⟨0x44, 0, c, .r o⟩
  | .por c o => some ⟨0x44, 1, c, .r o⟩
  | .pxor c o => some ⟨0x44, 2, c, .r o⟩
  | .pnot c o => some ⟨0x44, 3, c, .r o⟩
  | .pget c o => some ⟨0x44, 4, c, .r o⟩
  | .pset c o => some ⟨0x44, 5, c, .r o⟩
  | .flgrd c o => some ⟨0x45, 0, c, .r o⟩
  | .flgclr c o => some ⟨0x45, 1, c, .r o⟩
  | .endorse c o => some ⟨0x46, 0, c, .r o⟩
  | .endp c o => some ⟨0x47, 0, c, .r o⟩
  | .atag c o => some ⟨0x48, 0, c, .r o⟩
  | .ld c o => some ⟨0x50, 0, c, .m o⟩
  | .st c o => some ⟨0x51, 0, c, .m o⟩
  | .ldl c o => some ⟨0x52, 0, c, .m o⟩
  | .stl c o => some ⟨0x53, 0, c, .m o⟩
  | .lds c o => some ⟨0x54, 0, c, .m o⟩
  | .pref c o => some ⟨0x55, 0, c, .m o⟩
  | .fenceAcq c o => some ⟨0x56, 0, c, .s o⟩
  | .fenceRel c o => some ⟨0x56, 1, c, .s o⟩
  | .fenceFull c o => some ⟨0x56, 2, c, .s o⟩
  | .role c o => some ⟨0x58, 0, c, .s o⟩
  | .bar c o => some ⟨0x59, 0, c, .s o⟩
  | .barx c o => some ⟨0x5A, 0, c, .s o⟩
  | .sread c o => some ⟨0x5B, 0, c, .s o⟩
  | .plevel c o => some ⟨0x5C, 0, c, .s o⟩
  | .setgrade c o => some ⟨0x5D, 0, c, .s o⟩
  | .pread c o => some ⟨0x5E, 0, c, .s o⟩
  | .wld c o => some ⟨0x60, 0, c, .q o⟩
  | .wswp c o => some ⟨0x61, 0, c, .q o⟩
  | .mma c o => some ⟨0x62, 0, c, .q o⟩
  | .zclr c o => some ⟨0x63, 0, c, .q o⟩
  | .zrd c o => some ⟨0x64, 0, c, .q o⟩
  | .zwr c o => some ⟨0x65, 0, c, .q o⟩
  | .rdc c o => some ⟨0x66, 0, c, .q o⟩
  | .scan c o => some ⟨0x67, 0, c, .q o⟩
  | .chain c o => some ⟨0x68, 0, c, .q o⟩
  | .cpy c o => some ⟨0x70, 0, c, .e o⟩
  | .cpyr c o => some ⟨0x71, 0, c, .e o⟩
  | .cpos c o => some ⟨0x72, 0, c, .e o⟩
  | .cwait c o => some ⟨0x73, 0, c, .e o⟩
  | .ewait c o => some ⟨0x74, 0, c, .e o⟩
  | .eqry c o => some ⟨0x75, 0, c, .e o⟩
  | .dtab c o => some ⟨0x76, 0, c, .e o⟩
  | .dec c o => some ⟨0x77, 0, c, .e o⟩
  | .aadd c o => some ⟨0x78, 0, c, .x o⟩
  | .amin c o => some ⟨0x78, 1, c, .x o⟩
  | .amax c o => some ⟨0x78, 2, c, .x o⟩
  | .aand c o => some ⟨0x78, 3, c, .x o⟩
  | .aor c o => some ⟨0x78, 4, c, .x o⟩
  | .axor c o => some ⟨0x78, 5, c, .x o⟩
  | .axchg c o => some ⟨0x78, 6, c, .x o⟩
  | .acas c o => some ⟨0x78, 7, c, .x o⟩
  | .afadd c o => some ⟨0x78, 8, c, .x o⟩
  | .afaddO c o => some ⟨0x78, 9, c, .x o⟩
  | .aflush c o => some ⟨0x78, 10, c, .x o⟩
  | .stbl c o => some ⟨0x79, 0, c, .x o⟩
  | .ldt c o => some ⟨0x7A, 0, c, .x o⟩
  | .stt c o => some ⟨0x7B, 0, c, .x o⟩
  | .xtr c o => some ⟨0x7C, 0, c, .x o⟩
  | .ccfg c o => some ⟨0x7D, 0, c, .x o⟩
  | .cslot c o => some ⟨0x7D, 1, c, .x o⟩
  | .cgate c o => some ⟨0x7D, 2, c, .x o⟩
  | .cput c o => some ⟨0x7D, 3, c, .x o⟩
  | .cstat c o => some ⟨0x7D, 4, c, .x o⟩
  | .cfree c o => some ⟨0x7D, 5, c, .x o⟩
  | .settle c o => some ⟨0x7E, 0, c, .s o⟩
  | .codesync c o => some ⟨0x7E, 1, c, .s o⟩
  | .tlbinv c o => some ⟨0x7F, 0, c, .s o⟩
  | .mapctlMap c o => some ⟨0x7F, 1, c, .s o⟩
  | .mapctlUnmap c o => some ⟨0x7F, 1, c, .s o⟩
  | .mapctlProtect c o => some ⟨0x7F, 1, c, .s o⟩
  | .mapctlMigrate c o => some ⟨0x7F, 1, c, .s o⟩
  | .lnch c o => some ⟨0x7F, 2, c, .s o⟩
  | .savectx c o => some ⟨0x7F, 3, c, .s o⟩
  | .restctx c o => some ⟨0x7F, 4, c, .s o⟩
  | .snap c o => some ⟨0x7F, 5, c, .s o⟩
  | _ => none

/-- MAPCTL's operation is in its selector (R339): each of the four constructors holds its own code, and `.map`'s also
holds the codes 4 to 255 that the entry refuses. -/
def mapctlSel (i : Instr) : Bool :=
  match i with
  | .mapctlMap _ o => o.sel == 0 || o.sel ≥ 4
  | .mapctlUnmap _ o => o.sel == 1
  | .mapctlProtect _ o => o.sel == 2
  | .mapctlMigrate _ o => o.sel == 3
  | _ => true

/-- The control part fits (R56) and a hold count stands only under version 1 (R72 row 6). -/
def Ctl.ok (c : Ctl) : Bool := c.hold < 8 && c.gp < 16 && (c.ver1 || c.hold == 0)

/-- The operands of a word are well formed: in range, reserved fields zero, the A bit and the codes allowed (R72 rows 6
to 8). -/
def Enc.ok (e : Enc) : Bool :=
  e.ctl.ok && e.body.fits && e.body.reservedOk e.major e.fn e.body.raw
  && (!e.ctl.apx || approxMajor e.major) && e.body.typesOk e.major e.fn

/-- A well-formed instruction. An event has no word. -/
def Instr.wellFormed (i : Instr) : Bool :=
  match i.enc with
  | some e => e.ok && mapctlSel i
  | none => false

end Sys2Proof
end

