-- ==== Sys2Proof/Decode.lean ====
section
/-! DEFINITION. Decoding a 64-bit word (R56, R64 to R70) with the checks that R72 makes on the word alone, rows 2 to 8,
in their order; and the encoder, from the same field tables. -/

namespace Sys2Proof

/-- Fields as (width, value), least significant first, packed into one number. -/
def packFields : List (Nat × Nat) → Nat
  | [] => 0
  | (w, v) :: r => v + 2 ^ w * packFields r

/-- The fields of the given widths, least significant first. -/
def unpackFields : List Nat → Nat → List Nat
  | [], _ => []
  | w :: r, n => n % 2 ^ w :: unpackFields r (n / 2 ^ w)

def bit (b : Bool) : Nat := if b then 1 else 0

/-- Widths of the operand fields of each format, least significant first (R64 to R66). Format R is listed with its two
slots; `widthsRI` is the same with imm16. -/
def Fmt.widths : Fmt → List Nat
  | .r => [2, 1, 1, 5, 2, 4, 7, 1, 7, 1, 7, 7]
  | .w => [4, 1, 32, 1, 7]
  | .m => [2, 1, 4, 16, 1, 7, 1, 6, 7]
  | .x => [5, 4, 7, 7, 1, 7, 1, 6, 7]
  | .b => [36, 3, 5, 1]
  | .j => [32, 7, 5, 1]
  | .n => [16, 29]
  | .s => [5, 6, 4, 8, 7, 1, 7, 7]
  | .q => [17, 5, 2, 4, 1, 6, 6, 4]
  | .e => [13, 4, 5, 4, 1, 6, 6, 6]

def widthsRI : List Nat := [2, 1, 1, 5, 2, 4, 16, 7, 7]

/-- A base or index field: its value, or absent under its N bit (R65). -/
def optOf (n v : Nat) : Option Nat := if n = 1 then none else some v

def optBit (v : Option Nat) : Nat := bit v.isNone
def optVal (v : Option Nat) : Nat := v.getD 0

/-- What the operand bits of a word say: the fn field, the type or scope code, whether the format's own zero bits (and
the fields marked absent) are zero, whether the code names no type or scope, and the operands. -/
structure Parsed where
  fn : Nat
  raw : Nat
  zeros : Bool
  bad : Bool
  body : Body
deriving DecidableEq, Repr

def parseR (v : Nat) : Parsed :=
  match unpackFields widthsRI v with
  | [x, im, u, fn, rnd, ty, imm, a, d] =>
    if im = 1 then
      { fn := fn, raw := ty, zeros := true, bad := (Ty.ofCode ty).isNone,
        body := .r { d := d, a := a, bc := .imm imm, ty := (Ty.ofCode ty).getD .s8, rnd := Rnd.ofCode rnd,
                     u := u == 1, x := x } }
    else
      match unpackFields [7, 1, 7, 1] imm with
      | [ci, ck, bi, bk] =>
        { fn := fn, raw := ty, zeros := true, bad := (Ty.ofCode ty).isNone,
          body := .r { d := d, a := a, bc := .regs ⟨bk == 1, bi⟩ ⟨ck == 1, ci⟩, ty := (Ty.ofCode ty).getD .s8,
                       rnd := Rnd.ofCode rnd, u := u == 1, x := x } }
      | _ => ⟨0, 0, false, false, .r {}⟩
  | _ => ⟨0, 0, false, false, .r {}⟩

def parseW (v : Nat) : Parsed :=
  match unpackFields Fmt.w.widths v with
  | [z, u, imm, h, d] =>
    ⟨0, 0, z == 0 && (u == 0 || d < 64), false, .w { d := d, h := h == 1, imm := imm, u := u == 1 }⟩
  | _ => ⟨0, 0, false, false, .w {}⟩

def parseM (v : Nat) : Parsed :=
  match unpackFields Fmt.m.widths v with
  | [x, u, ty, disp, inn, ix, bn, base, t] =>
    { fn := 0, raw := ty, zeros := (inn == 0 || ix == 0) && (bn == 0 || base == 0), bad := (Ty.ofCode ty).isNone,
      body := .m { t := t, base := optOf bn base, index := optOf inn ix, disp := disp,
                   ty := (Ty.ofCode ty).getD .s8, u := u == 1, x := x } }
  | _ => ⟨0, 0, false, false, .m {}⟩

def parseX (v : Nat) : Parsed :=
  match unpackFields Fmt.x.widths v with
  | [fn, ty, g, e, inn, ix, bn, base, d] =>
    { fn := fn, raw := ty, zeros := (inn == 0 || ix == 0) && (bn == 0 || base == 0), bad := (Ty.ofCode ty).isNone,
      body := .x { d := d, base := optOf bn base, index := optOf inn ix, e := e, g := g,
                   ty := (Ty.ofCode ty).getD .s8 } }
  | _ => ⟨0, 0, false, false, .x {}⟩

def parseB (v : Nat) : Parsed :=
  match unpackFields Fmt.b.widths v with
  | [off, z, frame, y] => ⟨0, 0, z == 0, false, .b { y := y == 1, frame := frame, off := off }⟩
  | _ => ⟨0, 0, false, false, .b {}⟩

def parseJ (v : Nat) : Parsed :=
  match unpackFields Fmt.j.widths v with
  | [z, target, frame, y] => ⟨0, 0, z == 0, false, .j { y := y == 1, frame := frame, target := target }⟩
  | _ => ⟨0, 0, false, false, .j {}⟩

def parseN (v : Nat) : Parsed :=
  match unpackFields Fmt.n.widths v with
  | [code, z] => ⟨0, 0, z == 0, false, .n { code := code }⟩
  | _ => ⟨0, 0, false, false, .n {}⟩

def parseS (v : Nat) : Parsed :=
  match unpackFields Fmt.s.widths v with
  | [z, fn, sc, sel, bi, bk, a, d] =>
    { fn := fn, raw := sc, zeros := z == 0, bad := (Scope.ofCode sc).isNone,
      body := .s { d := d, a := a, b := ⟨bk == 1, bi⟩, sel := sel, scope := (Scope.ofCode sc).getD .strand } }
  | _ => ⟨0, 0, false, false, .s {}⟩

def parseQ (v : Nat) : Parsed :=
  match unpackFields Fmt.q.widths v with
  | [z0, x, rnd, ty, l, sN, sA, z] =>
    { fn := 0, raw := ty, zeros := z0 == 0, bad := (Ty.ofCode ty).isNone,
      body := .q { z := z, sA := sA, sN := sN, latch := l, ty := (Ty.ofCode ty).getD .s8, rnd := Rnd.ofCode rnd,
                   x := x } }
  | _ => ⟨0, 0, false, false, .q {}⟩

def parseE (v : Nat) : Parsed :=
  match unpackFields Fmt.e.widths v with
  | [z, ty, x, chan, sn, so, st, sd] =>
    { fn := 0, raw := ty, zeros := z == 0, bad := (Ty.ofCode ty).isNone,
      body := .e { sd := sd, st := st, so := so, sn := sn == 1, chan := chan, x := x,
                   ty := (Ty.ofCode ty).getD .s8 } }
  | _ => ⟨0, 0, false, false, .e {}⟩

def parseBody (f : Fmt) (v : Nat) : Parsed :=
  match f with
  | .r => parseR v | .w => parseW v | .m => parseM v | .x => parseX v | .b => parseB v
  | .j => parseJ v | .n => parseN v | .s => parseS v | .q => parseQ v | .e => parseE v

/-- The operand bits of a body; `fn` goes where its format keeps it. -/
def Body.bits (fn : Nat) : Body → Nat
  | .r o => packFields [(2, o.x), (1, bit (match o.bc with | .imm _ => true | .regs _ _ => false)), (1, bit o.u),
      (5, fn), (2, o.rnd.code), (4, o.ty.code),
      (16, match o.bc with
           | .imm v => v
           | .regs sb sc => packFields [(7, sc.idx), (1, bit sc.uni), (7, sb.idx), (1, bit sb.uni)]),
      (7, o.a), (7, o.d)]
  | .w o => packFields [(4, 0), (1, bit o.u), (32, o.imm), (1, bit o.h), (7, o.d)]
  | .m o => packFields [(2, o.x), (1, bit o.u), (4, o.ty.code), (16, o.disp), (1, optBit o.index),
      (7, optVal o.index), (1, optBit o.base), (6, optVal o.base), (7, o.t)]
  | .x o => packFields [(5, fn), (4, o.ty.code), (7, o.g), (7, o.e), (1, optBit o.index), (7, optVal o.index),
      (1, optBit o.base), (6, optVal o.base), (7, o.d)]
  | .b o => packFields [(36, o.off), (3, 0), (5, o.frame), (1, bit o.y)]
  | .j o => packFields [(32, 0), (7, o.target), (5, o.frame), (1, bit o.y)]
  | .n o => packFields [(16, o.code), (29, 0)]
  | .s o => packFields [(5, 0), (6, fn), (4, o.scope.code), (8, o.sel), (7, o.b.idx), (1, bit o.b.uni), (7, o.a),
      (7, o.d)]
  | .q o => packFields [(17, 0), (5, o.x), (2, o.rnd.code), (4, o.ty.code), (1, o.latch), (6, o.sN), (6, o.sA),
      (4, o.z)]
  | .e o => packFields [(13, 0), (4, o.ty.code), (5, o.x), (4, o.chan), (1, bit o.sn), (6, o.so), (6, o.st),
      (6, o.sd)]

/-- The instruction of format R with this major and fn (R70). -/
def makeR (m fn : Nat) (c : Ctl) (o : OpR) : Option Instr :=
  match m, fn with
  | 0x18, 0 => some (.iadd c o) | 0x19, 0 => some (.isub c o) | 0x1A, 0 => some (.imul c o)
  | 0x1B, 0 => some (.imulh c o) | 0x1C, 0 => some (.imad c o) | 0x1D, 0 => some (.idiv c o)
  | 0x1E, 0 => some (.irem c o) | 0x1F, 0 => some (.imin c o) | 0x20, 0 => some (.imax c o)
  | 0x21, 0 => some (.iabs c o) | 0x22, 0 => some (.ineg c o)
  | 0x23, 0 => some (.and c o) | 0x23, 1 => some (.or c o) | 0x23, 2 => some (.xor c o)
  | 0x23, 3 => some (.not c o) | 0x23, 4 => some (.andn c o)
  | 0x24, 0 => some (.shl c o) | 0x24, 1 => some (.shr c o) | 0x25, 0 => some (.rot c o)
  | 0x26, 0 => some (.popc c o) | 0x26, 1 => some (.clz c o) | 0x26, 2 => some (.brev c o)
  | 0x27, 0 => some (.bfx c o) | 0x28, 0 => some (.bfi c o) | 0x29, 0 => some (.sel c o)
  | 0x2A, f => (Cmp.ofCode f).map fun k => .icmp c k o
  | 0x2B, 0 => some (.mov c o) | 0x2D, 0 => some (.lea c o)
  | 0x30, 0 => some (.fadd c o) | 0x31, 0 => some (.fsub c o) | 0x32, 0 => some (.fmul c o)
  | 0x33, 0 => some (.ffma c o) | 0x34, 0 => some (.fmin c o) | 0x35, 0 => some (.fmax c o)
  | 0x36, f => (Cmp.ofCode f).map fun k => .fcmp c k o
  | 0x37, 0 => some (.fclass c o)
  | 0x38, 0 => some (.frcp c o) | 0x38, 1 => some (.frsq c o) | 0x38, 2 => some (.fsqrt c o)
  | 0x38, 3 => some (.fexp2 c o) | 0x38, 4 => some (.flog2 c o) | 0x38, 5 => some (.fsin c o)
  | 0x38, 6 => some (.fcos c o) | 0x38, 7 => some (.frnd c o)
  | 0x39, 0 => some (.fdiv c o) | 0x3A, 0 => some (.fscale c o) | 0x3B, 0 => some (.cvt c o)
  | 0x3C, 0 => some (.cvtb c o) | 0x3D, 0 => some (.cvtx c o) | 0x3E, 0 => some (.pack c o)
  | 0x3F, 0 => some (.unpk c o) | 0x40, 0 => some (.swz c o) | 0x41, 0 => some (.shfl c o)
  | 0x42, 0 => some (.shfli c o)
  | 0x43, 0 => some (.voteAny c o) | 0x43, 1 => some (.voteAll c o) | 0x43, 2 => some (.voteBallot c o)
  | 0x44, 0 => some (.pand c o) | 0x44, 1 => some (.por c o) | 0x44, 2 => some (.pxor c o)
  | 0x44, 3 => some (.pnot c o) | 0x44, 4 => some (.pget c o) | 0x44, 5 => some (.pset c o)
  | 0x45, 0 => some (.flgrd c o) | 0x45, 1 => some (.flgclr c o)
  | 0x46, 0 => some (.endorse c o) | 0x47, 0 => some (.endp c o) | 0x48, 0 => some (.atag c o)
  | _, _ => none

/-- The instruction of format X with this major and fn (R70). -/
def makeX (m fn : Nat) (c : Ctl) (o : OpX) : Option Instr :=
  match m, fn with
  | 0x78, 0 => some (.aadd c o) | 0x78, 1 => some (.amin c o) | 0x78, 2 => some (.amax c o)
  | 0x78, 3 => some (.aand c o) | 0x78, 4 => some (.aor c o) | 0x78, 5 => some (.axor c o)
  | 0x78, 6 => some (.axchg c o) | 0x78, 7 => some (.acas c o) | 0x78, 8 => some (.afadd c o)
  | 0x78, 9 => some (.afaddO c o) | 0x78, 10 => some (.aflush c o)
  | 0x79, 0 => some (.stbl c o) | 0x7A, 0 => some (.ldt c o) | 0x7B, 0 => some (.stt c o)
  | 0x7C, 0 => some (.xtr c o)
  | 0x7D, 0 => some (.ccfg c o) | 0x7D, 1 => some (.cslot c o) | 0x7D, 2 => some (.cgate c o)
  | 0x7D, 3 => some (.cput c o) | 0x7D, 4 => some (.cstat c o) | 0x7D, 5 => some (.cfree c o)
  | _, _ => none

/-- The instruction of format S with this major and fn (R70); MAPCTL's four rows by its selector (R339). -/
def makeS (m fn : Nat) (c : Ctl) (o : OpS) : Option Instr :=
  match m, fn with
  | 0x08, 0 => some (.join c o) | 0x09, 0 => some (.leave c o) | 0x0A, 0 => some (.waitm c o)
  | 0x56, 0 => some (.fenceAcq c o) | 0x56, 1 => some (.fenceRel c o) | 0x56, 2 => some (.fenceFull c o)
  | 0x58, 0 => some (.role c o) | 0x59, 0 => some (.bar c o) | 0x5A, 0 => some (.barx c o)
  | 0x5B, 0 => some (.sread c o) | 0x5C, 0 => some (.plevel c o) | 0x5D, 0 => some (.setgrade c o)
  | 0x5E, 0 => some (.pread c o)
  | 0x7E, 0 => some (.settle c o) | 0x7E, 1 => some (.codesync c o)
  | 0x7F, 0 => some (.tlbinv c o)
  | 0x7F, 1 =>
    if o.sel = 1 then some (.mapctlUnmap c o) else if o.sel = 2 then some (.mapctlProtect c o)
    else if o.sel = 3 then some (.mapctlMigrate c o) else some (.mapctlMap c o)
  | 0x7F, 2 => some (.lnch c o) | 0x7F, 3 => some (.savectx c o) | 0x7F, 4 => some (.restctx c o)
  | 0x7F, 5 => some (.snap c o)
  | _, _ => none

/-- The instruction of a body with this major and fn (R70). -/
def make (m fn : Nat) (c : Ctl) (b : Body) : Option Instr :=
  match b with
  | .r o => makeR m fn c o
  | .x o => makeX m fn c o
  | .s o => makeS m fn c o
  | .w o => if m = 0x2C then some (.movi c o) else none
  | .b o =>
    match m with
    | 0x02 => some (.bra c o) | 0x05 => some (.call c o) | 0x0B => some (.spawn c o) | 0x0D => some (.refill c o)
    | _ => none
  | .j o => match m with | 0x03 => some (.brx c o) | 0x06 => some (.callx c o) | _ => none
  | .n o =>
    match m with
    | 0x01 => some (.nop c o) | 0x04 => some (.land c o) | 0x07 => some (.ret c o) | 0x0C => some (.exit c o)
    | 0x0E => some (.yield c o) | 0x0F => some (.trap c o) | 0x10 => some (.bpt c o) | 0x11 => some (.tret c o)
    | _ => none
  | .m o =>
    match m with
    | 0x50 => some (.ld c o) | 0x51 => some (.st c o) | 0x52 => some (.ldl c o) | 0x53 => some (.stl c o)
    | 0x54 => some (.lds c o) | 0x55 => some (.pref c o) | _ => none
  | .q o =>
    match m with
    | 0x60 => some (.wld c o) | 0x61 => some (.wswp c o) | 0x62 => some (.mma c o) | 0x63 => some (.zclr c o)
    | 0x64 => some (.zrd c o) | 0x65 => some (.zwr c o) | 0x66 => some (.rdc c o) | 0x67 => some (.scan c o)
    | 0x68 => some (.chain c o) | _ => none
  | .e o =>
    match m with
    | 0x70 => some (.cpy c o) | 0x71 => some (.cpyr c o) | 0x72 => some (.cpos c o) | 0x73 => some (.cwait c o)
    | 0x74 => some (.ewait c o) | 0x75 => some (.eqry c o) | 0x76 => some (.dtab c o) | 0x77 => some (.dec c o)
    | _ => none

/-- Rows 4 to 8 of R72, and the instruction. -/
def decodeParts (c : Ctl) (m v : Nat) : Except Reject Instr :=
  match Fmt.ofMajor m with
  | none => .error .major
  | some f =>
    let p := parseBody f v
    if p.fn ≥ fnCount m then .error .fn
    else if !(p.zeros && (c.ver1 || c.hold == 0) && p.body.reservedOk m p.fn p.raw) then .error .reserved
    else if c.apx && !approxMajor m then .error .approx
    else if p.bad || !p.body.typesOk m p.fn then .error .type
    else match make m p.fn c p.body with
      | some i => .ok i
      | none => .error .fn

/-- Decode a word (R72 rows 2 to 8, first failing row). -/
def decode (w : BitVec 64) : Except Reject Instr :=
  match unpackFields [45, 4, 1, 7, 1, 3, 1, 2] w.toNat with
  | [v, gp, gn, m, apx, hold, sw, ver] =>
    if ver ≥ 2 then .error .version
    else if w = 0 then .error .zero
    else decodeParts { ver1 := ver == 1, sw := sw == 1, hold := hold, apx := apx == 1, gn := gn == 1, gp := gp } m v
  | _ => .error .version

/-- The word of eight bytes in memory order (R5, R56). -/
def wordOfBytes : List Byte → Nat
  | [] => 0
  | b :: r => b.toNat + 256 * wordOfBytes r

/-- The eight bytes of a word in memory order (R5). -/
def bytesOfWord : Nat → Nat → List Byte
  | 0, _ => []
  | k + 1, w => BitVec.ofNat 8 w :: bytesOfWord k (w / 256)

/-- Decode the eight bytes at an instruction's address. -/
def decodeBytes (bs : List Byte) : Except Reject Instr := decode (BitVec.ofNat 64 (wordOfBytes bs))

/-- The word of an encoding. -/
def Enc.word (e : Enc) : BitVec 64 :=
  BitVec.ofNat 64 (packFields [(45, e.body.bits e.fn), (4, e.ctl.gp), (1, bit e.ctl.gn), (7, e.major),
    (1, bit e.ctl.apx), (3, e.ctl.hold), (1, bit e.ctl.sw), (2, bit e.ctl.ver1)])

/-- The word of an instruction; an event has none. -/
def encode (i : Instr) : Option (BitVec 64) := i.enc.map Enc.word

/-- What the decoder reads from an instruction whose bits are `w`, bit 0 the least significant of its one 64-bit word,
stored little-endian. -/
def decodeTableWord (nbits w : Nat) : Option Instr :=
  match decodeBytes (bytesOfWord 8 (w % 2 ^ nbits)) with
  | .ok i => some i
  | .error _ => none

end Sys2Proof
end

