-- ==== Sys2Proof/Machine/Parts.lean ====
section
/-! DEFINITION. The parts of the package, registers and outstanding results (R59 to R62), the register window (R83),
causes (R115), traps raised (R107) and the frontier (R80, R81). -/

namespace Sys2Proof.Machine

abbrev Out := Host.Outcome State Fault Refusal

/-! ### Cause codes (R115) -/

namespace Cause
def illZero : Nat := 0x101
def illMajor : Nat := 0x102
def illFn : Nat := 0x103
def illReserved : Nat := 0x104
def illApprox : Nat := 0x105
def illType : Nat := 0x106
def illFetchA : Nat := 0x107
def illOperand : Nat := 0x108
def version : Nat := 0x201
def privilege : Nat := 0x301
def aAddr : Nat := 0x401
def aTarget : Nat := 0x402
def aBranch : Nat := 0x403
def aGuard : Nat := 0x404
def aStore : Nat := 0x405
def aAtomval : Nat := 0x406
def aFootprint : Nat := 0x407
def notBatched : Nat := 0x501
def mixedGuard : Nat := 0x502
def depthOverflow : Nat := 0x503
def retUnderflow : Nat := 0x504
def badLink : Nat := 0x505
def targetMisaligned : Nat := 0x506
def targetNotLand : Nat := 0x507
def registerRange : Nat := 0x508
def waitDeadlock : Nat := 0x509
def roleDeadlock : Nat := 0x50A
def tretOutside : Nat := 0x50B
def divZero : Nat := 0x601
def misaligned : Nat := 0x701
def unmapped : Nat := 0x702
def permission : Nat := 0x703
def notExecutable : Nat := 0x704
def fetchUnmapped : Nat := 0x705
def fetchNotExecutable : Nat := 0x706
def spaceRange : Nat := 0x707
def stagedFault : Nat := 0x801
def classBusy : Nat := 0x802
def notStaged : Nat := 0x803
def classAbsent : Nat := 0x804
def tableFull : Nat := 0x805
def combineConfig : Nat := 0x811
def combineSlot : Nat := 0x812
def combinePosition : Nat := 0x813
def formatMismatch : Nat := 0x901
def chainFormation : Nat := 0x902
def latchState : Nat := 0x903
def descriptor : Nat := 0x911
def ticket : Nat := 0x912
def codeTable : Nat := 0x913
def trap : Nat := 0xA01
def breakpoint : Nat := 0xA02
def phasedTime : Nat := 0xB01
def spillOverflow : Nat := 0xB02
def doubleTrap : Nat := 0xB03
def trapVectorBad : Nat := 0xB04
def resizeKill : Nat := 0xB05
def hostKill : Nat := 0xB06
def uncorrectable : Nat := 0xC01
def pairedMismatch : Nat := 0xC02
def rollbackLimit : Nat := 0xC03
end Cause

/-- Causes that go to the management service (R115, R105). -/
def Cause.toService (c : Nat) (debug : Bool) : Bool :=
  (c == 0xA02 && debug) || (0xB02 ≤ c && c ≤ 0xB06) || c == 0xC01 || c == 0xC03

/-- The cause of a word refused by R72. -/
def Cause.ofReject : Option Reject → Nat
  | none => illFetchA
  | some .version => version
  | some .zero => illZero
  | some .major => illMajor
  | some .fn => illFn
  | some .reserved => illReserved
  | some .approx => illApprox
  | some .type => illType

/-! ### Lanes -/

def allLanes : List Nat := List.range 32

def lanesOf (m : Lanes) : List Nat := allLanes.filter fun l => m.getLsbD l

/-- The mask of one lane. -/
def laneBit (l : Nat) : Lanes := BitVec.ofNat 32 (2 ^ l)

def maskOf (l : List Nat) : Lanes := l.foldl (fun m k => m ||| BitVec.ofNat 32 (2 ^ k)) 0

/-! ### The parts of the package -/

def dieOfCore (c : Nat) : Nat := c / 96
def clusterOfCore (c : Nat) : Nat := c / 8
def dieOfCluster (k : Nat) : Nat := k / 12

def State.core (s : State) (c : Nat) : Core := s.cores.val c {}
def State.cluster (s : State) (k : Nat) : Cluster := s.clusters.val k {}
def State.die (s : State) (d : Nat) : Die := s.dies.val d {}

def State.modCore (s : State) (c : Nat) (f : Core → Core) : State := { s with cores := s.cores.upd c {} f }
def State.modCluster (s : State) (k : Nat) (f : Cluster → Cluster) : State :=
  { s with clusters := s.clusters.upd k {} f }
def State.modDie (s : State) (d : Nat) (f : Die → Die) : State := { s with dies := s.dies.upd d {} f }

def State.team? (s : State) (t : Nat) : Option Team := s.teams.find t
def State.setTeam (s : State) (tm : Team) : State := { s with teams := s.teams.put tm.key tm }
def State.modTeam (s : State) (t : Nat) (f : Team → Team) : State :=
  match s.team? t with
  | some tm => { s with teams := s.teams.put t (f tm) }
  | none => s

def Team.sheaf (tm : Team) (j : Nat) : Sheaf := tm.sheaves.getD j {}
def Team.modSheaf (tm : Team) (j : Nat) (f : Sheaf → Sheaf) : Team := { tm with sheaves := tm.sheaves.modify j f }
def State.modSheaf (s : State) (t j : Nat) (f : Sheaf → Sheaf) : State := s.modTeam t fun tm => tm.modSheaf j f

def Sheaf.strand (sh : Sheaf) (l : Nat) : Strand := sh.strands.getD l {}
def Sheaf.modStrand (sh : Sheaf) (l : Nat) (f : Strand → Strand) : Sheaf :=
  { sh with strands := sh.strands.modify l f }
def Sheaf.modLanes (sh : Sheaf) (ls : List Nat) (f : Strand → Strand) : Sheaf :=
  ls.foldl (fun h l => h.modStrand l f) sh

def teamKey (launch stage lid : Nat) : Nat := launch * 2 ^ 20 + stage * 2 ^ 16 + lid

/-- Number of a sheaf, the source of a store. -/
def sheafId (t j : Nat) : Nat := t * 16 + j

def State.launch? (s : State) (n : Nat) : Option Launch := s.launches.find? fun x => x.n == n
def State.modLaunch (s : State) (n : Nat) (f : Launch → Launch) : State :=
  { s with launches := s.launches.map fun x => if x.n == n then f x else x }

def Team.modJob (tm : Team) (seq : Nat) (f : Job → Job) : Team :=
  { tm with jobs := tm.jobs.map fun j => if j.seq == seq then f j else j }

def Team.job? (tm : Team) (seq : Nat) : Option Job := tm.jobs.find? fun j => j.seq == seq

def Team.larderSize (tm : Team) : Nat := tm.st.larderA + tm.st.larderP

/-! ### Registers (R24, R41, R83) -/

/-- W of R83. -/
def Sheaf.w (sh : Sheaf) : Nat := min 128 sh.allot

/-- The ring entry of Vk of a lane (R83). -/
def Sheaf.ring (sh : Sheaf) (l k : Nat) : Nat := ((sh.strand l).base + k) % sh.allot

def Sheaf.entryVal (sh : Sheaf) (l e : Nat) : Val := sh.vreg.val (l * 2048 + e) {}
def Sheaf.setEntry (sh : Sheaf) (l e : Nat) (v : Val) : Sheaf :=
  { sh with vreg := sh.vreg.store {} (l * 2048 + e) v }

/-- Vk of a lane. -/
def Sheaf.v (sh : Sheaf) (l k : Nat) : Val := sh.entryVal l (sh.ring l k)

def Sheaf.setV (sh : Sheaf) (l k : Nat) (v : Val) : Sheaf := sh.setEntry l (sh.ring l k) v

/-- Sk. -/
def Sheaf.u (sh : Sheaf) (k : Nat) : Val := sh.ureg.val k {}
def Sheaf.setU (sh : Sheaf) (k : Nat) (v : Val) : Sheaf := { sh with ureg := sh.ureg.store {} k v }

def Sheaf.mask (sh : Sheaf) (k : Nat) : Lanes := sh.masks.val k 0
def Sheaf.setMask (sh : Sheaf) (k : Nat) (m : Lanes) : Sheaf := { sh with masks := sh.masks.store 0 k m }

/-- The predicate word as it reads: bit 15 is 1 and bit 31 is 0 (R42). -/
def Strand.pw (st : Strand) : BitVec 32 := (st.pword ||| 0x8000) &&& 0x7FFFFFFF

/-- Pk and PAk of a strand; P15 is true and precise (R41, R42). -/
def Strand.pval (st : Strand) (k : Nat) : Bool := st.pw.getLsbD k
def Strand.ptag (st : Strand) (k : Nat) : Bool := st.pw.getLsbD (16 + k)

def setBit32 (w : BitVec 32) (k : Nat) (b : Bool) : BitVec 32 :=
  if b then w ||| BitVec.ofNat 32 (2 ^ k) else w &&& ~~~(BitVec.ofNat 32 (2 ^ k))

/-- Write Pk and its tag; P15 ignores writes (R42). -/
def Strand.setP (st : Strand) (k : Nat) (v t : Option Bool) : Strand :=
  if k ≥ 15 then st
  else
    let w := match v with | some b => setBit32 st.pword k b | none => st.pword
    { st with pword := match t with | some b => setBit32 w (16 + k) b | none => w }

/-! ### Outstanding results (R59 to R62) -/

def blend (old mask bits : Word) : Word := (old &&& ~~~mask) ||| (bits &&& mask)

/-- Write one result into the sheaf's state. -/
def Sheaf.apply (sh : Sheaf) : Wr → Sheaf
  | .v l e m b t =>
    let o := sh.entryVal l e
    sh.setEntry l e { bits := blend o.bits m b, tag := t.getD o.tag }
  | .u k m b t =>
    let o := sh.u k
    sh.setU k { bits := blend o.bits m b, tag := t.getD o.tag }
  | .p l k v t => sh.modStrand l fun st => st.setP k v t
  | .f l set clr => sh.modStrand l fun st => { st with flags := (st.flags &&& ~~~clr) ||| set }

/-- What is left of an earlier write once a later-issued one of the same element has taken effect (R62). Flags are ORed in
bit by bit: an earlier result loses the bits that FLGCLR has cleared, and an earlier FLGCLR those set since. -/
def Wr.without (w r : Wr) : Wr :=
  match w, r with
  | .v l e m b t, .v l' e' m' _ t' =>
    if l = l' && e = e' then .v l e (m &&& ~~~m') b (if t'.isSome then none else t) else w
  | .u k m b t, .u k' m' _ t' =>
    if k = k' then .u k (m &&& ~~~m') b (if t'.isSome then none else t) else w
  | .p l k pv t, .p l' k' pv' t' =>
    if l = l' && k = k' then .p l k (if pv'.isSome then none else pv) (if t'.isSome then none else t) else w
  | .f l set clr, .f l' set' clr' => if l = l' then .f l (set &&& ~~~clr') (clr &&& ~~~set') else w
  | _, _ => w

/-- An outstanding result loses the elements that a later-issued one has written, when either latency is variable (R62). -/
def Pending.outdated (q : Pending) (seq : Nat) (due : Option Nat) (ws : List Wr) : Pending :=
  if q.seq < seq && (q.due.isNone || due.isNone) then { q with writes := q.writes.map fun w => ws.foldl Wr.without w } else q

/-- Take the writes of one result into the state; earlier-issued results still outstanding lose the elements it wrote (R62). -/
def Sheaf.commit (sh : Sheaf) (p : Pending) (ws : List Wr) : Sheaf :=
  let sh1 := ws.foldl Sheaf.apply sh
  { sh1 with
    given := if sh1.shadow.isSome then sh1.given ++ [{ p with writes := ws }] else sh1.given
    pend := sh1.pend.map fun q => q.outdated p.seq p.due ws }

/-- A write that its instruction makes as it issues, such as a call's or a TRET's: its latency is variable, and an
earlier-issued result still outstanding loses those elements (R62). The sheaf's issue count is past every outstanding result. -/
def Sheaf.writeNow (sh : Sheaf) (ws : List Wr) : Sheaf :=
  let sh1 := ws.foldl Sheaf.apply sh
  { sh1 with pend := sh1.pend.map fun q => q.outdated sh1.iss none ws }

/-- The write of a whole ring entry, bits and tag. -/
def Wr.entry (l e : Nat) (v : Val) : Wr := .v l e (BitVec.allOnes 64) v.bits (some v.tag)

/-- Every fixed-latency result due by `cycle` is written, the later-issued last (R61). -/
def Sheaf.commitDue (sh : Sheaf) (cycle : Nat) : Sheaf :=
  let dueBy (p : Pending) : Bool := match p.due with | some d => d ≤ cycle | none => false
  let now := sh.pend.filter dueBy
  let sh1 := { sh with pend := sh.pend.filter fun p => !dueBy p }
  now.foldl (fun h p => h.commit p p.writes) sh1

/-- The lane of a write, none for a uniform. -/
def Wr.lane : Wr → Option Nat
  | .v l _ _ _ _ => some l
  | .u _ _ _ _ => none
  | .p l _ _ _ => some l
  | .f l _ _ => some l

/-- A variable-latency result that is ready is written in the given lanes (R62). -/
def Sheaf.returnResult (sh : Sheaf) (seq : Nat) (lanes : Lanes) : Sheaf :=
  match sh.pend.find? fun p => p.seq == seq && p.due.isNone && p.ready && p.waits == 0 with
  | none => sh
  | some p =>
    let here (w : Wr) : Bool := match w.lane with | some l => lanes.getLsbD l | none => true
    let now := p.writes.filter here
    let rest := p.writes.filter fun w => !here w
    let freed := lanesOf (p.slotOf &&& lanes)
    let left := sh.pend.map fun (q : Pending) =>
      if q.seq == seq then { q with writes := rest, slotOf := q.slotOf &&& ~~~lanes } else q
    let sh1 := { sh with pend := left.filter fun q =>
      !(q.seq == seq && rest.isEmpty && (p.slotOf &&& ~~~lanes) == 0) }
    (sh1.commit p now).modLanes freed fun st => { st with slots := st.slots - 1 }

/-- Add an outstanding result. -/
def Sheaf.push (sh : Sheaf) (p : Pending) : Sheaf := { sh with pend := sh.pend ++ [p] }

def Sheaf.modPend (sh : Sheaf) (seq : Nat) (f : Pending → Pending) : Sheaf :=
  { sh with pend := sh.pend.map fun p => if p.seq == seq then f p else p }

/-- A result becomes ready to return, with these further writes. -/
def Sheaf.ready (sh : Sheaf) (seq : Nat) (ws : List Wr) : Sheaf :=
  sh.modPend seq fun p => { p with ready := true, writes := p.writes ++ ws }

/-- Nothing is outstanding (R63). -/
def Sheaf.quiet (sh : Sheaf) : Bool := sh.pend.isEmpty

/-- A write with its value. -/
def Wr.withBits (w : Wr) (v : Word) : Wr :=
  match w with
  | .v l e m _ t => .v l e m v t
  | .u k m _ t => .u k m v t
  | x => x

/-- Forget what a lane's ended strand would still receive (R103, R232; log entry 9). -/
def Sheaf.dropLane (sh : Sheaf) (l : Nat) : Sheaf :=
  { sh with pend := (sh.pend.map fun p =>
      { p with writes := p.writes.filter fun w => w.lane != some l,
               slotOf := p.slotOf &&& ~~~(BitVec.ofNat 32 (2 ^ l)) }) }

/-! ### Traps raised (R107) -/

/-- Record causes of one issue: they join a trap of the same issue not yet delivered, which takes the code of a TRAP or BPT
(R105, R107). -/
def Sheaf.raise (sh : Sheaf) (iss code : Nat) (causes : List (Nat × Nat × Nat)) : Sheaf :=
  if causes.isEmpty then sh
  else if sh.traps.any fun t => t.iss == iss then
    { sh with traps := sh.traps.map fun t =>
        if t.iss == iss then { t with causes := t.causes ++ causes, code := if t.code == 0 then code else t.code } else t }
  else { sh with traps := sh.traps ++ [{ iss := iss, code := code, causes := causes }] }

/-! ### Frontier (R80, R81) -/

/-- Lanes that count for selection: in a trap handler only HMASK's (R80), and none that a decided pre-emption holds at
its safe point (R351). -/
def Sheaf.counts (sh : Sheaf) (l : Nat) : Bool :=
  !sh.safeAt.getLsbD l && (!sh.tmode || sh.hmask.getLsbD l)

/-- Some strand of the sheaf is active, in HMASK or not (R80, R82); one held at its safe point stands (R351). -/
def Sheaf.anyActive (sh : Sheaf) : Bool := allLanes.any fun l => !sh.safeAt.getLsbD l && (sh.strand l).run == .active

/-- Eligible (R80). -/
def Sheaf.eligible (sh : Sheaf) (l : Nat) : Bool :=
  sh.counts l && ((sh.strand l).run == .active || ((sh.strand l).run == .yielded && !sh.anyActive))

/-- The better of two frontier keys: greater depth, then lower address (R81). -/
def keyLt (a b : Nat × Nat) : Bool := a.1 > b.1 || (a.1 == b.1 && a.2 < b.2)

def Strand.key (st : Strand) : Nat × Nat := (st.depth, st.pc.toNat)

/-- The key that issues next, if any lane is eligible. -/
def Sheaf.front (sh : Sheaf) : Option (Nat × Nat) :=
  (allLanes.filter sh.eligible).foldl (fun b l =>
    let k := (sh.strand l).key
    match b with
    | none => some k
    | some c => if keyLt k c then some k else some c) none

/-- The batch: every eligible lane with the front key, ascending (R81). -/
def Sheaf.batch (sh : Sheaf) : List Nat :=
  match sh.front with
  | none => []
  | some k => allLanes.filter fun l => sh.eligible l && (sh.strand l).key == k

/-! ### What a shadow sheaf takes from its leader (R180) -/

/-- How strands differ, lane by lane. -/
def changesOf (old new : List Strand) : List Change :=
  allLanes.filterMap fun l =>
    let a := old.getD l {}
    let b := new.getD l {}
    if a = b then none else some { lane := l, old := a, new := b }

/-- A strand takes the fields that its leader's changed. -/
def Change.on (c : Change) (st : Strand) : Strand :=
  { pc := if c.old.pc = c.new.pc then st.pc else c.new.pc
    depth := if c.old.depth = c.new.depth then st.depth else c.new.depth
    base := if c.old.base = c.new.base then st.base else c.new.base
    floor := if c.old.floor = c.new.floor then st.floor else c.new.floor
    pword := if c.old.pword = c.new.pword then st.pword else c.new.pword
    flags := if c.old.flags = c.new.flags then st.flags else c.new.flags
    run := if c.old.run = c.new.run then st.run else c.new.run
    park := if c.old.park = c.new.park then st.park else c.new.park
    item := if c.old.item = c.new.item then st.item else c.new.item
    seqIdx := if c.old.seqIdx = c.new.seqIdx then st.seqIdx else c.new.seqIdx
    slots := if c.old.slots = c.new.slots then st.slots else c.new.slots
    hdepth := if c.old.hdepth = c.new.hdepth then st.hdepth else c.new.hdepth
    refused := if c.old.refused = c.new.refused then st.refused else c.new.refused
    covers := if c.old.covers = c.new.covers then st.covers else c.new.covers
    pkgs := if c.old.pkgs = c.new.pkgs then st.pkgs else c.new.pkgs
    acq := if c.old.acq = c.new.acq then st.acq else c.new.acq }

def Sheaf.follow (sh : Sheaf) (cs : List Change) : Sheaf := cs.foldl (fun h c => h.modStrand c.lane c.on) sh

/-- Two writes of one register, predicate or F word. -/
def Wr.samePlace (w r : Wr) : Bool :=
  match w, r with
  | .v l e _ _ _, .v l' e' _ _ _ => l == l' && e == e'
  | .u k _ _ _, .u k' _ _ _ => k == k'
  | .p l k _ _, .p l' k' _ _ => l == l' && k == k'
  | .f l _ _, .f l' _ _ => l == l'
  | _, _ => false

/-- The leader has written a result: a shadow that has computed it writes its own, any other takes it. -/
def Sheaf.receive (sh : Sheaf) (x : Pending) : Sheaf :=
  match sh.pend.find? fun p => p.seq == x.seq with
  | none => sh.commit x x.writes
  | some p =>
    let here (w : Wr) : Bool := x.writes.any fun r => w.samePlace r
    let left := sh.pend.map fun (q : Pending) => if q.seq == p.seq then { q with writes := q.writes.filter fun w => !here w } else q
    ({ sh with pend := left.filter fun q => !(q.seq == p.seq && q.writes.isEmpty) }).commit p (p.writes.filter here)

def Sheaf.hear (sh : Sheaf) (x : Told) : Sheaf :=
  match x with
  | .born l v => { (sh.dropLane l) with vreg := sh.vreg.filter fun e => e.1 < l * 2048 || (l + 1) * 2048 ≤ e.1 }.setEntry l 0 v
  | .entry l e v => sh.writeNow [Wr.entry l e v]
  | .uni k v => sh.writeNow [.u k (BitVec.allOnes 64) v.bits (some v.tag)]

/-- The shadow's copy of a sheaf. -/
def Sheaf.mirror (sh : Sheaf) : Sheaf := { sh with shadow := none, given := [], told := [] }

/-- A shadow takes what its leader was given and told before an issue. -/
def Sheaf.takeIn (sh : Sheaf) (sync : List Change) (given : List Pending) (told : List Told) : Sheaf :=
  told.foldl Sheaf.hear ((given.foldl Sheaf.receive sh).follow sync)

/-- A shadow with all that its leader has been given since its last issue. -/
def Shadow.caughtUp (d : Shadow) (leader : Sheaf) : Sheaf :=
  d.sheaf.takeIn (changesOf d.last leader.strands) leader.given leader.told

/-! ### Run states -/

def Strand.go (st : Strand) : Strand := { st with pc := st.pc + 8, run := .active, park := .nothing }
def Strand.parkAt (st : Strand) (why : Nat) (p : ParkOn) : Strand := { st with run := .parked why, park := p }

def Sheaf.vacant (sh : Sheaf) (l : Nat) : Bool := (sh.strand l).run == .vacant
def Sheaf.allVacant (sh : Sheaf) : Bool := allLanes.all sh.vacant

/-- The RUN byte of a run state (R78). -/
def Run.code : Run → Nat
  | .vacant => 0
  | .active => 16
  | .yielded => 32
  | .parked w => 48 + w % 16
  | .waiting k => 64 + k % 16

/-- A leader tells its shadow (R180). -/
def Sheaf.tell (sh : Sheaf) (x : Told) : Sheaf := if sh.shadow.isSome then { sh with told := sh.told ++ [x] } else sh

/-- A new strand (R88): V0 as its creator states, every other register of the window zero. -/
def Sheaf.create (sh : Sheaf) (l : Nat) (pc : Pc) (v0 item : Word) : Sheaf :=
  let keep := sh.vreg.filter fun e => e.1 < l * 2048 || (l + 1) * 2048 ≤ e.1
  let sh1 := { (sh.dropLane l) with vreg := keep }
  let sh2 := sh1.modStrand l fun _ => { pc := pc, run := .active, item := item }
  (sh2.setEntry l 0 { bits := v0 }).tell (.born l { bits := v0 })

end Sys2Proof.Machine
end

