-- ==== Sys2Proof/Machine/Logs.lean ====
section
/-! DEFINITION. The error logs of a die, their counters, and the guests' virtual error queues (R314 to R319). -/

namespace Sys2Proof.Machine

/-! KIND codes of R316. -/
namespace LogKind
def arrayCorrected : Nat := 0x0101
def arrayUncorrectable : Nat := 0x0102
def transferRetried : Nat := 0x0201
def laneSwapped : Nat := 0x0202
def transferFailed : Nat := 0x0203
def retrain : Nat := 0x0204
def saveRedirected : Nat := 0x0205
def sramCorrected : Nat := 0x0301
def sramUncorrectable : Nat := 0x0302
def chainParity : Nat := 0x0303
def serviceError : Nat := 0x0304
def droopRefused : Nat := 0x0305
def combineDiscard : Nat := 0x0306
def combineError : Nat := 0x0307
def stagedArrivalFault : Nat := 0x0308
def pairedMismatch : Nat := 0x0309
def rowDisturbance : Nat := 0x030A
def fabricDiscard : Nat := 0x030B
end LogKind

/-- SRC codes of R315. -/
def srcCore (c : Nat) : Nat := 0x100 + c % 96
def srcCluster (k : Nat) : Nat := 0x200 + k % 12
def srcContext (x : Nat) : Nat := 0x300 + x
def srcDie : Nat := 0x3FF
def srcPort (p : Nat) : Nat := 0x400 + p

/-- An event detected at `time`: its record waits with the die's others of the mesh cycle (R315, R317). -/
def State.recordAt (s : State) (d time : Nat) (r : LogRec) : State :=
  s.modDie d fun x => { x with events := x.events ++ [{ r with time := time }] }

def State.record (s : State) (d : Nat) (r : LogRec) : State := s.recordAt d s.time r

/-- An SRAM error of a core, cluster or unit store (R183, R196, R307); a cellar word's line has a physical address (R315). -/
def State.sramEvent (s : State) (d : Nat) (corrected : Bool) (src detail off vdev : Nat) (addr : Nat := 0) : State :=
  s.record d { kind := if corrected then LogKind.sramCorrected else LogKind.sramUncorrectable,
               src := src, detail := detail, aux := off, vdev := vdev, addr := addr }

end Sys2Proof.Machine
end

