-- ==== Sys2Proof/Machine/Float.lean ====
section
/-! DEFINITION. Exact values and the shared number functions of 02: RoundF (R31), Canonical (R27), overflow (R28), zero
sums (R30), the IEEE formats (R26), TBValue and TBEncode (R37), TwoSum (R38), AccBlock (R39). -/

namespace Sys2Proof.Machine

/-- An IEEE format: width, precision p with the hidden bit, bias (R26). -/
structure FFmt where
  w : Nat
  p : Nat
  bias : Nat
deriving DecidableEq, Repr

def FFmt.f16 : FFmt := ⟨16, 11, 15⟩
def FFmt.bf16 : FFmt := ⟨16, 8, 127⟩
def FFmt.f32 : FFmt := ⟨32, 24, 127⟩
def FFmt.f64 : FFmt := ⟨64, 53, 1023⟩

def FFmt.of : Ty → FFmt
  | .f16 => .f16 | .bf16 => .bf16 | .f64 => .f64 | _ => .f32

/-- The smallest normal exponent. -/
def FFmt.emin (f : FFmt) : Int := 1 - f.bias

/-- The exponent field of infinities and NaNs, and its place. -/
def FFmt.expMax (f : FFmt) : Nat := 2 ^ (f.w - f.p) - 1

def FFmt.inf (f : FFmt) : Nat := f.expMax * 2 ^ (f.p - 1)
def FFmt.maxFinite (f : FFmt) : Nat := f.inf - 1
def FFmt.signBit (f : FFmt) : Nat := 2 ^ (f.w - 1)

/-- Canonical(fmt) (R27): sign 0, quiet bit 1, the rest of the fraction 0. -/
def FFmt.canonical (f : FFmt) : Nat := f.inf + 2 ^ (f.p - 2)

/-- Float flags NX UF OF DZ NV (R32). -/
abbrev Flags := BitVec 5

def flagNV : Flags := 1
def flagDZ : Flags := 2
def flagOF : Flags := 4
def flagUF : Flags := 8
def flagNX : Flags := 16

/-- An exact value: NaN (signalling or not), an infinity, or ±m·2^e. A zero keeps its sign. -/
inductive FV where
  | nan (signalling : Bool)
  | inf (neg : Bool)
  | fin (neg : Bool) (m : Nat) (e : Int)
deriving DecidableEq, Repr

def FV.isNan : FV → Bool
  | .nan _ => true
  | _ => false

def FV.isSig : FV → Bool
  | .nan s => s
  | _ => false

def FV.isInf : FV → Bool
  | .inf _ => true
  | _ => false

def FV.isZero : FV → Bool
  | .fin _ m _ => m == 0
  | _ => false

def FV.neg? : FV → Bool
  | .nan _ => false
  | .inf n => n
  | .fin n _ _ => n

/-- The value of a bit pattern (R26). -/
def FFmt.value (f : FFmt) (bits : Nat) : FV :=
  let neg := bits / 2 ^ (f.w - 1) % 2 == 1
  let ex := bits / 2 ^ (f.p - 1) % 2 ^ (f.w - f.p)
  let fr := bits % 2 ^ (f.p - 1)
  if ex = f.expMax then (if fr = 0 then .inf neg else .nan (fr / 2 ^ (f.p - 2) == 0))
  else if ex = 0 then .fin neg fr (f.emin - (f.p - 1 : Nat))
  else .fin neg (fr + 2 ^ (f.p - 1)) (f.emin + (ex : Int) - 1 - (f.p - 1 : Nat))

/-- Number of bits of m. -/
def bitLen (m : Nat) : Nat := if m = 0 then 0 else Nat.log2 m + 1

/-- m·2^e rounded to a multiple of 2^q; `sticky` adds an unseen positive amount below one unit of m. The quotient and
whether the result differs from the value. -/
def roundAt (mode : Rnd) (neg : Bool) (m : Nat) (e q : Int) (sticky : Bool) : Nat × Bool :=
  if e ≥ q then (m * 2 ^ (e - q).toNat, sticky)
  else
    let sh := (q - e).toNat
    let n := m / 2 ^ sh
    let r := m % 2 ^ sh
    let half := 2 ^ (sh - 1)
    let inexact := r != 0 || sticky
    let up := match mode with
      | .rne => r > half || (r == half && (sticky || n % 2 == 1))
      | .rtz => false
      | .rup => inexact && !neg
      | .rdn => inexact && neg
    (if up then n + 1 else n, inexact)

/-- OverflowResult, the table of R28. -/
def FFmt.overflow (f : FFmt) (mode : Rnd) (neg : Bool) : Nat :=
  let toInf := match mode with
    | .rne => true
    | .rtz => false
    | .rup => !neg
    | .rdn => neg
  (if neg then f.signBit else 0) + (if toInf then f.inf else f.maxFinite)

/-- RoundF (R31) of ±m·2^e (plus the unseen amount that `sticky` stands for). -/
def FFmt.roundFin (f : FFmt) (mode : Rnd) (neg : Bool) (m : Nat) (e : Int) (sticky : Bool) : Nat × Flags :=
  let sgn := if neg then f.signBit else 0
  if m = 0 && !sticky then (sgn, 0)
  else
    let q := e + (bitLen m : Int) - (f.p : Int)
    let qmin := f.emin - (f.p : Int) + 1
    let t := roundAt mode neg m e q sticky
    let top := q + (bitLen t.1 : Int) - 1
    if top > (f.bias : Int) then (f.overflow mode neg, flagOF ||| flagNX)
    else
      let qg := max q qmin
      let y := roundAt mode neg m e qg sticky
      let bits := if y.1 = 0 then 0 else (qg - qmin).toNat * 2 ^ (f.p - 1) + y.1
      let tiny := top < f.emin
      (sgn + bits, (if y.2 then flagNX else 0) ||| (if y.2 && tiny then flagUF else 0))

/-- RoundF (R31). -/
def FFmt.round (f : FFmt) (mode : Rnd) : FV → Nat × Flags
  | .nan _ => (f.canonical, 0)
  | .inf neg => ((if neg then f.signBit else 0) + f.inf, 0)
  | .fin neg m e => f.roundFin mode neg m e false

/-! ### Exact arithmetic -/

/-- m·2^e as an integer count of 2^q, for q at most e. -/
def scaled (neg : Bool) (m : Nat) (e q : Int) : Int :=
  let v : Int := (m : Int) * (2 : Int) ^ (e - q).toNat
  if neg then -v else v

/-- The exact sum; an exact zero has the sign of R30 under `mode`. ∞ − ∞ is NaN. -/
def FV.add (mode : Rnd) : FV → FV → FV
  | .nan s, .nan t => .nan (s || t)
  | .nan s, _ => .nan s
  | _, .nan t => .nan t
  | .inf a, .inf b => if a = b then .inf a else .nan false
  | .inf a, _ => .inf a
  | _, .inf b => .inf b
  | .fin a m e, .fin b n g =>
    let q := min e g
    let v := scaled a m e q + scaled b n g q
    if v = 0 then
      (if m = 0 && n = 0 && a = b then .fin a 0 q else .fin (mode == .rdn) 0 q)
    else .fin (v < 0) v.natAbs q

def FV.negate : FV → FV
  | .nan s => .nan s
  | .inf a => .inf (!a)
  | .fin a m e => .fin (!a) m e

/-- The exact product; 0 × ∞ is NaN. -/
def FV.mul : FV → FV → FV
  | .nan s, .nan t => .nan (s || t)
  | .nan s, _ => .nan s
  | _, .nan t => .nan t
  | .inf a, .inf b => .inf (a != b)
  | .inf a, .fin b n _ => if n = 0 then .nan false else .inf (a != b)
  | .fin a m _, .inf b => if m = 0 then .nan false else .inf (a != b)
  | .fin a m e, .fin b n g => .fin (a != b) (m * n) (e + g)

/-- a < b on values that are not NaN; −0 equals +0 (R132). -/
def FV.lt : FV → FV → Bool
  | .inf a, .inf b => a && !b
  | .inf a, _ => a
  | _, .inf b => !b
  | .fin a m e, .fin b n g =>
    let q := min e g
    scaled a m e q < scaled b n g q
  | _, _ => false

def FV.eqv : FV → FV → Bool
  | .nan _, _ => false
  | _, .nan _ => false
  | a, b => !a.lt b && !b.lt a

/-! ### Roots and quotients -/

/-- The integer square root of m below 2^(i+1), from the candidate r (bit by bit). -/
def isqrtFrom (m : Nat) : Nat → Nat → Nat
  | 0, r => r
  | i + 1, r => let c := r + 2 ^ i; if c * c ≤ m then isqrtFrom m i c else isqrtFrom m i r

def isqrt (m : Nat) : Nat := isqrtFrom m (bitLen m / 2 + 1) 0

/-- a ÷ b, for finite nonzero a and b, rounded (R130). -/
def FFmt.divFin (f : FFmt) (mode : Rnd) (neg : Bool) (m : Nat) (e : Int) (n : Nat) (g : Int) : Nat × Flags :=
  let s := f.p + 4 + bitLen n
  let num := m * 2 ^ s
  f.roundFin mode neg (num / n) (e - g - (s : Int)) (num % n != 0)

/-- √(m·2^e) rounded, m nonzero. -/
def FFmt.sqrtFin (f : FFmt) (mode : Rnd) (m : Nat) (e : Int) : Nat × Flags :=
  let k := 2 * (f.p + 4) + (if e % 2 = 0 then 0 else 1)
  let v := m * 2 ^ k
  let r := isqrt v
  f.roundFin mode false r ((e - (k : Int)) / 2) (r * r != v)

/-- 1 ÷ √(m·2^e) rounded, m nonzero. -/
def FFmt.rsqrtFin (f : FFmt) (mode : Rnd) (m : Nat) (e : Int) : Nat × Flags :=
  let m' := if e % 2 = 0 then m else 2 * m
  let e' := if e % 2 = 0 then e else e - 1
  let k := f.p + 4 + bitLen m'
  let r := isqrt (2 ^ (2 * k) / m')
  f.roundFin mode false r (-(e' / 2) - (k : Int)) (r * r * m' != 2 ^ (2 * k))

/-! ### Transcendental members (R130), each rounded once from enclosures that shrink until they agree -/

/-- Sum of v/(k·d), v/((k+2)·d³)… with the given sign pattern: arctangent and its hyperbolic form at 1/x, scaled. -/
def atanSum (sq : Nat) (alt : Bool) : Nat → Nat → Nat → Int
  | 0, _, _ => 0
  | fuel + 1, term, k =>
    if term = 0 then 0
    else
      let rest := atanSum sq alt fuel (term / sq) (k + 2)
      (term / k : Nat) + (if alt then -rest else rest)

/-- ln 2 scaled by 2^w, within w + 2 units. -/
def ln2At (w : Nat) : Nat := (2 * atanSum 9 false (w + 2) (2 ^ w / 3) 1).toNat

/-- π scaled by 2^w, within 32·(w + 2) units. -/
def piAt (w : Nat) : Nat :=
  (16 * atanSum 25 true (w + 2) (2 ^ w / 5) 1 - 4 * atanSum 57121 true (w + 2) (2 ^ w / 239) 1).toNat

/-- Exponential series of y/2^w scaled by 2^w: 1 + y + y²/2 + … -/
def expSum (w y : Nat) : Nat → Nat → Nat → Nat
  | 0, _, _ => 0
  | fuel + 1, term, k => if term = 0 then 0 else term + expSum w y fuel (term * y / 2 ^ w / k) (k + 1)

/-- The alternating series of sine (start k = 2) and cosine (k = 1) from a first term, at r with r²= sq, scaled. -/
def sinSum (w sq : Nat) : Nat → Nat → Nat → Int
  | 0, _, _ => 0
  | fuel + 1, term, k =>
    if term = 0 then 0
    else (term : Int) - sinSum w sq fuel (term * sq / 2 ^ w / (k * (k + 1))) (k + 2)

/-- Hyperbolic-arctangent series at z/2^w, scaled: z + z³/3 + … -/
def atanhSum (w sq : Nat) : Nat → Nat → Nat → Nat
  | 0, _, _ => 0
  | fuel + 1, term, k => if term = 0 then 0 else term / k + atanhSum w sq fuel (term * sq / 2 ^ w) (k + 2)

/-- Round the enclosure [v − err, v + err]·2^(e) when both ends round alike. -/
def FFmt.roundEnclosure (f : FFmt) (mode : Rnd) (v : Int) (err : Nat) (e : Int) : Option (Nat × Flags) :=
  let lo := v - err
  let hi := v + err
  if lo > 0 then
    let a := f.roundFin mode false lo.natAbs e true
    let b := f.roundFin mode false hi.natAbs e true
    if a = b then some a else none
  else if hi < 0 then
    let a := f.roundFin mode true lo.natAbs e true
    let b := f.roundFin mode true hi.natAbs e true
    if a = b then some a else none
  else none

/-- Try working precisions w, 2w, 4w … until the enclosure rounds one way; the last is taken as it is (log entry 8). -/
def FFmt.refine (f : FFmt) (mode : Rnd) (enc : Nat → Int × Nat × Int) : Nat → Nat → Nat × Flags
  | 0, w =>
    let (v, _, e) := enc w
    f.roundFin mode (v < 0) v.natAbs e true
  | fuel + 1, w =>
    let (v, err, e) := enc w
    match f.roundEnclosure mode v err e with
    | some r => r
    | none => f.refine mode enc fuel (2 * w)

/-- 2^x for a finite x = ±m·2^e (R130). -/
def FFmt.exp2Fin (f : FFmt) (mode : Rnd) (neg : Bool) (m : Nat) (e : Int) : Nat × Flags :=
  if m = 0 then f.roundFin mode false 1 0 false
  else if e + (bitLen m : Int) > 14 then
    f.roundFin mode false (2 ^ 70) ((if neg then -20000 else 20000) - 70) true
  else if e ≥ 0 then
    let n : Int := (m : Int) * (2 : Int) ^ e.toNat
    f.roundFin mode false 1 (if neg then -n else n) false
  else
    let k := (-e).toNat
    if m % 2 ^ k = 0 then
      let n : Int := (m / 2 ^ k : Nat)
      f.roundFin mode false 1 (if neg then -n else n) false
    else
      let v : Int := if neg then -(m : Int) else m
      let n := v / (2 : Int) ^ k                     -- floor
      let fr := (v - n * (2 : Int) ^ k).toNat        -- fraction · 2^k
      if fr = 1 && k > 80 || (k > 80 && bitLen fr + 80 < k) then
        f.roundFin mode false (2 ^ 70) (n - 70) true
      else if k > 80 && bitLen (2 ^ k - fr) + 80 < k then
        f.roundFin mode false (2 ^ 70 - 1) (n + 1 - 70) true
      else
        f.refine mode (fun w =>
          let fw := if w ≥ k then fr * 2 ^ (w - k) else fr / 2 ^ (k - w)
          let y := fw * ln2At w / 2 ^ w
          ((expSum w y (w + 8) (2 ^ w) 1 : Nat), 8 * w + 64, n - (w : Int))) 6 (f.p + 40)

/-- log₂ of m·2^e, m nonzero (R130). -/
def FFmt.log2Fin (f : FFmt) (mode : Rnd) (m : Nat) (e : Int) : Nat × Flags :=
  let l := bitLen m
  if m = 2 ^ (l - 1) then
    let n : Int := e + (l : Int) - 1
    f.roundFin mode (n < 0) n.natAbs 0 false
  else
    let n : Int := e + (l : Int) - 1
    f.refine mode (fun w =>
      -- mantissa t = m / 2^(l-1); z = (t - 1) / (t + 1)
      let one := 2 ^ (l - 1)
      let z := (m - one) * 2 ^ w / (m + one)
      let lnT := 2 * atanhSum w (z * z / 2 ^ w) (w + 8) z 1
      let lg := lnT * 2 ^ w / ln2At w
      (n * (2 : Int) ^ w + (lg : Int), 16 * w + 64, -(w : Int))) 6 (f.p + 40)

/-- sin (cosine if `co`) of a finite ±m·2^e, m nonzero (R130). -/
def FFmt.sinFin (f : FFmt) (mode : Rnd) (co neg : Bool) (m : Nat) (e : Int) : Nat × Flags :=
  let top := e + (bitLen m : Int)
  if top < -32 then
    if co then f.roundFin mode false (2 ^ 70 - 1) (-70) true
    else f.roundFin mode neg (m * 2 ^ 70 - 1) (e - 70) true
  else
    f.refine mode (fun w =>
      let w2 := w + top.toNat + 32
      let p2 := piAt w2
      let x2 := if e + (w2 : Int) ≥ 0 then m * 2 ^ (e + (w2 : Int)).toNat else m / 2 ^ (-(e + (w2 : Int))).toNat
      let k := (4 * x2 + p2) / (2 * p2)                 -- nearest multiple of π/2
      let r2 : Int := (2 * x2 : Int) - (k * p2 : Nat)   -- twice the remainder
      let rneg := r2 < 0
      let r := r2.natAbs / 2 ^ (w2 - w + 1)
      let sq := r * r / 2 ^ w
      let s := sinSum w sq (w + 8) r 2
      let c := sinSum w sq (w + 8) (2 ^ w) 1
      let sS := if rneg then -s else s
      let quad := (k + (if co then 1 else 0)) % 4
      let v := if quad = 0 then sS else if quad = 1 then c else if quad = 2 then -sS else -c
      (if neg && !co then -v else v, 8 * w + 128, -(w : Int))) 6 (f.p + 60)

/-! ### The members of R130 and R131 -/

inductive FOp where
  | add | sub | mul | fma | div | scale | rcp | sqrt | rsq | exp2 | log2 | sin | cos | rnd | min | max
deriving DecidableEq, Repr

def invalidIf (b : Bool) : Flags := if b then flagNV else 0

/-- One result of the float arithmetic family (R130, R131): operands as bit patterns, `n` the integer of FSCALE. -/
def fpOp (op : FOp) (f : FFmt) (mode : Rnd) (a b c : Nat) (n : Int) : Nat × Flags :=
  let x := f.value a
  let y := f.value b
  let z := f.value c
  let bin (r : FV) : Nat × Flags :=
    if r.isNan then (f.canonical, invalidIf (x.isSig || y.isSig || (!x.isNan && !y.isNan))) else f.round mode r
  let una (special : Option (Nat × Flags)) (k : Bool → Nat → Int → Nat × Flags) : Nat × Flags :=
    match x with
    | .nan s => (f.canonical, invalidIf s)
    | _ =>
      match special with
      | some r => r
      | none => match x with
        | .fin g m e => k g m e
        | _ => (f.canonical, flagNV)
  let infP := f.inf
  let infN := f.signBit + f.inf
  match op with
  | .add => bin (x.add mode y)
  | .sub => bin (x.add mode (match y with | .nan s => .nan s | v => v.negate))
  | .mul => bin (x.mul y)
  | .fma =>
    let prod := x.mul y
    let badMul := (x.isInf && y.isZero) || (x.isZero && y.isInf)
    if x.isNan || y.isNan || z.isNan || badMul then
      (f.canonical, invalidIf (x.isSig || y.isSig || z.isSig || badMul))
    else
      let r := prod.add mode z
      if r.isNan then (f.canonical, flagNV) else f.round mode r
  | .div =>
    match x, y with
    | .nan s, .nan t => (f.canonical, invalidIf (s || t))
    | .nan s, _ => (f.canonical, invalidIf s)
    | _, .nan t => (f.canonical, invalidIf t)
    | .inf _, .inf _ => (f.canonical, flagNV)
    | .inf g, v => (if g != v.neg? then infN else infP, 0)
    | v, .inf h => (if v.neg? != h then f.signBit else 0, 0)
    | .fin g m e, .fin h k l =>
      if k = 0 then (if m = 0 then (f.canonical, flagNV) else (if g != h then infN else infP, flagDZ))
      else if m = 0 then (if g != h then f.signBit else 0, 0)
      else f.divFin mode (g != h) m e k l
  | .scale =>
    match x with
    | .nan s => (f.canonical, invalidIf s)
    | .inf g => (if g then infN else infP, 0)
    | .fin g m e => f.roundFin mode g m (e + max (-20000) (min 20000 n)) false
  | .rcp =>
    una (match x with
        | .inf g => some (if g then f.signBit else 0, 0)
        | .fin g 0 _ => some (if g then infN else infP, flagDZ)
        | _ => none)
      fun g m e => f.divFin mode g 1 0 m e
  | .sqrt =>
    una (match x with
        | .inf false => some (infP, 0)
        | .inf true => some (f.canonical, flagNV)
        | .fin g 0 _ => some (if g then f.signBit else 0, 0)
        | .fin true _ _ => some (f.canonical, flagNV)
        | _ => none)
      fun _ m e => f.sqrtFin mode m e
  | .rsq =>
    una (match x with
        | .inf false => some (0, 0)
        | .inf true => some (f.canonical, flagNV)
        | .fin g 0 _ => some (if g then infN else infP, flagDZ)
        | .fin true _ _ => some (f.canonical, flagNV)
        | _ => none)
      fun _ m e => f.rsqrtFin mode m e
  | .exp2 =>
    una (match x with
        | .inf g => some (if g then 0 else infP, 0)
        | _ => none)
      fun g m e => f.exp2Fin mode g m e
  | .log2 =>
    una (match x with
        | .inf false => some (infP, 0)
        | .inf true => some (f.canonical, flagNV)
        | .fin _ 0 _ => some (infN, flagDZ)
        | .fin true _ _ => some (f.canonical, flagNV)
        | _ => none)
      fun _ m e => f.log2Fin mode m e
  | .sin =>
    una (match x with
        | .inf _ => some (f.canonical, flagNV)
        | .fin g 0 _ => some (if g then f.signBit else 0, 0)
        | _ => none)
      fun g m e => f.sinFin mode false g m e
  | .cos =>
    una (match x with
        | .inf _ => some (f.canonical, flagNV)
        | .fin _ 0 _ => some (f.roundFin mode false 1 0 false)
        | _ => none)
      fun g m e => f.sinFin mode true g m e
  | .rnd =>
    una (match x with
        | .inf g => some (if g then infN else infP, 0)
        | _ => none)
      fun g m e =>
        let r := if e ≥ 0 then (m, e) else ((roundAt mode g m e 0 false).1, 0)
        ((f.roundFin .rne g r.1 r.2 false).1, 0)
  | .min | .max =>
    let sig := invalidIf (x.isSig || y.isSig)
    if x.isNan && y.isNan then (f.canonical, sig)
    else if x.isNan then (b, sig)
    else if y.isNan then (a, sig)
    else
      let less := x.lt y || (x.isZero && y.isZero && x.neg? && !y.neg?)
      (if (op == .min) == less then a else if x.eqv y && x.neg? == y.neg? then a else b, 0)

/-- A comparison with its flags (R132). -/
def fpCmp (k : Cmp) (f : FFmt) (a b : Nat) : Bool × Flags :=
  let x := f.value a
  let y := f.value b
  let nan := x.isNan || y.isNan
  let sig := x.isSig || y.isSig
  match k with
  | .eq => (!nan && x.eqv y, invalidIf sig)
  | .ne => (nan || !x.eqv y, invalidIf sig)
  | .lt => (!nan && x.lt y, invalidIf nan)
  | .le => (!nan && !y.lt x, invalidIf nan)
  | .gt => (!nan && y.lt x, invalidIf nan)
  | .ge => (!nan && !x.lt y, invalidIf nan)

/-- FCLASS (R133). -/
def fpClass (f : FFmt) (a : Nat) : Nat :=
  match f.value a with
  | .nan s => if s then 1 else 2
  | .inf n => if n then 4 else 512
  | .fin n m _ =>
    let sub := m < 2 ^ (f.p - 1)
    if m = 0 then (if n then 32 else 64)
    else if sub then (if n then 16 else 128)
    else (if n then 8 else 256)

/-! ### FP32 helpers, TwoSum and AccBlock (R38, R39) -/

def rn32 (v : FV) : Nat := (FFmt.f32.round .rne v).1
def val32 (b : Nat) : FV := FFmt.f32.value b
def add32 (a b : Nat) : Nat := rn32 ((val32 a).add .rne (val32 b))
def sub32 (a b : Nat) : Nat := rn32 ((val32 a).add .rne (val32 b).negate)
def isFin32 (b : Nat) : Bool := b / 2 ^ 23 % 256 != 255

/-- TwoSum (R38). -/
def twoSum (a b : Nat) : Nat × Nat :=
  let s := add32 a b
  if !isFin32 s then (s, 0)
  else
    let ap := sub32 s b
    let bp := sub32 s ap
    (s, add32 (sub32 a ap) (sub32 b bp))

/-- AccBlock (R39): add the exact value x into the pair (s, c). -/
def accBlock (s c : Nat) (x : FV) : Nat × Nat :=
  if x.isNan || (val32 s).isNan then (FFmt.f32.canonical, 0)
  else
    let hi := rn32 x
    if (val32 hi).isInf || (val32 s).isInf then (add32 s hi, 0)
    else
      let lo := rn32 (x.add .rne (val32 hi).negate)
      let a := twoSum s hi
      let c1 := add32 c a.2
      let b := twoSum a.1 lo
      (b.1, add32 c1 b.2)

/-- The exact sum of exact values; an exact zero is +0, infinities of both signs and a NaN make NaN (R40). -/
def sumFV (l : List FV) : FV :=
  let r := l.foldl (fun (a v : FV) => a.add .rne v) (FV.fin false 0 0)
  match r with
  | .fin _ 0 _ => .fin false 0 0
  | v => v

/-- s + c exactly, as ZRD and a release read a pair; a pair that holds no value is NaN (R208). -/
def pairValue (mode : Rnd) (s c : Nat) : FV := (val32 s).add mode (val32 c)

/-! ### Twin-exponent blocks (R34 to R37) -/

def tbQ (tb8 : Bool) : Nat := if tb8 then 5 else 1
def tbMax (tb8 : Bool) : Nat := if tb8 then 63 else 3
def tbMagBits (tb8 : Bool) : Nat := if tb8 then 6 else 2

/-- TBValue (R37). -/
def tbValue (tb8 : Bool) (el e0 e1 : Nat) : FV :=
  let k := tbMagBits tb8
  let sel := el / 2 ^ k % 2
  let ex := if sel = 1 then e1 else e0
  if ex = 255 then .nan false
  else .fin (el / 2 ^ (k + 1) % 2 == 1) (el % 2 ^ k) ((ex : Int) - 127 - (tbQ tb8 : Int))

/-- Quant (R37) of m·2^g under exponent E: the rounded code, and whether it is exact. -/
def tbQuant (tb8 : Bool) (m : Nat) (g : Int) (ex : Nat) : Nat × Bool :=
  let r := roundAt .rne false m (g + 127 + (tbQ tb8 : Int) - (ex : Int)) 0 false
  (r.1, !r.2)

/-- m·2^g < 2^k. -/
def below2 (m : Nat) (g k : Int) : Bool := m == 0 || g + (bitLen m : Int) - 1 < k

/-- TBEncode (R37): elements, E0, E1 and flags. -/
def tbEncode (tb8 : Bool) (xs : List FV) (d : Nat) : List Nat × Nat × Nat × Flags :=
  if xs.any FV.isNan then (xs.map fun _ => 0, 255, 255, flagNV)
  else
    let anyInf := xs.any FV.isInf
    let tops : List Int := xs.filterMap fun v => match v with
      | .fin _ m g => if m = 0 then none else some (g + (bitLen m : Int) - 1)
      | _ => none
    let mx := tbMax tb8
    let e1 : Nat :=
      if anyInf then 254
      else match tops with
        | [] => 0
        | t :: r =>
          let top := r.foldl max t
          let e := top + 127
          let carry := xs.any fun v => match v with
            | .fin _ m g => g + (bitLen m : Int) - 1 == top && 0 ≤ e && e ≤ 254 && (tbQuant tb8 m g e.toNat).1 > mx
            | _ => false
          (max 0 (min 254 (if carry then e + 1 else e))).toNat
    let e0 := e1 - d
    let k := tbMagBits tb8
    let one (v : FV) : Nat × Flags :=
      match v with
      | .fin n m g =>
        let q0 := tbQuant tb8 m g e0
        let s := if n then 2 ^ (k + 1) else 0
        if below2 m g ((e0 : Int) - 126) && q0.1 ≤ mx then (s + q0.1, if q0.2 then 0 else flagNX)
        else
          let q1 := tbQuant tb8 m g e1
          let sat := q1.1 > mx
          (s + 2 ^ k + (if sat then mx else q1.1),
            (if sat then flagOF else 0) ||| (if q1.2 && !sat then 0 else flagNX))
      | v => ((if v.neg? then 2 ^ (k + 1) else 0) + 2 ^ k + mx, flagOF ||| flagNX)
    let rs := xs.map one
    (rs.map Prod.fst, e0, e1, rs.foldl (fun f r => f ||| r.2) 0)

end Sys2Proof.Machine
end

