-- ==== Sys2Proof/Machine/Operands.lean ====
section
/-! DEFINITION. One issue: its batch, guard and control (R57, R81), the checks that come after R72 (R83, R94, R117), the
operand forms of format R (R64, R119, R120), tags (R49), exposure (R44, R45) and the results an issue leaves. -/

namespace Sys2Proof

/-- Width of an element type in bits (R24, R26). -/
def Ty.width : Ty → Nat
  | .s8 | .n8 | .tb8 => 8
  | .s16 | .n16 | .f16 | .bf16 => 16
  | .s32 | .n32 | .f32 => 32
  | .s64 | .n64 | .f64 => 64
  | .tb4 => 4

def Ty.signed : Ty → Bool
  | .s8 | .s16 | .s32 | .s64 => true
  | _ => false

def Ty.float : Ty → Bool
  | .f16 | .bf16 | .f32 | .f64 => true
  | _ => false

def BC.isImm : BC → Bool
  | .imm _ => true
  | .regs _ _ => false

end Sys2Proof

namespace Sys2Proof.Machine

/-- What an instruction sees of its issue: the team and sheaf before it, the batch, and the lanes of the batch whose guard
is true or tagged A. -/
structure Iss where
  t : Nat
  j : Nat
  tm : Team
  sh : Sheaf
  batch : List Nat
  on : List Nat
  aG : List Nat
  pc : Pc
  c : Ctl
  seq : Nat
  cycle : Nat
  draw : Nat
  met : List (Nat × Nat) := []    -- register-file words with uncorrectable errors that lanes read, by lane
deriving DecidableEq, Repr

/-- The guard of a lane (R57). -/
def guardOf (c : Ctl) (st : Strand) : Bool := st.pval c.gp != c.gn

/-- The issue that the current sheaf's batch makes. -/
def State.iss? (s : State) (c : Ctl) : Option Iss :=
  match s.cur with
  | none => none
  | some cu =>
    match s.team? cu.team with
    | none => none
    | some tm =>
      let sh := tm.sheaf cu.sheaf
      match sh.batch with
      | [] => none
      | l0 :: r =>
        let b := l0 :: r
        some { t := cu.team, j := cu.sheaf, tm := tm, sh := sh, batch := b,
               on := b.filter fun l => guardOf c (sh.strand l),
               aG := b.filter fun l => (sh.strand l).ptag c.gp,
               pc := (sh.strand l0).pc, c := c, seq := sh.iss, cycle := (s.core tm.core).cycle, draw := s.free }

/-- The core the issue is on, its die and its cluster. -/
def Iss.core (i : Iss) : Nat := i.tm.core
def Iss.die (i : Iss) : Nat := dieOfCore i.tm.core
def Iss.cluster (i : Iss) : Nat := clusterOfCore i.tm.core
def Iss.grade (i : Iss) : Nat := if i.tm.grade = 8 then 7 else i.tm.grade
def Iss.offLanes (i : Iss) : List Nat := i.batch.filter fun l => !i.on.contains l

/-- The sheaf is chosen to issue: every yielded strand of the batch becomes active, whatever becomes of the word (R81, R82). -/
def Iss.activate (i : Iss) (s : State) : State :=
  s.modSheaf i.t i.j fun sh => sh.modLanes i.batch fun st => { st with run := .active }

/-- What every issue does: yielded lanes of the batch become active (R81), the issue is numbered, its switch marker and
hold count take effect (R59, R60), the cluster counts as busy in the interval (R255). -/
def Iss.mark (i : Iss) (s : State) : State :=
  ((s.modSheaf i.t i.j fun sh =>
    { (sh.modLanes i.batch fun st => { st with run := .active }) with
      iss := sh.iss + 1, marked := i.c.sw, cleared := false,
      nextAt := if i.c.ver1 then i.cycle + 1 + i.c.hold else i.cycle + 1 }).modCluster i.cluster fun k =>
    { k with busy := true })

/-- A cause for every lane of the batch; no part of the instruction is performed (R107). -/
def Iss.trapAll (i : Iss) (cause : Nat) (s : State) : State :=
  s.modSheaf i.t i.j fun sh => sh.raise i.seq 0 (i.batch.map fun l => (l, cause, 0))

/-- An instruction's frame: its batch-wide checks decide one cause, or it runs on the marked state. With no batch the
instruction has nothing to act on. -/
def issue (c : Ctl) (s : State) (check : Iss → Option Nat) (run : Iss → State → State) : Out :=
  match s.iss? c with
  | none => .next s
  | some i =>
    match check i with
    | some cause => .next (i.trapAll cause (i.mark s))
    | none => .next (run i (i.mark s))

/-- The same for a privileged instruction (R71, R72 row 9): the word has then not issued. -/
def issuePriv (ok : Iss → Bool) (c : Ctl) (s : State) (check : Iss → Option Nat) (run : Iss → State → State) : Out :=
  match s.iss? c with
  | none => .next s
  | some i =>
    if !ok i then .next (i.trapAll Cause.privilege (i.activate s))
    else
      match check i with
      | some cause => .next (i.trapAll cause (i.mark s))
      | none => .next (run i (i.mark s))

/-- An instruction before which a guarded team commits (R178): while it needs a commit the sheaf holds before the instruction and
nothing of it is performed. -/
def issueCommitted (need : Iss → Bool) (c : Ctl) (s : State) (check : Iss → Option Nat) (run : Iss → State → State) :
    Out :=
  match s.iss? c with
  | none => .next s
  | some i =>
    if i.tm.guarded.isSome && need i && (check i).isNone then
      .next (s.modSheaf i.t i.j fun sh => { sh with hold := .commit })
    else issue c s check run

/-- An instruction that needs one commit whatever the share holds: its own, until it has been taken. -/
def Iss.once (i : Iss) : Bool := !i.sh.cleared

/-- The first failing of several checks. -/
def firstCause : List (Bool × Nat) → Option Nat
  | [] => none
  | (b, c) :: r => if b then some c else firstCause r

/-- Lanes advance to PC + 8. -/
def Iss.advance (i : Iss) (ls : List Nat) (s : State) : State :=
  s.modSheaf i.t i.j fun sh => sh.modLanes ls fun st => { st with pc := st.pc + 8 }

/-- The first word with an uncorrectable error among registers that a lane reads. -/
def Iss.badWord (i : Iss) (l : Nat) (ks : List Nat) : Option Nat :=
  (ks.find? fun k => i.sh.poison.has (l * 2048 + i.sh.ring l k)).map fun k => l * 2048 + i.sh.ring l k

/-- The issue with what its lanes met: each reads the words of some (lane, register) pairs. -/
def Iss.readsAt (i : Iss) (at_ : Nat → List (Nat × Nat)) : Iss :=
  { i with met := i.batch.filterMap fun l => ((at_ l).findSome? fun x => i.badWord x.1 [x.2]).map fun w => (l, w) }

/-- The issue with what its lanes met: each reads some registers of its own. -/
def Iss.reads (i : Iss) (ks : List Nat) : Iss := i.readsAt fun l => ks.map fun k => (l, k)

/-- An uncorrectable register error that a lane met is logged with its place in the register file (R183, R316). -/
def Iss.logErrors (i : Iss) (faults : List (Nat × Nat × Nat)) (s : State) : State :=
  faults.foldl (fun (x : State) f =>
    match i.met.find? fun m => m.1 == f.1 && f.2.1 == Cause.uncorrectable with
    | some m => x.sramEvent (dieOfCore i.tm.core) false (srcCore i.tm.core) 0 m.2 i.tm.vdev
    | none => x) s

/-- Finish an issue: an outstanding result when it writes anything, its faulting lanes named, the other lanes of the batch
past it (R51, R107). -/
def Iss.finish (i : Iss) (p : Option Pending) (faults : List (Nat × Nat × Nat)) (s : State) : State :=
  (i.logErrors faults s).modSheaf i.t i.j fun sh =>
    let sh1 := sh.modLanes (i.batch.filter fun l => !faults.any fun f => f.1 == l) fun st => { st with pc := st.pc + 8, refused := none }
    let sh2 := match p with | some q => sh1.push q | none => sh1
    sh2.raise i.seq 0 faults

/-- A fixed-latency result (R61). -/
def Iss.fixed (i : Iss) (n : Nat) (ws : List Wr) : Pending := { seq := i.seq, due := some (i.cycle + n), writes := ws }

/-- A variable-latency result that may return at any time (R62). -/
def Iss.variable (i : Iss) (ws : List Wr) : Pending := { seq := i.seq, writes := ws }

/-! ### Sub-elements (R24) -/

/-- Sub-element ek of a column at width w (R24). -/
def elem (w k : Nat) (v : Word) : Nat := v.toNat / 2 ^ (w * k) % 2 ^ w

/-- A column from its sub-elements, e0 first. -/
def joinElems (w : Nat) (es : List Nat) : Word :=
  BitVec.ofNat 64 (es.foldr (fun e acc => e % 2 ^ w + 2 ^ w * acc) 0)

def elemIdx (w : Nat) : List Nat := List.range (64 / w)

/-- The integer that a w-bit pattern stands for (R25). -/
def toInt (signed : Bool) (w v : Nat) : Int :=
  if signed && v / 2 ^ (w - 1) % 2 == 1 then (v : Int) - (2 : Int) ^ w else (v : Int)

/-- A value mod 2^w as a pattern. -/
def ofInt (w : Nat) (v : Int) : Nat := (v % (2 : Int) ^ w).toNat

def tyMin (signed : Bool) (w : Nat) : Int := if signed then -((2 : Int) ^ (w - 1)) else 0
def tyMax (signed : Bool) (w : Nat) : Int := if signed then (2 : Int) ^ (w - 1) - 1 else (2 : Int) ^ w - 1
def clampInt (signed : Bool) (w : Nat) (v : Int) : Int := max (tyMin signed w) (min (tyMax signed w) v)

/-- The imm16 as one sub-element of a type (R64, R120). -/
def immElem (ty : Ty) (v : Nat) : Nat :=
  match ty with
  | .f16 | .bf16 => v
  | .f32 => v * 65536
  | .f64 =>
    if v / 2 ^ 7 % 2 ^ 8 = 255 then v / 2 ^ 15 % 2 * 2 ^ 63 + 0x7FF * 2 ^ 52 + v % 2 ^ 7 * 2 ^ 45
    else (FFmt.f64.round .rne (FFmt.bf16.value v)).1
  | t => if t.signed then ofInt t.width (toInt true 16 v) else v % 2 ^ t.width

/-- The imm16 as a whole column. -/
def immWord (ty : Ty) (v : Nat) : Word := joinElems ty.width ((elemIdx ty.width).map fun _ => immElem ty v)

/-- An 8-bit immediate whose upper half is not the extension R120 asks for. -/
def immBad (ty : Ty) (v : Nat) : Bool :=
  match ty with
  | .s8 => v / 128 != 0 && v / 128 != 511
  | .n8 => v / 256 != 0
  | _ => false

/-! ### Exposure (R44, R45) -/

/-- L(w, g) of R44. -/
def exposureBits (w g : Nat) : Nat :=
  let row : List Nat :=
    if w = 8 then [0, 0, 1, 1, 1, 2, 2, 3]
    else if w = 16 then [0, 1, 2, 3, 4, 5, 6, 7]
    else if w = 32 then [0, 2, 4, 6, 8, 11, 14, 17]
    else [0, 4, 8, 12, 16, 22, 28, 34]
  row.getD g 0

/-- Expose with L bits free (R45); a float NaN or infinity is left alone. -/
def exposeL (l : Nat) (ty : Option FFmt) (draw idx v : Nat) : Nat :=
  let keep := match ty with
    | some f => (f.value v).isNan || (f.value v).isInf
    | none => false
  if keep then v else v / 2 ^ l * 2 ^ l + Config.unspecified draw idx % 2 ^ l

/-- Expose of an element of a type at a grade (R44, R45). -/
def expose (ty : Ty) (g draw idx v : Nat) : Nat :=
  if ty == .tb4 then exposeL (min (exposureBits 8 g) 2) none draw idx v
  else exposeL (exposureBits ty.width g) (if ty.float then some (FFmt.of ty) else none) draw idx v

/-! ### Operands of format R (R64, R119, R120) -/

/-- Source a. -/
def Iss.srcA (i : Iss) (o : OpR) (l : Nat) : Val := if o.u then i.sh.u o.a else i.sh.v l o.a

/-- A slot's register: a uniform by its kind bit, read as the same value in every lane. -/
def Iss.slotVal (i : Iss) (sl : Slot) (l : Nat) : Val := if sl.uni then i.sh.u sl.idx else i.sh.v l sl.idx

/-- Source b, or the immediate in its place. -/
def Iss.srcB (i : Iss) (o : OpR) (l : Nat) : Val :=
  match o.bc with
  | .regs sb _ => i.slotVal sb l
  | .imm v => { bits := immWord o.ty v }

/-- Source c. -/
def Iss.srcC (i : Iss) (o : OpR) (l : Nat) : Val :=
  match o.bc with
  | .regs _ sc => i.slotVal sc l
  | .imm _ => {}

/-- The register-range check of R83 over the vector operands of a row. -/
def rangeBad (w m fn : Nat) (o : OpR) : Bool :=
  let r := rRow m fn
  let reg (k : Use) (v : Nat) : Bool := (k == .vec || (k == .reg && !o.u)) && v ≥ w
  let slot (k : Use) (sl : Slot) : Bool := k == .reg && !sl.uni && sl.idx ≥ w
  let dPred := m == 0x48 && o.x % 2 == 0
  (!dPred && reg r.d o.d) || reg r.a o.a ||
  (match o.bc with
   | .regs sb sc => slot r.b sb || slot r.c sc
   | .imm _ => false)

/-- IM, U and x that the row does not allow, and a kind bit of 0 under U = 1 (R64, R117). -/
def formBad (m fn : Nat) (o : OpR) : Bool :=
  let r := rRow m fn
  let im := match r.im with
    | .no => o.bc.isImm
    | .yes => false
    | .need => !o.bc.isImm
  let kind (k : Use) (sl : Slot) : Bool := k == .reg && !sl.uni
  im || (o.u && !r.u) || !r.x.contains o.x ||
  (o.u && (match o.bc with
    | .regs sb sc => kind r.b sb || kind r.c sc
    | .imm _ => false)) ||
  (match o.bc with
   | .imm v => r.im == .yes && !r.tys.isEmpty && immBad o.ty v
   | .regs _ _ => false)

/-- The checks of a format R row after R72: R83, then R117 and R118, then the entry's own. -/
def rChecks (m fn : Nat) (o : OpR) (apx : Bool) (own : Option Nat) (w : Nat) : Option Nat :=
  firstCause [(rangeBad w m fn o, Cause.registerRange), (formBad m fn o, Cause.illOperand),
    (apx && !(rRow m fn).apx, Cause.illApprox)] <|> own

/-- A register ECC error that a lane's read meets (R183). -/
def Iss.poisoned (i : Iss) (l : Nat) (ks : List Nat) : Bool := (i.badWord l ks).isSome

/-! ### Writing results (R49, R119) -/

def allOnes : Word := BitVec.allOnes 64

/-- Writes of a vector result: lanes whose guard is true take it; a lane whose guard is false and tagged A keeps its bits
and becomes A (R49). -/
def Iss.wrV (i : Iss) (d : Nat) (lanes : List Nat) (res : Nat → Word × Bool) : List Wr :=
  (lanes.map fun l =>
    let r := res l
    Wr.v l (i.sh.ring l d) allOnes r.1 (some (r.2 || i.aG.contains l))) ++
  ((i.offLanes.filter fun l => i.aG.contains l).map fun l => Wr.v l (i.sh.ring l d) 0 0 (some true))

/-- Writes of a uniform result: once, when the guard is true in some lane; a guard tagged A in any lane of the batch makes
it A (R49, R119). -/
def Iss.wrU (i : Iss) (d : Nat) (val : Word × Bool) : List Wr :=
  if i.on.isEmpty then (if i.aG.isEmpty then [] else [Wr.u d 0 0 (some true)])
  else [Wr.u d allOnes val.1 (some (val.2 || !i.aG.isEmpty))]

/-- Writes of a predicate result. -/
def Iss.wrP (i : Iss) (d : Nat) (lanes : List Nat) (res : Nat → Bool × Bool) : List Wr :=
  (lanes.map fun l =>
    let r := res l
    Wr.p l d (some r.1) (some (r.2 || i.aG.contains l))) ++
  ((i.offLanes.filter fun l => i.aG.contains l).map fun l => Wr.p l d none (some true))

/-- Flags ORed into F (R33): not under the A bit, nor in a lane that read an approximate value. -/
def Iss.wrF (i : Iss) (lanes : List Nat) (res : Nat → Flags × Bool) : List Wr :=
  lanes.filterMap fun l =>
    let r := res l
    if i.c.apx || r.2 || i.aG.contains l || r.1 = 0 then none else some (Wr.f l r.1 0)

/-! ### The element-wise families -/

/-- One sub-element's result: pattern and flags, from a, b and c. -/
abbrev ElemFn := Nat → Nat → Nat → Nat × Flags

/-- The whole column of results and the OR of the flags. -/
def mapElems (w : Nat) (f : ElemFn) (a b c : Word) : List Nat × Flags :=
  let rs := (elemIdx w).map fun k => f (elem w k a) (elem w k b) (elem w k c)
  (rs.map Prod.fst, rs.foldl (fun x r => x ||| r.2) 0)

/-- Expose every sub-element of a result (R47). -/
def exposeElems (ty : Ty) (g draw base : Nat) (es : List Nat) : List Nat :=
  es.mapIdx fun k v => expose ty g draw (base + k) v

/-- Sources of a lane: columns of a, b and c and the OR of the tags of those a row uses. `bx` stands for an immediate b
that its entry extends in its own way. -/
def Iss.sources (i : Iss) (m fn : Nat) (o : OpR) (bx : Option Word) (l : Nat) : Word × Word × Word × Bool :=
  let r := rRow m fn
  let a := i.srcA o l
  let b := i.srcB o l
  let c := i.srcC o l
  (a.bits, (if o.bc.isImm then bx.getD b.bits else b.bits), c.bits,
    (r.a == .reg && a.tag) || (r.b == .reg && b.tag) || (r.c == .reg && c.tag))

/-- The element-wise result of one lane: column, tag and flags. -/
def Iss.elemLane (i : Iss) (m fn : Nat) (o : OpR) (bx : Option Word) (f : ElemFn) (l : Nat) : Word × Bool × Flags :=
  let (a, b, c, t) := i.sources m fn o bx l
  let r := mapElems o.ty.width f a b c
  let es := if i.c.apx then exposeElems o.ty i.grade i.draw (l * 64) r.1 else r.1
  (joinElems o.ty.width es, t || i.c.apx, r.2)

/-- The vector registers a row reads in a lane. -/
def readsOf (m fn : Nat) (o : OpR) : List Nat :=
  let r := rRow m fn
  (if r.a == .reg && !o.u then [o.a] else []) ++
  (match o.bc with
   | .regs sb sc => (if r.b == .reg && !sb.uni then [sb.idx] else []) ++ (if r.c == .reg && !sc.uni then [sc.idx] else [])
   | .imm _ => [])

/-- The outcome of a result column for each lane: `bad` names the lanes that fault (with their cause), `res` gives the
column, its tag and its flags. Latency `n` fixed, or variable. A uniform is computed from lane 0's reading. -/
def Iss.colRun (i : Iss) (reads : List Nat) (o : OpR) (res : Nat → Word × Bool × Flags) (n : Option Nat)
    (bad : Nat → Option Nat) (s : State) : State :=
  let bad' (l : Nat) : Option Nat := if i.poisoned l reads then some Cause.uncorrectable else bad l
  let faults := i.on.filterMap fun l => (bad' l).map fun c => (l, c, 0)
  let good := i.on.filter fun l => (bad' l).isNone
  let ws := (if o.u then (if good.isEmpty && !i.on.isEmpty then [] else i.wrU o.d (let r := res 0; (r.1, r.2.1)))
             else i.wrV o.d good fun l => let r := res l; (r.1, r.2.1))
            ++ i.wrF good (fun l => let r := res (if o.u then 0 else l); (r.2.2, r.2.1))
  let p : Pending := match n with | some k => i.fixed k ws | none => i.variable ws
  (if i.met.isEmpty then i.reads reads else i).finish (if ws.isEmpty then none else some p) faults { s with free := s.free + 1 }

/-- An element-wise instruction of major `m` and fn `fn`: `bx` an immediate of its own extension, `own` its own batch-wide
check, `bad` its faulting lanes. -/
def elemInstr (m fn : Nat) (c : Ctl) (o : OpR) (bx : Option Word) (f : ElemFn) (n : Option Nat) (own : Option Nat)
    (bad : Iss → Nat → Option Nat) (s : State) : Out :=
  issue c s (fun i => rChecks m fn o c.apx own i.sh.w) fun i =>
    i.colRun (readsOf m fn o) o (i.elemLane m fn o bx f) n (bad i)

def noBad : Iss → Nat → Option Nat := fun _ _ => none

end Sys2Proof.Machine
end

