-- ==== Sys2Proof/Machine/Memory.lean ====
section
/-! DEFINITION. Memory: the physical layout (R308, R309), translation (R334), access checks (R153), storage widths and
exposure (R48), stores of a die and their performance (R156 to R160), stamps, keys and causal application (R324 to R326),
and the larder (R172). -/

namespace Sys2Proof.Machine

/-! ### The physical layout (R309, R230) -/

/-- The die that holds a physical address; none for a fabric address and for what the layout does not list. -/
def ownerDie (pa : Nat) : Option Nat :=
  if pa < 2 ^ 44 then (if pa % 2 ^ 40 < 2 ^ 38 then some (pa / 2 ^ 40) else none)
  else if pa < 2 ^ 44 + 2 ^ 32 && (pa - 2 ^ 44) % 2 ^ 28 < Config.cellarBytes then some ((pa - 2 ^ 44) / 2 ^ 28)
  else none

def ownerOf (pa : Nat) : Nat := (ownerDie pa).getD 0

/-- The home of a line: the owning die's cluster (PA div 128) mod 12 (R230). -/
def homeOf (pa : Nat) : Nat := ownerOf pa * 12 + pa / 128 % 12

def isFabric (pa : Nat) : Bool := pa / 2 ^ 51 % 2 == 1

/-- The address of the 128-byte line that holds an address. -/
def lineOf (a : Nat) : Nat := a / 128 * 128

/-- A die's cellar at a window offset (R309). -/
def cellarPa (d off : Nat) : Nat := 2 ^ 44 + d * 2 ^ 28 + off

/-- The cellar region that holds a physical address (R262). -/
def State.region? (s : State) (pa : Nat) : Option Region :=
  (s.die (ownerOf pa)).regions.find? fun r => r.pa ≤ pa && pa < r.pa + r.bytes

/-- The line lies in a precise cellar region: it can be staged, and its accesses are requests (R264, R271). -/
def State.preciseCellar (s : State) (pa : Nat) : Bool :=
  match s.region? pa with
  | some r => r.grade == 8
  | none => false

/-! ### Translation (R334) -/

def Mapping.covers (m : Mapping) (vdev va : Nat) : Bool := m.vdev == vdev && m.va ≤ va && va < m.va + m.size

def Mapping.paOf (m : Mapping) (va : Nat) : Nat := m.pa + (va - m.va)

/-- A hit in the core's, the cluster's or the die's TLB. -/
def State.tlbHit (s : State) (core vdev va : Nat) : Option Mapping :=
  ((s.core core).tlb.find? fun m => m.covers vdev va) <|>
  ((s.cluster (clusterOfCore core)).tlb.find? fun m => m.covers vdev va) <|>
  ((s.die (dieOfCore core)).tlb.find? fun m => m.covers vdev va)

/-- What a walk of the page tables finds; a migrating page is not found (R341). -/
def State.pageOf (s : State) (vdev va : Nat) : Option Mapping :=
  s.pages.find? fun m => m.covers vdev va && !m.migrating

def State.lookup (s : State) (core vdev va : Nat) : Option Mapping := s.tlbHit core vdev va <|> s.pageOf vdev va

def fillList (n : Nat) (m : Mapping) (l : List Mapping) : List Mapping :=
  if l.contains m then l else (m :: l).take n

/-- A walk fills the TLBs of its core (R334, R335). -/
def State.fill (s : State) (core : Nat) (m : Mapping) : State :=
  ((s.modCore core fun c => { c with tlb := fillList 64 m c.tlb }).modCluster (clusterOfCore core) fun k =>
    { k with tlb := fillList 1024 m k.tlb }).modDie (dieOfCore core) fun d => { d with tlb := fillList 4096 m d.tlb }

/-- Remove translations from the TLBs of a die (R338, R340). -/
def State.shoot (s : State) (d : Nat) (p : Mapping → Bool) : State :=
  let keep (l : List Mapping) : List Mapping := l.filter fun m => !p m
  let s1 := { s with cores := s.cores.map fun (e : Nat × Core) =>
                if dieOfCore e.1 == d then (e.1, { e.2 with tlb := keep e.2.tlb }) else e }
  let s2 := { s1 with clusters := s1.clusters.map fun (e : Nat × Cluster) =>
                if dieOfCluster e.1 == d then (e.1, { e.2 with tlb := keep e.2.tlb }) else e }
  { s2 with dies := s2.dies.map fun (e : Nat × Die) => if e.1 == d then (e.1, { e.2 with tlb := keep e.2.tlb }) else e }

def allDies : List Nat := List.range 16

def State.shootAll (s : State) (p : Mapping → Bool) : State := allDies.foldl (fun x d => x.shoot d p) s

/-- The page, in 64 KiB units, by which misses merge (R335). -/
def pageKey (va : Nat) : Nat := va / 65536

/-- How an access to a global address is judged before its own tag checks (R153 rows 2 to 4). -/
inductive Access where
  | fault (cause : Nat)
  | park
  | ok (m : Mapping) (pa : Nat)
deriving DecidableEq, Repr

/-- Rows 2 to 4 of R153: alignment, bits 63:52, mapping, permission. `refused` is the page whose fault request the service
refused for this strand. A region that a combine context holds permits no strand's access (R287), and `fab` says whether
the instruction may reach a fabric address (R371). -/
def State.access (s : State) (core vdev : Nat) (refused : Option Nat) (r w fab : Bool) (align a : Nat) : Access :=
  if a % align != 0 then .fault Cause.misaligned
  else if a ≥ 2 ^ 52 then .fault Cause.unmapped
  else
    match s.lookup core vdev a with
    | none => if refused == some (pageKey a) then .fault Cause.unmapped else .park
    | some m =>
      let pa := m.paOf a
      let held := match s.region? pa with
        | some g => g.ctx.isSome
        | none => false
      if (r && !m.r) || (w && !m.w) || (isFabric pa && !fab) || (!isFabric pa && held) then .fault Cause.permission
      else .ok m pa

/-! ### Writes -/

def Write.size (w : Write) : Nat := if w.zeros = 0 then w.bytes.length else w.zeros

def Write.covers (w : Write) (a : Nat) : Bool := w.pa ≤ a && a < w.pa + w.size

def Write.overlaps (w x : Write) : Bool := w.pa < x.pa + x.size && x.pa < w.pa + w.size

/-- The byte a write gives an address. -/
def Write.at? (w : Write) (a : Nat) : Option Byte :=
  if w.covers a then (if w.zeros = 0 then w.bytes[a - w.pa]? else some 0) else none

def overlay (ws : List Write) (a : Nat) (b : Byte) : Byte := ws.foldl (fun x w => (w.at? a).getD x) b

/-- The entries of a guarded team's share as writes, oldest first (R175, R177). -/
def Team.shareWrites (tm : Team) : List Write :=
  match tm.guarded with
  | some g => g.share.map fun e =>
      { pa := e.pa, bytes := e.bytes, width := if e.grade == 8 then 0 else e.width, sheaf := e.sheaf, lanes := e.lanes }
  | none => []

/-- A store not yet performed on its die is performed for the strands of a sheaf, of a core: by the scope to which it has been performed
(R159, R160). -/
def Write.visibleTo (w : Write) (sheaf core : Nat) : Bool :=
  (w.vis ≥ 1 && w.sheaf == sheaf) || (w.vis ≥ 2 && w.sheaf / 16 == sheaf / 16) || (w.vis ≥ 3 && w.core == core) ||
  (w.vis ≥ 4 && clusterOfCore w.core == clusterOfCore core)

/-- What a strand sees over its die's view: its team's share, its own stores not yet performed, and those of others that are performed
for it (R156, R159, R177). -/
def State.ownWrites (s : State) (tm : Team) (j : Nat) (m : Lanes) : List Write :=
  tm.shareWrites ++ (s.stores.filter fun x =>
    x.2.sheaf == sheafId tm.key j && x.2.lanes &&& m != 0 || x.2.visibleTo (sheafId tm.key j) tm.core).map Prod.snd

/-- The byte that die `d`'s view holds, under further writes. -/
def State.byteAt (s : State) (d : Nat) (ws : List Write) (a : Nat) : Byte := overlay ws a ((s.die d).view.get a)

/-- A line's storage width as die `d` sees it under further writes (R48). -/
def State.widthAt (s : State) (d : Nat) (ws : List Write) (a : Nat) : Nat :=
  ws.foldl (fun k w => if w.width != 0 && lineOf w.pa == lineOf a then w.width else k)
    ((s.die d).lineW.val (lineOf a) 32)

/-! ### Exposure of approximate storage (R48) -/

/-- Units that Expose leaves alone: NaN and infinity by width. -/
def unitKept (w v : Nat) : Bool :=
  if w = 16 then v / 1024 % 32 == 31 || v / 128 % 256 == 255
  else if w = 32 then v / 2 ^ 23 % 256 == 255
  else if w = 64 then v / 2 ^ 52 % 2048 == 2047
  else false

def exposeUnit (w g draw idx v : Nat) : Nat :=
  let l := exposureBits w g
  if unitKept w v then v else v / 2 ^ l * 2 ^ l + Config.unspecified draw idx % 2 ^ l

/-- Read bytes of storage: of precise storage as they stand, of approximate storage through Expose of each unit of the
storage width. `salt` tells the accesses of one draw apart. -/
def readStorage (get : Nat → Byte) (grade width draw salt a n : Nat) : List Byte :=
  (List.range n).map fun k =>
    if grade = 8 then get (a + k)
    else
      let u := width / 8
      let base := (a + k) / u * u
      let v := bytesNat ((List.range u).map fun q => get (base + q))
      BitVec.ofNat 8 (exposeUnit width grade draw (base * 64 + salt) v / 256 ^ (a + k - base))

/-- Read `n` bytes of global storage on die `d`. -/
def State.readGlobal (s : State) (d : Nat) (ws : List Write) (grade draw salt pa n : Nat) : List Byte :=
  readStorage (s.byteAt d ws) grade (s.widthAt d ws pa) draw salt pa n

/-- A byte of the range lies in a poisoned sector (R313). -/
def State.poisonAt (s : State) (pa n : Nat) : Bool :=
  (s.die (ownerOf pa)).poison.any fun e => e.1 < pa + n && pa < e.1 + 32

/-- An uncorrectable error of cellar storage that an access meets is logged with its word (R183, R263, R316). -/
def State.cellarErrorAt (s : State) (pa n vdev : Nat) : State :=
  if pa < 2 ^ 44 || isFabric pa then s
  else
    let w := ((s.die (ownerOf pa)).poison.find? fun e => decide (e.1 < pa + n) && decide (pa < e.1 + 32)).elim pa Prod.fst
    s.sramEvent (ownerOf pa) false srcDie 4 (w % 2 ^ 28 / 8) vdev (lineOf w)

/-- Lines that the granules of no region can hold as cache (R262, R263). -/
def Die.cacheLimit (d : Die) : Nat := 8192 * (168 - d.regions.foldl (fun n r => n + (r.bytes + 1048575) / 1048576) 0)

/-- Lines come into a die's cellar cache; which ones leave a full cache shows nowhere (R263). -/
def Die.cacheIn (d : Die) (lines : List Nat) : Die :=
  { d with cache := (lines.foldl (fun m a => m.put a ()) d.cache).take d.cacheLimit }

/-! ### Performing a write on its die (R157, R158) -/

/-- A write takes its place in the die's view; it is not stamped yet. -/
def Die.perform (d : Die) (w : Write) : Die :=
  { d with
    view := if w.zeros = 0 then d.view.setN w.pa w.bytes else d.view.zero w.pa w.zeros,
    lineW := if w.zeros != 0 then d.lineW.filter fun e => e.1 < w.pa || w.pa + w.zeros ≤ e.1
             else if w.width = 0 then d.lineW else d.lineW.store 32 (lineOf w.pa) w.width,
    unstamped := d.unstamped ++ [{ w with no := d.performed }],
    performed := d.performed + 1 }

/-- A full-line write or a zeroing clears poison (R313). -/
def State.clearPoison (s : State) (w : Write) : State :=
  if w.zeros = 0 && !(w.pa % 128 == 0 && w.bytes.length % 128 == 0) then s
  else s.modDie (ownerOf w.pa) fun d =>
    { d with poison := d.poison.filter fun e => e.1 < w.pa || w.pa + w.size ≤ e.1 }

def State.perform (s : State) (d : Nat) (w : Write) : State := (s.modDie d fun x => x.perform w).clearPoison w

/-- A fence's marker among a strand's stores: it has no bytes (R159). -/
def Write.isMark (w : Write) : Bool := w.bytes.isEmpty && w.zeros == 0

/-- Two writes of one strand. -/
def Write.sameStrand (w x : Write) : Bool := w.sheaf == x.sheaf && w.lanes &&& x.lanes != 0

/-- The lanes and the sheaf of a request. -/
def Req.lanes (r : Req) : Lanes :=
  match r.src with
  | .lane _ _ l _ => laneBit l
  | .uniform _ _ _ ls => maskOf ls
  | _ => 0

def Req.sheafNo (r : Req) : Nat :=
  match r.src with
  | .lane t j _ _ => sheafId t j
  | .uniform t j _ _ => sheafId t j
  | _ => 0

/-- The bytes of a request's access, as a write that covers them. -/
def Req.span (r : Req) : Write := { pa := r.pa, bytes := natBytes (r.ty.width / 8) 0 }

/-- Requests issued and not yet performed, wherever they stand. -/
def State.outstanding (s : State) : List Req :=
  s.sending ++ (s.clusters.flatMap fun (e : Nat × Cluster) => e.2.queue ++ e.2.overflow) ++ s.fabric.waits.map Prod.snd

/-- Atomics of some lanes of a sheaf issued before its `n`-th issue and not yet performed: each stands in its strand's program
order as a load and a store (R236). -/
def State.atomicsOf (s : State) (sheaf : Nat) (m : Lanes) (n : Nat) : List Req :=
  s.outstanding.filter fun r => r.kind == .atomic && r.sheafNo == sheaf && r.lanes &&& m != 0 && decide (r.seq < n)

/-- Loads of some lanes of a sheaf issued before its `n`-th issue and not yet performed (R156, R159). -/
def State.loadsOf (s : State) (sheaf : Nat) (m : Lanes) (n : Nat) : List Load :=
  s.loads.filter fun l => sheafId l.t l.j == sheaf && l.lanes &&& m != 0 && decide (l.seq < n)

/-- The bytes of a load, as a write that covers them. -/
def Load.span (l : Load) : Write := { pa := l.pa, bytes := natBytes (l.ty.width / 8) 0 }

/-- Sequencer entries of a sheaf issued before its `n`-th issue whose larder accesses are not all performed (R195). -/
def State.entriesOf (s : State) (sheaf n : Nat) : List SeqEntry :=
  (s.team? (sheaf / 16)).elim [] fun tm => tm.matrix.queue.filter fun e => e.sheaf == sheaf % 16 && decide (e.seq < n)

/-- Writes of a marker's strand, and those of others that it has seen. -/
def Write.seenBy (x w : Write) : Bool := x.sameStrand w || x.visibleTo w.sheaf w.core

/-- A write waits for accesses of its own strand that are not stores: one to its bytes, a fence's marker any (R156, R159,
R195, R236). -/
def State.writeHeld (s : State) (w : Write) : Bool :=
  ((s.atomicsOf w.sheaf w.lanes w.iss).any fun r => w.isMark || w.overlaps r.span) ||
  ((s.loadsOf w.sheaf w.lanes w.iss).any fun l => w.isMark || w.overlaps l.span) ||
  (w.isMark && !(s.entriesOf w.sheaf w.iss).isEmpty)

/-- An earlier write goes before a later one: of one strand where a fence stands between them or their bytes overlap (R156, R159), of
one issue where their bytes overlap (R152). A releasing marker comes after the stores of its strand, and those of others that its
strand has seen, which its scope does not reach yet (R159, R322). Overlapping stores that some other strand has seen keep one order
(R157). -/
def Write.before (x y : Write) : Bool :=
  (x.sameStrand y && (x.isMark && (!y.isMark || y.rel) || x.overlaps y)) ||
  (y.isMark && y.rel && !x.isMark && x.vis < y.scope && x.seenBy y) ||
  ((x.vis != 0 || y.vis != 0) && x.overlaps y) ||
  (x.lanes != 0 && x.sheaf == y.sheaf && x.iss == y.iss && x.overlaps y)

/-- Writes performed on a die that happen before what a strand does after its marker: those it has made or seen, and those performed
when it last acquired. The last are more than R322's relation gives where an acquire met fewer: the marker waits for them all (DESIGN
CHOICE, log entry 13). -/
def Write.happensBefore (x w : Write) : Bool := x.seenBy w || decide (x.no < w.no)

/-- A fence's marker may pass: under `pub` every write that happens before it is stamped (R322, R327, R330), under `sys` its strand's
remote requests are complete (R373). -/
def State.markerPasses (s : State) (d : Nat) (w : Write) : Bool :=
  (!w.pub || !((s.die d).unstamped.any fun x => x.happensBefore w)) &&
  (!w.sys || !(s.fabric.waits.any fun x => x.2.sheafNo == w.sheaf && x.2.lanes &&& w.lanes != 0))

/-- The n-th store may be performed: no earlier store goes before it, and no other access of its strand (R152, R156, R159). -/
def State.mayPerform (s : State) (n : Nat) : Bool :=
  match s.stores[n]? with
  | none => false
  | some x =>
    (s.stores.take n).all (fun y => !y.2.before x.2) && !s.writeHeld x.2 && (!x.2.isMark || s.markerPasses x.1 x.2)

/-- An acquire of some lanes: what has been performed on their die by now may happen before what they do next (R322). -/
def State.acquire (s : State) (d t j : Nat) (m : Lanes) : State :=
  s.modSheaf t j fun sh => sh.modLanes (lanesOf m) fun st => if st.run == .vacant then st else { st with acq := (s.die d).performed }

/-- A fence's marker has passed: one that holds its lanes' next accesses is their acquire. -/
def State.passMark (s : State) (x : Nat × Write) : State :=
  if x.2.acq then s.acquire x.1 (x.2.sheaf / 16) (x.2.sheaf % 16) x.2.lanes else s

/-- Perform the n-th outstanding store when its order allows. -/
def State.performNth (s : State) (n : Nat) : State :=
  if s.mayPerform n then
    match s.stores[n]? with
    | some x =>
      let s1 := { s with stores := s.stores.eraseIdx n }
      if x.2.isMark then s1.passMark x else s1.perform x.1 x.2
    | none => s
  else s

/-- The n-th outstanding store is performed for the strands of a scope narrower than its die, when what goes before it is (R159). -/
def State.revealNth (s : State) (n sc : Nat) : State :=
  match s.stores[n]? with
  | none => s
  | some x =>
    let w : Write := { x.2 with vis := sc }
    let clear (y : Nat × Write) : Bool := !y.2.before w || (!y.2.isMark && decide (sc ≤ y.2.vis))
    if x.2.isMark || sc ≥ 5 || sc ≤ x.2.vis || !(s.stores.take n).all clear || s.writeHeld x.2 then s
    else { s with stores := s.stores.set n (x.1, w) }

/-- The outstanding stores of the chosen sources with all that goes before them, and the rest. -/
def chosenStores (p : Write → Bool) : List (Nat × Write) → List (Nat × Write) × List (Nat × Write)
  | [] => ([], [])
  | x :: r =>
    let q := chosenStores p r
    if p x.2 || (q.1.any fun y => x.2.before y.2) then (x :: q.1, q.2) else (q.1, x :: q.2)

/-- Writes of some lanes of a sheaf. -/
def ofLanes (t j : Nat) (m : Lanes) (w : Write) : Bool := w.sheaf == sheafId t j && w.lanes &&& m != 0

/-- Writes of a team, or of some of its sheaves. -/
def ofTeam (t : Nat) (w : Write) : Bool := w.sheaf / 16 == t && w.lanes != 0
def ofSheaves (t : Nat) (js : List Nat) (w : Write) : Bool := ofTeam t w && js.contains (w.sheaf % 16)

/-- The entries of a store: each carries up to 8 bytes (R175). -/
def shareEntries (e : ShareEntry) : List ShareEntry :=
  if e.bytes.length ≤ 8 then [e]
  else (List.range ((e.bytes.length + 7) / 8)).map fun k =>
    { e with pa := e.pa + 8 * k, bytes := (e.bytes.drop (8 * k)).take 8 }

/-- A loaded value in its register (R151). -/
def loadedWord (ty : Ty) (v : Nat) : Word :=
  BitVec.ofNat 64 (if ty.signed then ofInt 64 (toInt true ty.width v) else v)

/-- A strand's store to global memory: into a guarded team's share, else outstanding on its die (R157, R177). -/
def State.storeGlobal (s : State) (tm : Team) (j : Nat) (m : Lanes) (pa : Nat) (bs : List Byte) (width grade : Nat)
    (tag : Bool := false) : State :=
  match tm.guarded with
  | some _ =>
    let e : ShareEntry :=
      { pa := pa, bytes := bs, width := width, grade := grade, sheaf := sheafId tm.key j, lanes := m, tag := tag }
    s.modTeam tm.key fun x => { x with guarded := x.guarded.map fun g => { g with share := g.share ++ shareEntries e } }
  | none =>
    let w : Write := { pa := pa, bytes := bs, width := if grade = 8 then 0 else width, sheaf := sheafId tm.key j, lanes := m,
                       iss := (tm.sheaf j).iss, core := tm.core }
    { s with stores := s.stores ++ [(tm.die, w)] }

/-! ### Stamps and clocks (R324 to R326) -/

/-- The vector clock of a die. -/
def Die.clock (d : Die) : List Nat := allDies.map fun k => d.vc.getD k 0

def clockMax (a b : List Nat) : List Nat := allDies.map fun k => max (a.getD k 0) (b.getD k 0)

/-- Every entry of `a` is covered by `b`. -/
def clockLe (a b : List Nat) : Bool := allDies.all fun k => decide (a.getD k 0 ≤ b.getD k 0)

def stampSum (v : List Nat) : Nat := v.foldl (fun x y => x + y) 0

/-- Order of keys (R326). -/
def keyBelow (a b : Nat × Nat) : Bool := a.1 < b.1 || (a.1 == b.1 && a.2 < b.2)

def keyMax (a b : Nat × Nat) : Nat × Nat := if keyBelow a b then b else a

/-- The key of the value that a byte of the view holds. -/
def Die.keyOf (d : Die) (a : Nat) : Nat × Nat :=
  d.ranges.foldl (fun k r => if r.pa ≤ a && a < r.pa + r.size then keyMax k (r.sum, r.die) else k) (d.keys.val a (0, 0))

def Die.setKeys (d : Die) (w : Write) (k : Nat × Nat) : Die :=
  if w.zeros = 0 then { d with keys := (List.range w.bytes.length).foldl (fun m i => m.put (w.pa + i) k) d.keys }
  else { d with ranges := d.ranges ++ [{ pa := w.pa, size := w.zeros, sum := k.1, die := k.2 }] }

/-- Send a stamped write to the other dies. -/
def State.broadcast (s : State) (m : Stamped) : State :=
  (allDies.filter fun k => k != m.die).foldl (fun x k => x.modDie k fun d => { d with inbox := d.inbox ++ [m] }) s

/-- The last stamp of a die is one of this mesh cycle, and no die has applied anything of it, nor this die anything since: writes that
become globally visible now share it (R324, R389). Where a die has applied it already, as one does for a request that carries it, the
writes that follow take the next stamp. -/
def State.stampOpen (s : State) (d : Nat) : Bool :=
  let q := s.die d
  q.stampedAt == some s.time &&
  (allDies.filter fun k => k != d).all fun k => (s.die k).inbox.any fun m => m.die == d && m.stamp == q.clock

/-- Stamp writes of die `d` with one increment of its clock, or with this mesh cycle's stamp while it is open (R324, R389). -/
def State.stampWrites (s : State) (d : Nat) (ws : List Write) : State :=
  if s.stampOpen d then
    let vc := (s.die d).clock
    let join (m : Stamped) : Stamped := if m.die == d && m.stamp == vc then { m with writes := m.writes ++ ws } else m
    (allDies.filter fun k => k != d).foldl (fun (x : State) k => x.modDie k fun q => { q with inbox := q.inbox.map join })
      (s.modDie d fun x => ws.foldl (fun y w => y.setKeys w (stampSum vc, d)) x)
  else
    let vc := (s.die d).clock.modify d fun n => n + 1
    let k := (stampSum vc, d)
    (s.modDie d fun x => ws.foldl (fun y w => y.setKeys w k) { x with vc := vc, stampedAt := some s.time }).broadcast
      { die := d, stamp := vc, writes := ws }

/-- Stamp the n-th unstamped write; one that an earlier write overlaps waits (R324). -/
def State.stampAt (s : State) (d n : Nat) : State :=
  let l := (s.die d).unstamped
  match l[n]? with
  | none => s
  | some w =>
    if (l.take n).any fun x => x.overlaps w then s
    else (s.modDie d fun x => { x with unstamped := x.unstamped.eraseIdx n }).stampWrites d [w]

/-- Stamp the first n unstamped writes in their order. -/
def State.stampFirst (s : State) (d : Nat) : Nat → State
  | 0 => s
  | n + 1 => (s.stampAt d 0).stampFirst d n

/-- Unstamped writes of the chosen sources with the earlier ones that they overlap, and the rest. -/
def chosenWrites (p : Write → Bool) : List Write → List Write × List Write
  | [] => ([], [])
  | x :: r =>
    let q := chosenWrites p r
    if p x || (q.1.any fun y => x.overlaps y) then (x :: q.1, q.2) else (q.1, x :: q.2)

/-- Stamp the unstamped writes of the chosen sources, with what goes before them (R324): they become globally visible together. -/
def State.stampThrough (s : State) (d : Nat) (p : Write → Bool) : State :=
  let c := chosenWrites p (s.die d).unstamped
  if c.1.isEmpty then s else (s.modDie d fun x => { x with unstamped := c.2 }).stampWrites d c.1

/-- Perform one outstanding store; a marker of a wide fence stamps what happens before it first (R327). -/
def State.performOut (s : State) (x : Nat × Write) : State :=
  if !x.2.isMark then s.perform x.1 x.2
  else (if x.2.pub then s.stampThrough x.1 fun w => w.happensBefore x.2 else s).passMark x

/-- The scope to which each outstanding store must be performed, so that those of the chosen sources are performed within a scope: 0
where it may stay as it is. What goes before one of them must be performed as far, what goes before a marker as far as the marker's
scope. -/
def scopesFor (p : Write → Bool) (sc : Nat) : List (Nat × Write) → List ((Nat × Write) × Nat)
  | [] => []
  | x :: r =>
    let q := scopesFor p sc r
    let own := if p x.2 && (sc ≥ 5 || !x.2.isMark) then sc else 0
    (x, q.foldl (fun n y => if y.2 == 0 || !x.2.before y.1.2 then n else max n (if y.1.2.isMark then max 1 y.1.2.scope else y.2)) own) :: q

/-- Perform every outstanding store of the chosen sources within a scope, 5 their die, with what goes before it, in order; a marker of a
.system fence whose remote requests are not complete stays (R373). -/
def State.performStores (s : State) (p : Write → Bool) (sc : Nat) : State :=
  let q := scopesFor p sc s.stores
  let stays (x : Nat × Write) : Bool := x.2.isMark && x.2.sys && !s.markerPasses x.1 { x.2 with pub := false }
  let leaves (e : (Nat × Write) × Nat) : Bool := e.2 != 0 && (if e.1.2.isMark then !stays e.1 else decide (e.2 ≥ 5))
  let kept := (q.filter fun e => !leaves e).map fun e => (e.1.1, if e.1.2.isMark then e.1.2 else { e.1.2 with vis := max e.1.2.vis e.2 })
  ((q.filter leaves).map Prod.fst).foldl (fun y x => y.performOut x) { s with stores := kept }

/-- Perform every outstanding store of the chosen sources on its die. -/
def State.flush (s : State) (p : Write → Bool) : State := s.performStores p 5

/-- Nothing but stores of their own holds the chosen sources' stores back. -/
def State.canFlush (s : State) (p : Write → Bool) : Bool :=
  (chosenStores p s.stores).1.all fun x => !s.writeHeld x.2

/-- The chosen sources' writes are performed on their die and globally visible (R327 to R329). -/
def State.publish (s : State) (d : Nat) (p : Write → Bool) : State := (s.flush p).stampThrough d p

/-- What happens before a marker is performed on its die and globally visible (R322, R327 to R330). -/
def State.publishFor (s : State) (d : Nat) (m : Write) : State :=
  (s.flush fun w => w.seenBy m).stampThrough d fun w => w.happensBefore m

/-- A stamped write may be applied (R325). -/
def Die.canApply (d : Die) (m : Stamped) : Bool :=
  allDies.all fun k =>
    if k == m.die then m.stamp.getD k 0 == d.vc.getD k 0 + 1 else decide (m.stamp.getD k 0 ≤ d.vc.getD k 0)

/-- A byte that a write of this die not yet stamped has written: its key will be greater (R326). -/
def Die.localByte (d : Die) (a : Nat) : Bool := d.unstamped.any fun w => w.covers a

/-- One write under its key: each byte takes it when its key is the greater (R326), or the same, which is that of an earlier write under
its own stamp (R324). -/
def Die.applyWrite (d : Die) (k : Nat × Nat) (w : Write) : Die :=
  let wins (x : Die) (a : Nat) : Bool := !x.localByte a && !keyBelow k (x.keyOf a)
  if w.zeros = 0 then
    let d1 := if w.width != 0 && wins d w.pa then { d with lineW := d.lineW.store 32 (lineOf w.pa) w.width } else d
    (List.range w.bytes.length).foldl (fun x i =>
      let a := w.pa + i
      if wins x a then { x with view := x.view.set a (w.bytes.getD i 0), keys := x.keys.put a k } else x) d1
  else
    { d with
      view := d.view.filter fun c => c.1 < w.pa || w.pa + w.zeros ≤ c.1 || !wins d c.1,
      lineW := d.lineW.filter fun e => e.1 < w.pa || w.pa + w.zeros ≤ e.1 || !wins d e.1,
      ranges := d.ranges ++ [{ pa := w.pa, size := w.zeros, sum := k.1, die := k.2 }] }

/-- Apply a stamped write: the clock advances whatever its bytes do (R325, R326). -/
def Die.applyMsg (d : Die) (m : Stamped) : Die :=
  let k := (stampSum m.stamp, m.die)
  let d1 := m.writes.foldl (fun x w => x.applyWrite k w) d
  { d1 with vc := d1.clock.set m.die (m.stamp.getD m.die 0), inbox := d1.inbox.erase m }

/-- Apply the next write of die `src`, if its turn has come. -/
def Die.applyFrom (d : Die) (src : Nat) : Die :=
  match d.inbox.find? fun m => m.die == src && d.canApply m with
  | some m => d.applyMsg m
  | none => d

/-- Apply every write that a clock covers; each round applies one. -/
def Die.applyCovered (clock : List Nat) : Nat → Die → Die
  | 0, d => d
  | n + 1, d =>
    match d.inbox.find? fun m => decide (m.stamp.getD m.die 0 ≤ clock.getD m.die 0) && d.canApply m with
    | some m => Die.applyCovered clock n (d.applyMsg m)
    | none => d

def State.applyUpTo (s : State) (d : Nat) (clock : List Nat) : State :=
  s.modDie d fun x => Die.applyCovered clock x.inbox.length x

/-- Every die has applied every write that a clock covers. -/
def State.allApplied (s : State) (clock : List Nat) : Bool := allDies.all fun d => clockLe clock (s.die d).clock

/-! ### The larder (R172, R175, R177) -/

/-- The grade of a larder offset (R172). -/
def Team.larderGrade (tm : Team) (a : Nat) : Nat := if a < tm.st.larderA then tm.st.lgrade else 8

def Team.larderByte (tm : Team) (a : Nat) : Byte := tm.larder.val a 0

def Team.readLarder (tm : Team) (draw salt a n : Nat) : List Byte :=
  readStorage tm.larderByte (tm.larderGrade a) (tm.larderW.val (lineOf a) 32) draw salt a n

/-- Keep a line's old contents before its first write after a commit (R177). -/
def Team.logLine (tm : Team) (a : Nat) : Team :=
  match tm.guarded with
  | none => tm
  | some g =>
    let l := lineOf a
    if g.undo.any fun e => e.1 == l then tm
    else { tm with guarded := some { g with undo := (l, (List.range 128).map fun k => tm.larderByte (l + k),
                                                    tm.larderW.val l 32) :: g.undo } }

def Team.setLarder (tm : Team) (a : Nat) (bs : List Byte) : Team :=
  { tm with larder := (List.range bs.length).foldl (fun m k => m.store 0 (a + k) (bs.getD k 0)) tm.larder }

/-- Store bytes in the larder: an approximate line takes the width (R48, R152). -/
def Team.writeLarder (tm : Team) (a width : Nat) (bs : List Byte) : Team :=
  let t1 := (tm.logLine a).setLarder a bs
  if tm.larderGrade a = 8 then t1 else { t1 with larderW := t1.larderW.store 32 (lineOf a) width }

/-- The first word with an uncorrectable error of a range of the larder: of an approximate line, in its unexposed bits, which are
reported and trapped as a precise line's are (R54, R183). -/
def Team.larderBadWord (tm : Team) (a n : Nat) : Option Nat :=
  (tm.larderBad.find? fun e => e.1 < a + n && a < e.1 + 8).map Prod.fst

def Team.larderError (tm : Team) (a n : Nat) : Bool := (tm.larderBadWord a n).isSome

/-! ### Requests to a home (R231, R268) -/

/-- An AFADD.o whose line no home can stage goes straight into its reorder buffer (R238). -/
def Req.direct (r : Req) : Bool := r.fn == 9 && !r.staged && !isFabric r.pa

/-- A request of a lane, whose port takes its word only while the home has room for it (R231). -/
def ReqSrc.byPort : ReqSrc → Bool
  | .lane _ _ _ _ | .uniform _ _ _ _ => true
  | _ => false

/-- Requests for a home's queue that wait at their senders. -/
def State.waitingFor (s : State) (home : Nat) : List Req :=
  s.sending.filter fun r => !r.direct && !isFabric r.pa && homeOf r.pa == home

/-- Send a request to its line's home; it takes the next place in the queue. One that no memory port has reserved a place for, of an
engine or of another package, waits at its sender while the queue is full, behind those that wait already (R231). -/
def State.send (s : State) (r : Req) : State :=
  let h := homeOf r.pa
  let w := s.waitingFor h
  if r.src.byPort || (!(w.any fun q => !q.src.byPort) && (s.cluster h).queue.length + w.length < 1024) then
    s.modCluster h fun k => { k with queue := k.queue ++ [r] }
  else { s with sending := s.sending ++ [r] }

/-- The acquires of some lanes so far: writes performed on their die below this number may happen before what they do. -/
def State.acqOf (s : State) (t j : Nat) (m : Lanes) : Nat :=
  (s.team? t).elim 0 fun tm => (lanesOf m).foldl (fun n l => max n ((tm.sheaf j).strand l).acq) 0

/-- A marker that stands for what some lanes do now. -/
def State.laneMark (s : State) (t j : Nat) (m : Lanes) : Write :=
  { sheaf := sheafId t j, lanes := m, core := (s.team? t).elim 0 fun tm => tm.core, no := s.acqOf t j m }

/-- Every lane of `ls` publishes what it has written and what happens before that, before it sends a request (R322, R328, R329). -/
def State.publishLanes (s : State) (d t j : Nat) (ls : List Nat) : State :=
  s.publishFor d (s.laneMark t j (maskOf ls))

/-- The n-th outstanding load is performed: its value is what its strand sees now, its own later stores apart (R151, R156, R157). -/
def State.readNth (s : State) (n : Nat) : State :=
  match s.loads[n]? with
  | none => s
  | some l =>
    let s1 := { s with loads := s.loads.eraseIdx n }
    match s.team? l.t with
    | none => s1
    | some tm =>
      let later (w : Write) : Bool := w.sheaf == sheafId l.t l.j && w.lanes &&& l.lanes != 0 && decide (l.seq < w.iss)
      let ws := (s.ownWrites tm l.j l.lanes).filter fun w => !later w
      let v := loadedWord l.ty (bytesNat (s.readGlobal l.die ws l.grade l.draw l.lane l.pa (l.ty.width / 8)))
      s1.modSheaf l.t l.j fun sh => sh.modPend l.seq fun p =>
        { p with waits := p.waits - 1, writes := p.writes ++ l.writes.map fun w => w.withBits v }

/-! ### Fabric windows (R370) -/

/-- The target of a fabric address: package, key, device and virtual address; none when the window is not in use. -/
def State.window? (s : State) (pa : Nat) : Option (Nat × Nat × Nat × Nat) :=
  if pa / 2 ^ 42 % 512 != 0 then none
  else
    let w := s.fabric.windows.val (pa / 2 ^ 30 % 4096) (0, 0)
    let w0 := w.1.toNat
    if w0 / 2 ^ 63 % 2 == 0 then none
    else some (w0 % 2 ^ 14, w0 / 2 ^ 32 % 2 ^ 16, w0 / 2 ^ 24 % 64, w.2.toNat / 2 ^ 30 % 2 ^ 22 * 2 ^ 30 + pa % 2 ^ 30)

/-- The package's own pod index in a header; 0xFFFF while it is unassigned (R378). -/
def State.ownPod (s : State) : Nat := s.fabric.pod.getD 0xFFFF

def State.cover (s : State) (d pkg : Nat) : List Nat := allDies.map fun k => ((s.die d).covers.val pkg []).getD k 0

/-- A message that begins an operation of this package: a request, but not the withdrawal of one (log entry 18). -/
def msgBegins (m : Msg) : Bool :=
  m.op == 1 || m.op == 5 || m.op == 7 || m.op == 11 || m.op == 12 || ((m.op == 3 || m.op == 9) && m.fn != 3)

/-- A packet is handed to the transport, which then has 2 ms to reach its package (R368). -/
def Fabric.handOver (f : Fabric) (now : Nat) (p : Packet) : Fabric :=
  { f with outbox := f.outbox ++ [p], sentAt := if msgBegins p.msg then f.sentAt.put p.msg.tag now else f.sentAt }

/-- An operation is answered. -/
def Fabric.answered (f : Fabric) (tag : Nat) : Fabric := { f with sentAt := f.sentAt.del tag }

/-- A message leaves for its package. -/
def State.post (s : State) (dest : Nat) (rod : Bool) (m : Msg) : State :=
  { s with fabric := s.fabric.handOver s.time { dest := dest, rod := rod, msg := m } }

def ReqSrc.isRemote (pod tag : Nat) : ReqSrc → Bool
  | .remote p t _ => p == pod && t == tag
  | _ => false

/-- Two requests of one lane. -/
def ReqSrc.sameLane (a b : ReqSrc) : Bool :=
  match a, b with
  | .lane t j l _, .lane t' j' l' _ => t == t' && j == j' && l == l'
  | .uniform t j _ _, .uniform t' j' _ _ => t == t' && j == j'
  | _, _ => false

/-- Requests held behind an answered one go out. -/
def State.releaseHeld (s : State) : State :=
  s.fabric.held.foldl (fun (x : State) h =>
    match x.fabric.waits.find? fun w => w.1 == h.1 with
    | none => { x with fabric := { x.fabric with held := x.fabric.held.filter fun y => y.1 != h.1 } }
    | some w =>
      if x.fabric.waits.any fun y => y.1 < h.1 && y.2.src.sameLane w.2.src then x
      else { x with fabric := { x.fabric with held := x.fabric.held.filter fun y => y.1 != h.1 }.handOver x.time h.2 }) s

/-- A remote request is answered, and so remotely complete: it leaves the list, and the next of its lane goes out. -/
def State.closeRemote (s : State) (tag : Nat) : State :=
  { s with fabric := { s.fabric with waits := s.fabric.waits.filter fun w => w.1 != tag }.answered tag,
           teams := s.teams.map fun (e : Nat × Team) =>
             (e.1, { e.2 with remoteOut := e.2.remoteOut.filter fun x => x != tag }) }.releaseHeld

/-! ### Handles (R289) -/

def hPkg (h : Word) : Nat := h.toNat / 2 ^ 50
def hGen (h : Word) : Nat := h.toNat / 2 ^ 32 % 65536
def hDie (h : Word) : Nat := h.toNat / 2 ^ 28 % 16
def hCtx (h : Word) : Nat := h.toNat / 2 ^ 24 % 16
def hQuery (h : Word) : Bool := h.toNat / 2 ^ 23 % 2 == 1
def hCf (h : Word) : Nat := h.toNat / 2 ^ 21 % 2
def hDw (h : Word) : Nat := h.toNat / 4096 % 512
def hSlot (h : Word) : Nat := h.toNat % 4096

/-- Bytes of the row that a handle's contributions carry (R289, R296). -/
def hBytes (h : Word) : Nat := (hDw h + 1) * 64 * (if hCf h == 1 then 4 else 2)

/-- The partition key of a message that no window carries: that of the lowest window to the package. -/
def State.keyFor (s : State) (pkg : Nat) : Nat :=
  match s.fabric.windows.find? fun (e : Nat × Word × Word) => e.2.1.toNat / 2 ^ 63 % 2 == 1 && e.2.1.toNat % 2 ^ 14 == pkg with
  | some e => e.2.1.toNat / 2 ^ 32 % 2 ^ 16
  | none => 0

/-- Pool requests to other packages are withdrawn by a message of the model's own (R296; log entry 18). -/
def State.withdrawContribs (s : State) (p : Contrib → Bool) : State :=
  let gone := s.fabric.contribs.filter fun e => p e.2
  let die (c : Contrib) : Nat := match c.src with
    | .lane t _ _ _ => (s.team? t).elim 0 fun tm => tm.die
    | _ => 0
  gone.foldl (fun (x : State) e =>
      { x with fabric := x.fabric.answered e.1 }.post (hPkg e.2.handle) true
        { op := 9, srcPod := s.ownPod, srcDie := die e.2, dstDie := hDie e.2.handle, tag := e.1, key := s.keyFor (hPkg e.2.handle),
          handle := e.2.handle, fn := 3 })
    { s with fabric := { s.fabric with contribs := s.fabric.contribs.filter fun e => !p e.2 } }

/-! ### Waiting for a page (R154, R335) -/

/-- A lane joins the walk of its page. -/
def addWalkLane (l : List Walk) (vdev page : Nat) (w : Nat × Nat × Nat) : List Walk :=
  if l.any fun x => x.vdev == vdev && x.page == page then
    l.map fun x => if x.vdev == vdev && x.page == page then { x with lanes := x.lanes ++ [w] } else x
  else l ++ [{ vdev := vdev, page := page, lanes := [w] }]

def addWalkJob (l : List Walk) (vdev page : Nat) (w : Nat × Nat) : List Walk :=
  if l.any fun x => x.vdev == vdev && x.page == page then
    l.map fun x => if x.vdev == vdev && x.page == page then { x with jobs := x.jobs ++ [w] } else x
  else l ++ [{ vdev := vdev, page := page, jobs := [w] }]

/-- Lanes park with WHY = 5 and wait for their pages. -/
def State.parkPages (s : State) (t j d vdev : Nat) (ls : List (Nat × Nat)) : State :=
  (ls.foldl (fun x (e : Nat × Nat) => x.modDie d fun q =>
      { q with walks := addWalkLane q.walks vdev (pageKey e.2) (t, j, e.1) }) s).modSheaf t j fun sh =>
    ls.foldl (fun h (e : Nat × Nat) => h.modStrand e.1 fun st => st.parkAt 5 (.page vdev e.2)) sh

end Sys2Proof.Machine
end

