-- ==== Sys2Proof/Machine/Ops.lean ====
section
/-! DEFINITION. The shared operations on a sheaf and its team: fetching (R72, R97, R98), items and refill (R89, R90),
mask releases and deadlock (R92, R93), barriers (R170), commits and rollbacks (R176, R179), the end of a team (R111, R346),
taking a trap (R107 to R115, R393) and returning from one (R106, R116). -/

namespace Sys2Proof.Machine

/-! ### Fetching -/

/-- The word a core reads at a physical address: a buffered one, or its die's view (R333). -/
def State.wordAt (s : State) (core pa : Nat) : Word :=
  match (s.core core).ibuf.find pa with
  | some w => w
  | none => BitVec.ofNat 64 (bytesNat ((s.die (dieOfCore core)).view.getN pa 8))

/-- What a fetch meets. -/
inductive Fetched where
  | unmapped
  | notExecutable
  | approx                              -- the line is tagged A (R72 row 1)
  | word (pa : Nat) (w : Word)
deriving DecidableEq, Repr

/-- In a loaded object's pages only the code section holds words to fetch: at its end a fetch traps (R75). -/
def State.outsideCode (s : State) (vdev va : Nat) : Bool :=
  s.service.codes.any fun o => o.vdev == vdev && o.addr ≤ va && va < o.addr + o.bytes && !(o.code ≤ va && va < o.code + o.size)

/-- What a fetch at an address meets (R72, R97). -/
def State.fetchAt (s : State) (core vdev va : Nat) : Fetched :=
  match s.lookup core vdev va with
  | none => .unmapped
  | some m =>
    if !m.x || s.outsideCode vdev va then .notExecutable
    else if m.grade != 8 then .approx
    else .word (m.paOf va) (s.wordAt core (m.paOf va))

def isLand (w : Word) : Bool :=
  match decode w with
  | .ok (.land _ _) => true
  | _ => false

/-- Rows 4 to 6 of R98, which also judge a trap vector (R108). A word on an executable page of an approximate grade is no
LAND that a fetch would issue (R72 row 1), and row 6 refuses it unread (DESIGN CHOICE, log entry 14). -/
def State.landCause (s : State) (core vdev tgt : Nat) : Option Nat :=
  if tgt ≥ 2 ^ 48 then some Cause.unmapped
  else
    match s.fetchAt core vdev tgt with
    | .unmapped => some Cause.unmapped
    | .notExecutable => some Cause.notExecutable
    | .approx => some Cause.targetNotLand
    | .word _ w => if isLand w then none else some Cause.targetNotLand

/-! ### Items and refill (R88 to R90, R347) -/

def State.stageRun? (s : State) (launch stage : Nat) : Option StageRun :=
  match s.launch? launch with
  | some l => l.stages[stage]?
  | none => none

def State.modStage (s : State) (launch stage : Nat) (f : StageRun → StageRun) : State :=
  s.modLaunch launch fun l => { l with stages := l.stages.modify stage f }

/-- The next item of a team's item queue: of the stage's one counter, or of the team's own block in a phased launch. -/
def State.drawItem (s : State) (t : Nat) : Option (Nat × State) :=
  match s.team? t with
  | none => none
  | some tm =>
    if tm.st.phased then
      if tm.itemNext < tm.itemEnd then
        some (tm.itemNext, s.modTeam t fun x => { x with itemNext := x.itemNext + 1 })
      else none
    else
      match s.stageRun? tm.launch tm.stage with
      | none => none
      | some g =>
        if g.item < tm.st.items then
          some (g.item, s.modStage tm.launch tm.stage fun x => { x with item := x.item + 1 })
        else none

/-- Fill one lane from the item queue, if it is vacant and an item is left (R88). -/
def State.fillLane (s : State) (t j : Nat) (pc : Pc) (l : Nat) : State :=
  match s.team? t with
  | none => s
  | some tm =>
    if !(tm.sheaf j).vacant l then s
    else
      match s.drawItem t with
      | none => s
      | some (n, s1) => s1.modSheaf t j fun sh => sh.create l pc (BitVec.ofNat 64 n) (BitVec.ofNat 64 n)

/-- Fill the vacant lanes of a sheaf from the item queue, ascending (R102). -/
def State.fillLanes (s : State) (t j : Nat) (pc : Pc) : State := allLanes.foldl (fun x l => x.fillLane t j pc l) s

/-- R90: a sheaf whose every lane is vacant is refilled at its role's entry vector, or is finished. -/
def State.refillSheaf (s : State) (t j : Nat) : State :=
  match s.team? t with
  | none => s
  | some tm =>
    let sh := tm.sheaf j
    if sh.finished || !sh.allVacant then s
    else (s.fillLanes t j sh.entry).modSheaf t j fun h => if h.allVacant then { h with finished := true } else h

/-! ### Masks (R91 to R93) -/

/-- Every member of Mk waits on it, and there is one. -/
def Sheaf.maskReady (sh : Sheaf) (k : Nat) : Bool :=
  let ms := lanesOf (sh.mask k)
  !ms.isEmpty && ms.all fun l => (sh.strand l).run == .waiting k

/-- Release a mask whose members all wait: a release and an acquire at .sheaf scope among them. -/
def State.releaseMask (s : State) (t j k : Nat) : State :=
  match s.team? t with
  | none => s
  | some tm =>
    let sh := tm.sheaf j
    if sh.maskReady k then
      let ms := lanesOf (sh.mask k)
      ((s.performStores (ofLanes t j (maskOf ms)) 1).acquire tm.die t j (maskOf ms)).modSheaf t j fun h => h.modLanes ms Strand.go
    else s

def maskIdx : List Nat := List.range 12

def State.releaseMasks (s : State) (t j : Nat) : State := maskIdx.foldl (fun x k => x.releaseMask t j k) s

def Sheaf.used (sh : Sheaf) : List Nat := allLanes.filter fun l => !sh.vacant l

def isWaiting : Run → Bool
  | .waiting _ => true
  | _ => false

/-- R93: every strand that is not vacant waits and no mask can be released. -/
def Sheaf.waitStuck (sh : Sheaf) : Bool :=
  !sh.used.isEmpty && (sh.used.all fun l => isWaiting (sh.strand l).run) && !(maskIdx.any fun k => sh.maskReady k)
    && sh.traps.isEmpty && sh.hold == .none

def State.waitDeadlock (s : State) (t j : Nat) : State :=
  s.modSheaf t j fun sh =>
    if sh.waitStuck then sh.raise sh.iss 0 (sh.used.map fun l => (l, Cause.waitDeadlock, 0)) else sh

/-! ### Roles and the borrow queue (R165 to R168) -/

/-- Units that one register of allotment costs: a paired team holds everything twice (R180). -/
def Team.copies (tm : Team) : Nat := if tm.st.mode == 2 then 2 else 1

def Stage.role? (st : Stage) (k : Nat) : Option RoleRow := st.roles.find? fun r => r.k == k

/-- R165: role 0's units over the team's sheaves. -/
def Team.reservation (tm : Team) : Nat :=
  tm.copies * tm.sheaves.length * (((tm.st.role? 0).getD {}).regs / 8)

def Team.held (tm : Team) : Nat := tm.copies * tm.sheaves.foldl (fun n sh => n + sh.allot / 8) 0

/-- The reservation and what is borrowed beyond it. -/
def Team.unitsUsed (tm : Team) : Nat := max tm.reservation tm.held

def State.teamsOn (s : State) (core : Nat) : List Team :=
  (s.teams.filter fun (e : Nat × Team) => e.2.core == core).map Prod.snd

/-- R165. -/
def State.freePool (s : State) (core : Nat) : Nat := 256 - (s.teamsOn core).foldl (fun n tm => n + tm.unitsUsed) 0

/-- The grant of R167: kept entries keep bits and tags, new ones are zero and precise; every lane goes on. -/
def Sheaf.setRole (sh : Sheaf) (r : RoleRow) (entry : Pc) : Sheaf :=
  let keep := min sh.allot r.regs
  { sh with
    vreg := sh.vreg.filter fun e => e.1 % 2048 < keep,
    poison := sh.poison.filter fun e => e.1 % 2048 < keep,
    allot := r.regs, role := r.k, cls := r.cls, entry := entry }.modLanes allLanes Strand.go

def Team.roleEntry (tm : Team) (r : RoleRow) : Pc := BitVec.ofNat 48 (tm.code + r.entry)

/-- Units that a request asks for beyond its sheaf's own. -/
def Team.growth (tm : Team) (j : Nat) (r : RoleRow) : Nat := tm.copies * ((r.regs - (tm.sheaf j).allot) / 8)

/-- Units of a growth that must be borrowed. -/
def Team.toBorrow (tm : Team) (j : Nat) (r : RoleRow) : Nat := tm.growth j r - (tm.reservation - tm.held)

/-- The grant, in a paired team for the sheaf and its shadow at once (R180). -/
def Team.grantRole (tm : Team) (j : Nat) (r : RoleRow) : Team :=
  let set (sh : Sheaf) : Sheaf := sh.setRole r (tm.roleEntry r)
  { (tm.modSheaf j set) with
    guarded := tm.guarded.map fun g => { g with shadows := g.shadows.modify j fun d => { d with sheaf := set d.sheaf } } }

def State.grantRole (s : State) (t j : Nat) (r : RoleRow) : State := s.modTeam t fun tm => tm.grantRole j r

/-- The head request of a core's queue leaves it, granted or void; none while the free pool does not hold its units (R168). -/
def State.grantHead (s : State) (core : Nat) : Option State :=
  match (s.core core).borrow with
  | [] => none
  | (t, j, k) :: rest =>
    let drop (x : State) : State := x.modCore core fun q => { q with borrow := rest }
    match s.team? t with
    | none => some (drop s)
    | some tm =>
      match tm.st.role? k with
      | none => some (drop s)
      | some r => if tm.toBorrow j r ≤ s.freePool core then some ((drop s).grantRole t j r) else none

def serveHeads (core : Nat) : Nat → State → State
  | 0, s => s
  | n + 1, s =>
    match s.grantHead core with
    | some s1 => serveHeads core n s1
    | none => s

/-- Units that have been freed go to the head requests in the same cycle (R168). -/
def State.serveBorrow (s : State) (core : Nat) : State := serveHeads core (s.core core).borrow.length s

/-! ### Commits and rollbacks (R176, R179, R181, R182) -/

/-- An engine write of the share to another package leaves as a message (R177, R372). -/
def State.sendWrite (s : State) (tm : Team) (pa : Nat) (bs : List Byte) : State :=
  match s.window? pa with
  | none => s
  | some w =>
    let tag := s.fabric.nextTag
    let m : Msg := { op := 7, srcPod := s.ownPod, srcDie := tm.die, tag := tag, key := w.2.1, vdev := w.2.2.1, va := w.2.2.2,
                     lo := bs.length, data := bs, clock := s.cover tm.die w.1 }
    let s1 := { s with fabric := { s.fabric with nextTag := tag + 1, copies := s.fabric.copies ++ [(tag, tm.key, 0, 2, pa)] } }
    (s1.post w.1 false m).modTeam tm.key fun x =>
      { x with remoteOut := x.remoteOut ++ [tag] }

/-- The bits type of a number of bytes. -/
def bitsType (n : Nat) : Ty := if n = 1 then .n8 else if n = 2 then .n16 else if n = 4 then .n32 else .n64

/-- Perform one entry of a share: a write of memory, of another package's, or a request to the home of a staged line (R177). -/
def State.performEntry (tm : Team) (s : State) (e : ShareEntry) : State :=
  if isFabric e.pa then s.sendWrite tm e.pa e.bytes
  else if s.preciseCellar e.pa && ((s.die (ownerOf e.pa)).metas.val (lineOf e.pa) {}).stg then
    { s with ids := s.ids + 1 }.send
      { id := s.ids, kind := .store, src := .job tm.key 0, pa := e.pa, grade := e.grade, staged := true,
        ty := bitsType e.bytes.length, trans := 15, e := BitVec.ofNat 64 (bytesNat e.bytes), die := tm.die,
        clock := (s.die tm.die).clock, launch := tm.launch }
  else s.perform tm.die { pa := e.pa, bytes := e.bytes, width := if e.grade == 8 then 0 else e.width, sheaf := e.sheaf, lanes := e.lanes }

/-- Lines that an engine's entries replace whole: their poison leaves (R313). -/
def wholeLines (es : List ShareEntry) : List Nat :=
  let mine := es.filter fun e => e.lanes == 0
  ((mine.map fun e => lineOf e.pa).dedup).filter fun l =>
    (List.range 128).all fun k => mine.any fun e => e.pa ≤ l + k && l + k < e.pa + e.bytes.length

/-- Perform a guarded team's share to memory, oldest entry first, and stamp it: every access after the commit comes after its
stores, at any die (R176, R388). -/
def State.performShare (s : State) (t : Nat) : State :=
  match s.team? t with
  | none => s
  | some tm =>
    let es := tm.guarded.elim [] fun g => g.share
    let s1 := es.foldl (State.performEntry tm) s
    let s2 := (wholeLines es).foldl (fun (x : State) l => x.modDie (ownerOf l) fun d =>
      { d with poison := d.poison.filter fun e => e.1 < l || l + 128 ≤ e.1 }) s1
    (s2.stampThrough tm.die fun w => tm.shareWrites.contains { w with no := 0 }).modTeam t
      fun x => { x with guarded := x.guarded.map fun g => { g with share := [] } }

/-- Every shadow has issued what its leader has (R180). -/
def Team.shadowsDone (tm : Team) : Bool := tm.guarded.elim true fun g => g.shadows.all fun d => d.stream.isEmpty

/-- Fresh shadow sheaves: copies of their leaders (R180). -/
def Team.newShadows (tm : Team) (shs : List Sheaf) : List Shadow :=
  if tm.st.mode == 2 then shs.map fun sh => { sheaf := sh.mirror, last := sh.strands } else []

/-- Copy the team's sheaves, latches and bins into the shadow banks and clear the undo log. A paired team's shadow sheaves go on
with what they hold. -/
def Team.checkpoint (tm : Team) : Team :=
  let shs := if tm.st.mode == 2 then tm.sheaves.map fun sh => { sh with given := [], told := [] } else tm.sheaves
  { tm with
    sheaves := shs,
    guarded := tm.guarded.map fun g =>
      { g with
        sheaves := shs, matrix := tm.matrix, undo := [], share := [], rollbacks := 0, mismatch := none, committing := false,
        shadows := if g.shadows.isEmpty then tm.newShadows shs
                   else List.zipWith (fun d sh => { d with sheaf := d.caughtUp sh, last := sh.strands, stores := [] }) g.shadows tm.sheaves } }

/-- A lane parked on something that has gone on since the checkpoint stands at its instruction again; one at a barrier stays. -/
def Strand.again (st : Strand) : Strand :=
  match st.run with
  | .parked 2 => st
  | .parked _ => { st with run := .active, park := .nothing }
  | _ => st

/-- A sheaf as its shadow bank gives it back; its own issue count and its counts of H causes go on. Its allotment is the
checkpoint's even where units that it has given back since then are in use elsewhere: no rule says otherwise, and the core's sum
may then pass 256 (DESIGN CHOICE, log entry 49). A forced commit that had been taken for its instruction is taken anew (R178). -/
def Sheaf.restored (cp now : Sheaf) : Sheaf :=
  { cp with iss := now.iss, pend := [], traps := [], hold := .none, marked := false, nextAt := 0,
            lastV := now.lastV, lastM := now.lastM, readyV := 0, readyM := 0, record := [], sCause := 0,
            spills := now.spills, mismatches := now.mismatches, given := [], told := [], safeAt := 0, heldAt := 0, cleared := false,
            strands := cp.strands.map Strand.again }

/-- R179: results and share are discarded, larder lines, sheaves, latches and bins come back from the checkpoint. Registrations
stay (R253), and items that a refill has drawn since the checkpoint are not given back: no rule says that they are (DESIGN
CHOICE, log entry 49). -/
def Team.rollback (tm : Team) : Team :=
  match tm.guarded with
  | none => tm
  | some g =>
    let lines := g.undo.foldl (fun (x : Team) e =>
      { (x.setLarder e.1 e.2.1) with larderW := x.larderW.store 32 e.1 e.2.2 }) tm
    let shs := List.zipWith Sheaf.restored g.sheaves tm.sheaves
    { lines with
      sheaves := shs,
      matrix := { g.matrix with nextId := tm.matrix.nextId },
      jobWait := [],
      guarded := some { g with undo := [], share := [], rollbacks := g.rollbacks + 1, mismatch := none, committing := false,
                               shadows := tm.newShadows shs } }

/-- A request of one of a team's lanes. -/
def ReqSrc.ofLanes (r : ReqSrc) (t : Nat) : Bool :=
  match r with
  | .lane t' _ _ _ => t' == t
  | .uniform t' _ _ _ => t' == t
  | _ => false

/-- A rollback leaves nothing of what the team's lanes have asked of homes, other packages, combine contexts, walks, the borrow
queue and the chain arbiter: no answer reaches the restored sheaves (R179). A request that a home has performed stays performed
(R280). -/
def State.dropAsked (s : State) (t : Nat) : State :=
  let mine (r : Req) : Bool := r.src.ofLanes t || (r.kind == .registration && match r.src with
    | .job t' _ => t' == t
    | _ => false)
  let keep (l : List Req) : List Req := l.filter fun r => !mine r
  let keepC (l : List Contrib) : List Contrib := l.filter fun c => !c.src.ofLanes t
  let s1 := ((s.fabric.waits.filter fun w => w.2.src.ofLanes t).foldl (fun (x : State) w => x.closeRemote w.1) s).withdrawContribs fun c =>
    c.src.ofLanes t
  { s1 with
    sending := keep s1.sending,
    stores := s1.stores.filter fun x => !(x.2.isMark && ofTeam t x.2),
    loads := s1.loads.filter fun l => l.t != t,
    cores := s1.cores.map fun (e : Nat × Core) => (e.1, { e.2 with borrow := e.2.borrow.filter fun b => b.1 != t }),
    clusters := s1.clusters.map fun (e : Nat × Cluster) =>
      (e.1, { e.2 with
        queue := keep e.2.queue, overflow := keep e.2.overflow,
        chains := (e.2.chains.map fun g => { g with members := g.members.filter fun m => m.2.1 != t }).filter fun g =>
          !g.members.isEmpty }),
    dies := s1.dies.map fun (e : Nat × Die) =>
      (e.1, { e.2 with
        parkq := (e.2.parkq.map fun (q : Nat × List Req) => (q.1, keep q.2)).filter (fun q => !q.2.isEmpty),
        ctxs := e.2.ctxs.map (fun (x : Nat × Ctx) => (x.1, { x.2 with waiters := x.2.waiters.filter fun w => w.1 != t })),
        walks := e.2.walks.map (fun w => { w with lanes := w.lanes.filter fun x => x.1 != t }),
        poolQ := keepC e.2.poolQ,
        granted := keepC e.2.granted }) }

/-- A killed team counts in KILLED of its launch, and the first cause is kept (R111, R343). -/
def State.countKilled (s : State) (launch cause : Nat) : State :=
  s.modLaunch launch fun l => { l with killed := l.killed + 1, cause := if l.cause == 0 then cause else l.cause }

/-- A team whose cause goes to the service without a record of its own instruction: its first sheaf that is not finished
stops with the cause in every lane in use. A team with none left ends with the cause. -/
def State.raiseTeam (s : State) (t cause : Nat) : State :=
  match s.team? t with
  | none => s
  | some tm =>
    match (List.range tm.sheaves.length).find? fun j => !(tm.sheaf j).finished with
    | none =>
      if tm.killed then s
      else (s.modTeam t fun x => { x with killed := true, guarded := x.guarded.map fun g => { g with share := [] } }).countKilled
        tm.launch cause
    | some j => s.modSheaf t j fun sh =>
        { sh with pend := [] }.raise sh.iss 0 (sh.used.map fun l => (l, cause, 0))

/-- An uncorrectable error of a shadow bank or of a release-buffer entry is logged, and the team ends (R183, R316). Which word holds
it the state does not keep: the record's offset is 0. -/
def State.backingError (s : State) (t : Nat) (tm : Team) : State :=
  (s.sramEvent tm.die false (srcCore tm.core) 5 0 tm.vdev).raiseTeam t Cause.uncorrectable

/-- A rollback, or rollback-limit in place of a fifth one with no commit between (R179). Shadows that are not sound leave
no rollback (R183). Units that it frees, and room at the head of the borrow queue, are granted at once (R168). -/
def State.rollbackTeam (s : State) (t : Nat) : State :=
  match s.team? t with
  | none => s
  | some tm =>
    match tm.guarded with
    | none => s
    | some g =>
      if !g.backed then s.backingError t tm
      else if g.rollbacks ≥ 4 then s.raiseTeam t Cause.rollbackLimit
      else ((s.dropAsked t).modTeam t Team.rollback).serveBorrow tm.core

/-! ### Shadow sheaves (R180) -/

/-- The translations that an access of a core can meet. -/
def State.translations (s : State) (core vdev : Nat) : List Mapping :=
  (s.core core).tlb ++ (s.cluster (clusterOfCore core)).tlb ++ (s.die (dieOfCore core)).tlb ++
    s.pages.filter fun m => m.vdev == vdev && !m.migrating

/-- A state in which a shadow stands in its leader's place, with its own stores as the share, under the leader's translations. -/
def State.asShadow (s : State) (t j : Nat) (d : Shadow) (maps : List Mapping) : State :=
  match s.team? t with
  | none => s
  | some tm =>
    let sh := { d.sheaf with hold := .none, cleared := true, traps := [] }
    let s1 := s.modTeam t fun x => { (x.modSheaf j fun _ => sh) with guarded := x.guarded.map fun g => { g with share := d.stores } }
    let s2 := { s1 with pages := [], cur := some { team := t, sheaf := j } }
    ((s2.modCore tm.core fun c => { c with tlb := maps }).modCluster (clusterOfCore tm.core) fun k => { k with tlb := [] }).modDie
      tm.die fun x => { x with tlb := [] }

/-- What the shadow is after acting in its leader's place: its causes are the leader's to raise. -/
def Shadow.back (d : Shadow) (x : State) (t j : Nat) : Shadow :=
  match x.team? t with
  | none => d
  | some tm => { d with sheaf := { (tm.sheaf j) with traps := [], hold := .none }, stores := tm.guarded.elim d.stores fun g => g.share }

def Team.modShadow (tm : Team) (j : Nat) (f : Shadow → Shadow) : Team :=
  { tm with guarded := tm.guarded.map fun g => { g with shadows := g.shadows.modify j f } }

def Team.shadow? (tm : Team) (j : Nat) : Option Shadow := tm.guarded.bind fun g => g.shadows[j]?

/-- The shadow of sheaf j does what its leader does outside an issue, caught up with it. -/
def State.shadowToo (s : State) (t j : Nat) (f : State → State) : State :=
  match (s.team? t).bind fun tm => (tm.shadow? j).map fun d => (tm, d) with
  | none => s
  | some (tm, d0) =>
    let d := { d0 with sheaf := d0.caughtUp (tm.sheaf j), last := (tm.sheaf j).strands }
    let y := f (s.asShadow t j d (s.translations tm.core tm.vdev))
    s.modTeam t fun x => (x.modShadow j fun _ => d.back y t j).modSheaf j fun sh => { sh with given := [], told := [] }

/-! What a paired team compares (R181): precise values only (R55, R182). -/

/-- The predicates that are precise, with the tags of all. -/
def Strand.precisePreds (st : Strand) : BitVec 32 := st.pw &&& ~~~((st.pw >>> 16) &&& 0x7FFF)

def Strand.differs (a b : Strand) : Bool :=
  a.pc != b.pc || a.depth != b.depth || a.precisePreds != b.precisePreds || a.flags != b.flags

def ShareEntry.differs (a b : ShareEntry) : Bool :=
  a.pa != b.pa || a.width != b.width || a.tag != b.tag || (!a.tag && a.bytes != b.bytes)

def storesDiffer : List ShareEntry → List ShareEntry → Bool
  | [], [] => false
  | a :: r, b :: q => a.differs b || storesDiffer r q
  | _, _ => true

/-- The rows of some precise bin differ from its shadow's. -/
def Matrix.differs (m : Matrix) : Bool :=
  (List.range 16).any fun z => !m.binTag.getLsbD z &&
    (m.bins.filter fun e => e.1 / 4096 == z) != (m.shadow.filter fun e => e.1 / 4096 == z)

/-- A leader and its shadow differ. -/
def Team.sheafDiffers (tm : Team) (g : Guarded) (j : Nat) (d : Shadow) : Bool :=
  let c := d.caughtUp (tm.sheaf j)
  (allLanes.any fun l => ((tm.sheaf j).strand l).differs (c.strand l)) ||
  storesDiffer (g.share.filter fun e => e.sheaf == sheafId tm.key j && e.lanes != 0) d.stores

/-- The sheaves whose comparison differs; a difference of the bins is counted for sheaf 0 (DESIGN CHOICE, log entry 46). -/
def Team.differing (tm : Team) (g : Guarded) : List Nat :=
  (((g.shadows.zipIdx.filter fun (x : Shadow × Nat) => tm.sheafDiffers g x.2 x.1).map Prod.snd) ++ g.mismatch.toList ++
    (if tm.matrix.differs then [0] else [])).dedup

/-- paired-mismatch: each sheaf's count and the core's, and a rollback (R112, R182). -/
def State.mismatch (s : State) (t : Nat) (js : List Nat) : State :=
  match s.team? t with
  | none => s
  | some tm =>
    ((s.modTeam t fun x => js.foldl (fun (y : Team) j => y.modSheaf j fun sh => { sh with mismatches := sh.mismatches + 1 }) x).record
      tm.die { kind := LogKind.pairedMismatch, src := srcCore tm.core, vdev := tm.vdev }).rollbackTeam t

/-- A difference that the sequencer has met rolls the team back at once (R197). -/
def State.checkMismatch (s : State) (t : Nat) : State :=
  match (s.team? t).bind Team.guarded with
  | none => s
  | some g => g.mismatch.elim s fun j => s.mismatch t [j]

/-- A cause that rolls the team back is pending in some sheaf: it wins over a commit (R179). -/
def Team.consumed (tm : Team) : Bool :=
  tm.guarded.isSome && tm.sheaves.any fun sh => sh.traps.any fun t => t.causes.any fun c => c.2.1 == Cause.uncorrectable

/-- A store of the team's share has not been performed: a request to the home of a staged line, or a message (R176, R177). -/
def State.shareOut (s : State) (t : Nat) : Bool :=
  (s.outstanding.any fun r => r.kind == .store && r.src == .job t 0) || s.fabric.copies.any fun c => c.2.1 == t && c.2.2.1 == 0

/-- A decision ends: every lane resumes. -/
def Team.undecide (tm : Team) : Team :=
  { tm with preempt := .none, saveAsk := none, sheaves := tm.sheaves.map fun sh => { sh with safeAt := 0 } }

/-- A commit (R176): a paired team's difference is found at its comparison and rolls it back (R181, R182); else the share is
performed, and only when all of it has been do the lanes go on, as `go` says, in the state that the checkpoint copies. -/
def State.commitThen (s : State) (t : Nat) (go : Team → Team) : State :=
  match (s.team? t).bind fun tm => tm.guarded.map fun g => (tm, g) with
  | none => s
  | some (tm, g) =>
    let done (y : Team) : Team := (if y.preempt == .none then (go y).undecide else go y).checkpoint
    let step (x : State) : State := if x.shareOut t then x else x.modTeam t done
    if g.committing then step s
    else
      let js := if tm.st.mode == 2 then tm.differing g else []
      if tm.consumed then s
      else if !g.backed then s.backingError t tm
      else if !js.isEmpty then s.mismatch t js
      else step ((s.performShare t).modTeam t fun y => { y with guarded := y.guarded.map fun q => { q with committing := true } })

def State.commit (s : State) (t : Nat) : State := s.commitThen t id

/-- The commit that a team has begun is not complete. -/
def Team.committing (tm : Team) : Bool := tm.guarded.elim false fun g => g.committing

/-! ### Barriers (R170, R171) -/

/-- A sheaf has arrived at BAR (`none`) or at BARX with a mask. -/
def Sheaf.arrived (sh : Sheaf) (m : Option Nat) : Bool :=
  sh.finished ||
    (!sh.used.isEmpty && sh.used.all fun l =>
      (sh.strand l).run == .parked 2 && (sh.strand l).park == .barrier m)

def Sheaf.inBarrier (sh : Sheaf) : Bool :=
  !sh.used.isEmpty && sh.used.all fun l => (sh.strand l).run == .parked 2

def Team.sheafIdx (tm : Team) : List Nat := List.range tm.sheaves.length

/-- The sheaves that a barrier joins. -/
def Team.barrierSet (tm : Team) (m : Option Nat) : List Nat :=
  match m with
  | none => tm.sheafIdx
  | some k => tm.sheafIdx.filter fun j => k.testBit j

/-- The barrier's condition (R170): every sheaf that it joins has arrived. -/
def Team.barrierMet (tm : Team) (m : Option Nat) : Bool :=
  (tm.barrierSet m).all (fun j => (tm.sheaf j).arrived m) && ((tm.barrierSet m).any fun j => !(tm.sheaf j).finished)

/-- A guarded team's BAR is a commit: it waits for the sequencer queue, for its shadows, and for a rollback that is due (R176,
R179, R181, R197). -/
def Team.mayCommit (tm : Team) : Bool := tm.matrix.queue.isEmpty && tm.shadowsDone && !tm.consumed

def Team.barrierReady (tm : Team) (m : Option Nat) : Bool :=
  tm.barrierMet m && (m.isSome || tm.guarded.isNone || tm.mayCommit)

/-- Lanes parked at this barrier go on at PC + 8. -/
def Sheaf.leaveBarrier (sh : Sheaf) (m : Option Nat) : Sheaf :=
  sh.modLanes (sh.used.filter fun l => (sh.strand l).park == .barrier m) Strand.go

/-- A completing barrier: release and acquire among its sheaves; BAR commits a guarded team, whose lanes go on when its share has
been performed. -/
def State.completeBarrier (s : State) (t : Nat) (m : Option Nat) : State :=
  match s.team? t with
  | none => s
  | some tm =>
    if !tm.barrierReady m then s
    else
      let js := tm.barrierSet m
      let leave (x : Team) : Team := js.foldl (fun y j => y.modSheaf j fun sh => sh.leaveBarrier m) x
      let s0 := s.performStores (ofSheaves t js) 2
      let s1 := js.foldl (fun (x : State) j => x.acquire tm.die t j (maskOf ((tm.sheaf j).used.filter fun l =>
        ((tm.sheaf j).strand l).park == .barrier m))) s0
      if m.isNone && tm.guarded.isSome then s1.commitThen t leave else s1.modTeam t leave

/-- The masks of the BARXs at which some sheaf stands. -/
def Team.barrierMasks (tm : Team) : List (Option Nat) :=
  (tm.sheaves.filterMap fun sh =>
    match sh.used with
    | [] => none
    | l :: _ => (match (sh.strand l).park with
                 | .barrier (some m) => some (some m)
                 | _ => none)).dedup

def State.barriers (s : State) (t : Nat) : State :=
  match s.team? t with
  | none => s
  | some tm => (none :: tm.barrierMasks).foldl (fun x m => x.completeBarrier t m) s

/-- Every sheaf that is not finished stands at a barrier and no completion holds: each takes wait-deadlock (R170). -/
def State.barrierDeadlock (s : State) (t : Nat) : State :=
  match s.team? t with
  | none => s
  | some tm =>
    let open_ := tm.sheafIdx.filter fun j => !(tm.sheaf j).finished
    if !((none :: tm.barrierMasks).any tm.barrierMet) && !open_.isEmpty && open_.all fun j => (tm.sheaf j).inBarrier && (tm.sheaf j).traps.isEmpty && (tm.sheaf j).hold == .none
    then open_.foldl (fun x j => x.modSheaf t j fun sh =>
      sh.raise sh.iss 0 (sh.used.map fun l => (l, Cause.waitDeadlock, 0))) s
    else s

/-! ### The approximate rail (R46, R172, R249, R392) -/

/-- Voltage of a grade and of a level, mV (R248). -/
def gradeMv (g : Nat) : Nat := [350, 330, 310, 290, 270, 250, 235, 220].getD g 220
def levelMv (l : Nat) : Nat := [300, 310, 320, 335, 350, 385, 420].getD l 420

/-- The lowest level that a precise floor admits (R249). -/
def lowestLevel (floor : Nat) : Nat := ((List.range 7).find? fun l => levelMv l ≥ floor).getD 6

/-- The least precise grade that an approximate floor admits (R249). -/
def lowestGrade (floor : Nat) : Nat := ([7, 6, 5, 4, 3, 2, 1, 0].find? fun g => gradeMv g ≥ floor).getD 0

def State.residents (s : State) (k : Nat) : List Team :=
  (s.teams.filter fun (e : Nat × Team) => clusterOfCore e.2.core == k).map Prod.snd

/-- Teams that have been placed on a cluster: one whose placement or restore waits for the rail is not there yet (R253). -/
def State.placedOn (s : State) (k : Nat) : List Team := (s.residents k).filter fun tm => !tm.waitsRail

/-- The effective grade of a cluster: the most precise requested by a resident team, 8 when none requests one (R46). -/
def State.effectiveGrade (s : State) (k : Nat) : Nat := (s.placedOn k).foldl (fun b tm => min b tm.grade) 8

/-- The grade that a team needs of the rail: its requested one, and its larder's storage grade (R172, R253). -/
def Team.railNeed (tm : Team) : Nat := if tm.st.larderA == 0 then tm.grade else min tm.grade tm.st.lgrade

/-- What the rail must reach: what the residents need and the requests that wait for it, raised where the floor requires. -/
def State.railGrade (s : State) (k : Nat) : Nat :=
  let want := (s.residents k).foldl (fun b tm => tm.gradeReq.foldl (fun x r => min x r.1) (min b tm.railNeed)) 8
  min want (lowestGrade (s.cluster k).afloor)

/-- Mesh cycles that a rail needs to move by some mV at 50 mV per µs, and 20 ns more. -/
def railTime (a b : Nat) : Nat := 40 * ((a - b) + (b - a)) + 40

/-- Voltage of the approximate rail, mV. -/
def Cluster.railMv (c : Cluster) (now : Nat) : Nat :=
  let goal := gradeMv c.atarget
  let n := (now - c.amoveAt) / 40
  if c.afrom ≤ goal then min goal (c.afrom + n) else max goal (c.afrom - n)

/-- It has stood at its target for 20 ns. -/
def Cluster.railSettled (c : Cluster) (now : Nat) : Bool := decide (c.amoveAt + railTime c.afrom (gradeMv c.atarget) ≤ now)

/-- The voltage that counts as reached: that of the target once it stands there; before, what it stood at as the move began, and
no more than it has fallen to. -/
def Cluster.standing (c : Cluster) (now : Nat) : Nat :=
  if c.railSettled now then gradeMv c.atarget else min c.astand (c.railMv now)

/-- The rail has reached a grade or a more precise one. -/
def Cluster.serves (c : Cluster) (now g : Nat) : Bool := g ≥ 8 || decide (gradeMv g ≤ c.standing now)

/-- The rail begins to move, from where it is, when its target changes (R392). -/
def State.retarget (s : State) (k : Nat) : State :=
  let g := s.railGrade k
  s.modCluster k fun c =>
    if c.atarget = g then c
    else { c with atarget := g, amoveAt := s.time, afrom := c.railMv s.time, astand := c.standing s.time }

/-! ### The end of a team (R90, R111, R178, R346) -/

/-- The team ends as if every lane executed EXIT: its loads are discarded, what it issued completes (R103, R111). -/
def Sheaf.endAll (sh : Sheaf) : Sheaf :=
  { sh with strands := sh.strands.map fun _ => {}, pend := [], traps := [], hold := .none, masks := [],
            tmode := false, hmask := 0, finished := true }

/-- A request of a team's lane. -/
def ReqSrc.ofTeam (r : ReqSrc) (t : Nat) : Bool :=
  match r with
  | .lane t' _ _ _ => t' == t
  | _ => false

/-- What the lanes of an ended team were parked on is withdrawn: requests at homes, slots, pool requests and grants
(R395). -/
def State.dropParked (s : State) (t : Nat) : State :=
  let keep (l : List Req) : List Req := l.filter fun r =>
    !(r.src.ofTeam t && (r.kind == .ldt || r.kind == .stt || r.kind == .xtr))
  let keepC (l : List Contrib) : List Contrib := l.filter fun c => !c.src.ofTeam t
  let s1 := s.withdrawContribs fun c => c.src.ofTeam t
  { s1 with
    sending := keep s1.sending,
    clusters := s1.clusters.map fun (e : Nat × Cluster) =>
      (e.1, { e.2 with queue := keep e.2.queue, overflow := keep e.2.overflow }),
    dies := s1.dies.map fun (e : Nat × Die) =>
      (e.1, { e.2 with
        parkq := (e.2.parkq.map fun (q : Nat × List Req) => (q.1, keep q.2)).filter (fun q => !q.2.isEmpty),
        ctxs := e.2.ctxs.map (fun (x : Nat × Ctx) => (x.1, { x.2 with waiters := x.2.waiters.filter fun w => w.1 != t })),
        poolQ := keepC e.2.poolQ,
        granted := keepC e.2.granted }) }

def State.killTeam (s : State) (t cause : Nat) : State :=
  match s.team? t with
  | none => s
  | some tm =>
    if tm.killed then s
    else
      let s1 := (s.dropParked t).modCore tm.core fun c => { c with borrow := c.borrow.filter fun b => b.1 != t }
      ((s1.serveBorrow tm.core).modTeam t fun x => { x with sheaves := x.sheaves.map Sheaf.endAll, killed := true }).countKilled
        tm.launch cause

def Team.allFinished (tm : Team) : Bool := tm.sheaves.all fun sh => sh.finished

/-- A job neither waits nor runs, and has made its arrival, which its home may still hold (R219, R221). -/
def Job.settled (j : Job) : Bool := j.state ≥ 2 && (j.so.isNone || j.asked)

/-- Nothing of the team is left to do (R346, R362). -/
def Team.over (tm : Team) : Bool :=
  tm.allFinished && (tm.killed || !tm.committing) && tm.matrix.queue.isEmpty && (tm.killed || tm.shadowsDone) && tm.jobs.all Job.settled

/-- The SAVECTX that waits for a team's capture: it decided the pre-emption, or waits with a resize's (R357, R361). -/
def Team.savectx (tm : Team) : Option SaveAsk :=
  match tm.preempt with
  | .decided since 3 record (t, j, seq) => some { since := since, record := record, t := t, j := j, seq := seq }
  | .decided _ 2 _ _ => tm.saveAsk
  | _ => none

/-- A SAVECTX's awaited result takes a status (R357). -/
def State.savectxStatus (s : State) (a : Option SaveAsk) (st : Nat) : State :=
  match a with
  | some w => s.modSheaf w.t w.j fun sh => sh.modPend w.seq fun q =>
      { q with ready := true, writes := q.writes.map fun w => match w with
          | .u k m _ g => .u k m (BitVec.ofNat 64 st) g
          | x => x }
  | none => s

/-- Remove a team that is over: it counts in DONE unless it was killed, and its resources are free; a SAVECTX of it answers
4 (R357). -/
def State.reap (s : State) (t : Nat) : State :=
  match s.team? t with
  | none => s
  | some tm =>
    if !tm.over || s.shareOut t then s
    else
      let s1 := s.savectxStatus tm.savectx 4
      let s2 := { s1 with teams := s1.teams.del t }
      let s3 := s2.modCore tm.core fun c => { c with borrow := c.borrow.filter fun b => b.1 != t }
      let s4 := s3.modStage tm.launch tm.stage fun g => { g with ended := g.ended ++ [tm.lid] }
      let s5 := (s4.retarget (clusterOfCore tm.core)).serveBorrow tm.core
      if tm.killed then s5 else s5.modLaunch tm.launch fun l => { l with done := l.done + 1 }

/-- A guarded team's last sheaf to finish commits as it finishes (R178). A killed team ends as if every lane executed EXIT, so its
share is performed too; there is no comparison left that could roll it back (R361). -/
def State.finishCommit (s : State) (t : Nat) : State :=
  match s.team? t with
  | none => s
  | some tm =>
    if tm.guarded.isNone || !tm.allFinished then s
    else if tm.killed then s.performShare t
    else if tm.mayCommit then s.commit t else s

/-- What follows every change of run state in a team: mask releases, refills, wait-deadlock, barriers, and its end. -/
def State.settled (s : State) (t : Nat) : State :=
  match s.team? t with
  | none => s
  | some tm =>
    let s1 := tm.sheafIdx.foldl (fun x j => (x.releaseMasks t j).refillSheaf t j) s
    let s2 := tm.sheafIdx.foldl (fun x j => x.waitDeadlock t j) (s1.barriers t)
    ((s2.barrierDeadlock t).finishCommit t).reap t

/-- A lane whose wait or park ends goes on at PC + 8. -/
def State.wake (s : State) (t j l : Nat) : State := s.modSheaf t j fun sh => sh.modStrand l Strand.go

/-! ### Taking a trap (R107 to R115, R393) -/

/-- Larder offset of a sheaf's trap record (R109). -/
def Team.recordAt (tm : Team) (j : Nat) : Nat := tm.larderSize - 16384 + 1024 * j

/-- Each faulting lane with the first of its causes and its address. -/
def Sheaf.faulting (sh : Sheaf) : List (Nat × Nat × Nat) :=
  let all := sh.traps.flatMap fun t => t.causes
  allLanes.filterMap fun l => all.find? fun c => c.1 == l

/-- The code of a TRAP or BPT among the pending traps (R109). -/
def Sheaf.trapCode (sh : Sheaf) : Nat := sh.traps.foldl (fun n t => if n == 0 then t.code else n) 0

def zeros (n : Nat) : List Byte := List.replicate n 0

/-- A field of every lane, lane 0 first. -/
def perLane (sh : Sheaf) (n : Nat) (f : Nat → Strand → Nat) : List Byte :=
  allLanes.flatMap fun l => natBytes n (f l (sh.strand l))

/-- The trap record (R109). -/
def trapRecord (sh : Sheaf) (hmask : Lanes) (code : Nat) (causes : List (Nat × Nat × Nat)) : List Byte :=
  let of (l : Nat) : Nat × Nat := match causes.find? fun c => c.1 == l with
    | some c => (c.2.1, c.2.2)
    | none => (0, 0)
  natBytes 4 (maskOf (causes.map Prod.fst)).toNat ++ natBytes 4 hmask.toNat ++ natBytes 2 code ++ zeros 6
  ++ natBytes 8 (sh.u 63).bits.toNat ++ natBytes 1 (bit (sh.u 63).tag) ++ zeros 39
  ++ perLane sh 2 (fun l _ => (of l).1)
  ++ perLane sh 8 (fun _ st => st.pc.toNat)
  ++ perLane sh 8 (fun l _ => (of l).2)
  ++ perLane sh 1 (fun _ st => st.depth)
  ++ perLane sh 2 (fun _ st => st.base)
  ++ perLane sh 2 (fun _ st => st.floor)
  ++ perLane sh 1 (fun _ st => st.run.code)
  ++ perLane sh 4 (fun _ st => st.pw.toNat)
  ++ zeros 64

/-- The management service receives the trap: the record goes into its area and the sheaf stops issuing (R111, R396). -/
def Sheaf.toService (sh : Sheaf) (image : List Byte) (cause : Nat) (debug : Bool) : Sheaf :=
  { sh with traps := [], record := image, sCause := cause,
            hold := if cause == Cause.breakpoint && debug then .debug else .service }

/-- The lanes that enter the handler: active or yielded ones, and those named with a deadlock (R110). -/
def handlerLanes (sh : Sheaf) (causes : List (Nat × Nat × Nat)) : List Nat :=
  allLanes.filter fun l =>
    (sh.strand l).run == .active || (sh.strand l).run == .yielded ||
    causes.any fun c => c.1 == l && (c.2.1 == Cause.waitDeadlock || c.2.1 == Cause.roleDeadlock)

/-- Lanes named with a deadlock leave their wait or park (R110). -/
def leaveWaits (sh : Sheaf) (causes : List (Nat × Nat × Nat)) : Sheaf :=
  sh.modLanes ((causes.filter fun c => c.2.1 == Cause.waitDeadlock || c.2.1 == Cause.roleDeadlock).map Prod.fst)
    fun st => { st with run := .active, park := .nothing }

/-- Entry of the handler (R110): the record in the larder, TMODE, HMASK, and its lanes at the vector at DEPTH 0. None of
them stands at a safe point any more: they run forward like any others (R113). -/
def Team.enterHandler (tm : Team) (j vector : Nat) (code : Nat) (causes : List (Nat × Nat × Nat)) : Team :=
  let sh0 := tm.sheaf j
  let ls := handlerLanes sh0 causes
  let sh := leaveWaits sh0 causes
  let image := trapRecord sh (maskOf ls) code causes
  let v63 : Val := { bits := BitVec.ofNat 64 (tm.recordAt j) }
  let entered (st : Strand) : Strand :=
    { st with pc := BitVec.ofNat 48 vector, hdepth := st.depth, depth := 0, run := .active, park := .nothing }
  (tm.setLarder (tm.recordAt j) image).modSheaf j fun _ =>
    ({ (sh.modLanes ls entered) with
       traps := [], tmode := true, hmask := maskOf ls, safeAt := sh.safeAt &&& ~~~(maskOf ls), heldAt := sh.heldAt &&& ~~~(maskOf ls) }.setU 63 v63).tell (.uni 63 v63)

/-- The trap vector, when the stage gives one that is the address of a LAND (R108): an instruction stands at a multiple of 8. -/
def State.vector? (s : State) (tm : Team) : Option Nat :=
  match tm.st.trap with
  | none => none
  | some off => if off % 8 == 0 && (s.landCause tm.core tm.vdev (tm.code + off)).isNone then some (tm.code + off) else none

/-- Delivery of a sheaf's pending trap to its one destination (R107, R393): a double trap while TMODE is 1 (R114), a
rollback, the management service, or the trap vector. It waits for every outstanding result, but a rollback discards them
(R179). -/
def State.deliver (s : State) (t j : Nat) : State :=
  match s.team? t with
  | none => s
  | some tm =>
    let sh := tm.sheaf j
    let rolls := !sh.tmode && (tm.guarded.elim false fun g => g.backed && decide (g.rollbacks < 4)) && tm.consumed &&
      sh.traps.any fun x => x.causes.any fun c => c.2.1 == Cause.uncorrectable
    if rolls && !(sh.hold == .service || sh.hold == .debug) then (s.rollbackTeam t).settled t
    else if sh.traps.isEmpty || !sh.pend.isEmpty || !(sh.hold == .none || sh.hold == .commit) then s
    else
      let causes := sh.faulting
      let code := sh.trapCode
      let named (c : Nat) : Option Nat := (causes.find? fun x => Cause.toService x.2.1 tm.debug).map (fun x => x.2.1) <|> some c
      let service (cs : List (Nat × Nat × Nat)) (cause : Nat) : State :=
        s.modSheaf t j fun h => h.toService (trapRecord h 0 code cs) cause tm.debug
      let toS := causes.any fun x => Cause.toService x.2.1 tm.debug
      if sh.tmode then
        s.modSheaf t j fun h =>
          h.toService ((List.range 1024).map fun k => tm.larderByte (tm.recordAt j + k)) Cause.doubleTrap false
      else if tm.guarded.isSome && causes.any fun x => x.2.1 == Cause.uncorrectable then
        match tm.guarded with
        | some g =>
          if !g.backed then service causes Cause.uncorrectable
          else service (causes.map fun x => if x.2.1 == Cause.uncorrectable then (x.1, Cause.rollbackLimit, x.2.2) else x)
            Cause.rollbackLimit
        | none => s
      else if toS then service causes ((named 0).getD 0)
      else
        match s.vector? tm with
        | some v => (s.modTeam t fun x => x.enterHandler j v code causes).settled t
        | none => service (causes.map fun x => (x.1, Cause.trapVectorBad, x.2.2)) Cause.trapVectorBad

/-! ### Returning from a trap (R106, R116) -/

/-- A field of the trap record as it stands in the larder. -/
def Team.recordField (tm : Team) (j off n : Nat) : Nat :=
  bytesNat ((List.range n).map fun k => tm.larderByte (tm.recordAt j + off + k))

/-- The record restores a lane: PC, run state, DEPTH from the hidden copy, predicate word. -/
def Strand.fromRecord (st : Strand) (pc run pword : Nat) : Strand :=
  { st with pc := BitVec.ofNat 48 pc, run := if run / 16 % 8 == 2 then .yielded else .active, depth := st.hdepth,
            pword := (BitVec.ofNat 32 pword ||| 0x8000) &&& 0x7FFFFFFF }

/-- What TRET refuses of a lane: a DEPTH other than 0, a recorded PC with bits 63:48 or 2:0, a run state that is neither
active nor yielded, a reserved RUN bit. -/
def badReturn (st : Strand) (pc run : Nat) : Bool :=
  st.depth != 0 || pc ≥ 2 ^ 48 || pc % 8 != 0 || !(run / 16 == 1 || run / 16 == 2)

/-- Lanes of HMASK that have not exited; one that exited and holds a new strand, by SPAWN or REFILL of the handler, is among
them again (DESIGN CHOICE, log entry 14). -/
def Sheaf.handlers (sh : Sheaf) : List Nat := (lanesOf sh.hmask).filter fun l => !sh.vacant l

/-- The record's values for a lane. -/
def Team.laneRecord (tm : Team) (j l : Nat) : Nat × Nat × Nat :=
  (tm.recordField j (0x80 + 8 * l) 8, tm.recordField j (0x320 + l) 1, tm.recordField j (0x340 + 4 * l) 4)

/-- Return from the handler, or none where it is a double trap. The limits of R116 are held to the record's fields of the lanes that
it restores: the bytes of a lane outside HMASK, or of one that has exited, are not read (DESIGN CHOICE, log entry 14). What it
restores are later-issued writes than any result still outstanding (R62). -/
def Team.leaveHandler (tm : Team) (j : Nat) : Option Team :=
  let sh := tm.sheaf j
  let ls := sh.handlers
  let v63 : Val := { bits := BitVec.ofNat 64 (tm.recordField j 0x10 8), tag := tm.recordField j 0x18 1 % 2 == 1 }
  if ls.any fun l => let r := tm.laneRecord j l; badReturn (sh.strand l) r.1 r.2.1 then none
  else
    let preds : List Wr := ls.flatMap fun l =>
      let w := (BitVec.ofNat 32 (tm.laneRecord j l).2.2)
      (List.range 15).map fun k => Wr.p l k (some (w.getLsbD k)) (some (w.getLsbD (16 + k)))
    some (tm.modSheaf j fun _ =>
      (({ (ls.foldl (fun (h : Sheaf) l =>
            let r := tm.laneRecord j l
            h.modStrand l fun st => st.fromRecord r.1 r.2.1 r.2.2) sh) with
        tmode := false, hmask := 0, safeAt := sh.safeAt &&& ~~~(maskOf ls) }.writeNow
          (preds ++ [Wr.u 63 (BitVec.allOnes 64) v63.bits (some v63.tag)])).tell (.uni 63 v63)))

end Sys2Proof.Machine
end

