-- ==== Sys2Proof/Machine/Control.lean ====
section
/-! DEFINITION. The control instructions (R95 to R106), the window shift of calls and returns (R83 to R86, R391), and the
delivery of a trap as an event (R107). -/

namespace Sys2Proof.Machine

/-! ### The frame of this chapter's instructions (R95) -/

/-- Lanes that act: guard true and precise. -/
def Iss.acts (i : Iss) : List Nat := i.on.filter fun l => !i.aG.contains l

/-- A guard tagged A raises a-branch in every lane of the batch that holds it (R57, R95). -/
def Iss.branchSinks (i : Iss) : List (Nat × Nat × Nat) := i.aG.map fun l => (l, Cause.aBranch, 0)

/-- Further causes of this issue. -/
def Iss.raise (i : Iss) (code : Nat) (fs : List (Nat × Nat × Nat)) (s : State) : State :=
  s.modSheaf i.t i.j fun sh => sh.raise i.seq code fs

/-- Change acting lanes' strands. -/
def Iss.lanes (i : Iss) (ls : List Nat) (f : Strand → Strand) (s : State) : State :=
  s.modSheaf i.t i.j fun sh => sh.modLanes ls f

/-- What a control instruction does: the sinks first, then the entry's check over the whole batch, then every lane not named by
a trap at PC + 8, and `run` for the acting lanes. -/
def controlRun (bad : Iss → Option Nat) (run : Iss → State → State) (i : Iss) (s : State) : State :=
  match bad i with
  | some cause =>
    i.raise 0 (i.branchSinks ++
      (i.batch.filter fun l => !i.aG.contains l).map fun l => (l, cause, 0)) s
  | none => run i (i.finish none i.branchSinks s)

def control (c : Ctl) (s : State) (range bad : Iss → Option Nat) (run : Iss → State → State) : Out :=
  issue c s range (controlRun bad run)

def ok1 : Iss → Option Nat := fun _ => none

/-! ### Branches -/

def execNop (c : Ctl) (_o : OpN) (s : State) : Out := issue c s ok1 fun i s1 => i.finish none [] s1

def execLand (c : Ctl) (_o : OpN) (s : State) : Out := issue c s ok1 fun i s1 => i.finish none [] s1

/-- (PC + 8 × off) mod 2^48, off a signed 36-bit word offset (R97). -/
def branchTarget (pc : Pc) (off : Nat) : Pc := pc + 8 * ((BitVec.ofNat 36 off).signExtend 48)

def Strand.jump (st : Strand) (y : Bool) (tgt : Pc) : Strand :=
  { st with pc := tgt, run := if y then .yielded else .active }

def execBra (c : Ctl) (o : OpB) (s : State) : Out :=
  control c s ok1 ok1 fun i s1 => i.lanes i.acts (fun st => st.jump o.y (branchTarget i.pc o.off)) s1

/-- The checks of R98 on one lane's target. -/
def targetCause (i : Iss) (s : State) (callx : Bool) (r l : Nat) : Option Nat :=
  let v := i.sh.v l r
  if i.poisoned l [r] then some Cause.uncorrectable
  else if v.tag then some Cause.aTarget
  else if callx && (i.sh.strand l).depth ≥ 255 then some Cause.depthOverflow
  else if v.bits.toNat % 8 != 0 then some Cause.targetMisaligned
  else s.landCause i.core i.tm.vdev v.bits.toNat

/-- A lane whose target is refused keeps its PC at the instruction. -/
def Iss.targetFault (i : Iss) (r l cause : Nat) (s : State) : State :=
  let f := [(l, cause, (i.sh.v l r).bits.toNat)]
  i.raise 0 f (i.lanes [l] (fun st => { st with pc := i.pc }) ((i.reads [r]).logErrors f s))

def targetRange (r : Nat) (i : Iss) : Option Nat := if r ≥ i.sh.w then some Cause.registerRange else none

/-- BRX: each lane on its own. -/
def execBrx (c : Ctl) (o : OpJ) (s : State) : Out :=
  control c s (targetRange o.target) ok1 fun i s1 =>
    i.acts.foldl (fun x l =>
      let tgt := (i.sh.v l o.target).bits
      match targetCause i s false o.target l with
      | some cause => i.targetFault o.target l cause x
      | none => i.lanes [l] (fun st => st.jump o.y (tgt.setWidth 48)) x) s1

/-! ### The register window (R83 to R86) -/

/-- How one lane's access to its spill area ends. -/
inductive Spilled where
  | ok
  | park (va : Nat)
  | fault (cause va : Nat)
deriving DecidableEq, Repr

/-- Address of unwrapped entry `e` of a lane's spill area (R84). -/
def spillVa (tm : Team) (j l e : Nat) : Nat := tm.spill + 16384 * (32 * j + l) + 8 * e

/-- Address of the byte that holds the entry's tag (R84). -/
def spillTagVa (tm : Team) (j l e : Nat) : Nat := tm.spill + 16384 * (32 * j + l) + 15872 + e / 8

/-- A global access of the core's own to a spill area (R391): rows 2 to 4 of R153. `refused` is the page that the service
refused the strand as it came to the instruction. -/
def State.spillAccess (s : State) (tm : Team) (refused : Option Nat) (r w : Bool) (va : Nat) : Access :=
  s.access tm.core tm.vdev refused r w false 1 va

/-- Spill one entry, bits and tag. An entry whose ECC is uncorrectable is not written: its lane traps (R183). -/
def State.spillEntry (s : State) (refused : Option Nat) (t j l e : Nat) : State × Spilled :=
  match s.team? t with
  | none => (s, .ok)
  | some tm =>
    let va := spillVa tm j l e
    let ta := spillTagVa tm j l e
    let sh := tm.sheaf j
    let k := l * 2048 + e % sh.allot
    if sh.poison.has k then
      (s.sramEvent (dieOfCore tm.core) false (srcCore tm.core) 0 k tm.vdev, .fault Cause.uncorrectable 0)
    else
    match s.spillAccess tm refused false true va, s.spillAccess tm refused false true ta with
    | .ok m pa, .ok m' ta' =>
      let v := sh.entryVal l (e % sh.allot)
      let old := (s.byteAt tm.die (s.ownWrites tm j (laneBit l)) ta').toNat
      let b := old - (if old / 2 ^ (e % 8) % 2 = 1 then 2 ^ (e % 8) else 0) + (if v.tag then 2 ^ (e % 8) else 0)
      let s1 := s.storeGlobal tm j (laneBit l) pa (natBytes 8 v.bits.toNat) 64 m.grade v.tag
      ((s1.storeGlobal ((s1.team? t).getD tm) j (laneBit l) ta' (natBytes 1 b) 8 m'.grade).fill tm.core m, .ok)
    | .park, _ => (s, .park va)
    | _, .park => (s, .park ta)
    | .fault c, _ => (s, .fault c va)
    | _, .fault c => (s, .fault c ta)

/-- Spill entries in ascending order until one cannot be written. -/
def State.spill (s : State) (refused : Option Nat) (t j l : Nat) : List Nat → State × Spilled
  | [] => (s, .ok)
  | e :: r =>
    match s.spillEntry refused t j l e with
    | (s1, .ok) => s1.spill refused t j l r
    | x => x

/-- Restore one entry from the spill area (R86). -/
def State.fillEntry (s : State) (refused : Option Nat) (t j l e : Nat) : State × Spilled :=
  match s.team? t with
  | none => (s, .ok)
  | some tm =>
    let va := spillVa tm j l e
    let ta := spillTagVa tm j l e
    match s.spillAccess tm refused true false va, s.spillAccess tm refused true false ta with
    | .ok m pa, .ok _ ta' =>
      if s.poisonAt pa 8 || s.poisonAt ta' 1 then (s, .fault Cause.uncorrectable va)
      else
        let ws := s.ownWrites tm j (laneBit l)
        let v := bytesNat (s.readGlobal tm.die ws m.grade s.free l pa 8)
        let b := (s.byteAt tm.die ws ta').toNat
        let x : Val := { bits := BitVec.ofNat 64 v, tag := b / 2 ^ (e % 8) % 2 = 1 }
        ((s.modSheaf t j fun sh =>
            (sh.writeNow [Wr.entry l (e % sh.allot) x]).tell (.entry l (e % sh.allot) x)).fill tm.core m, .ok)
    | .park, _ => (s, .park va)
    | _, .park => (s, .park ta)
    | .fault c, _ => (s, .fault c va)
    | _, .fault c => (s, .fault c ta)

def State.fillEntries (s : State) (refused : Option Nat) (t j l : Nat) : List Nat → State × Spilled
  | [] => (s, .ok)
  | e :: r =>
    match s.fillEntry refused t j l e with
    | (s1, .ok) => s1.fillEntries refused t j l r
    | x => x

/-- The numbers from `a` to `b - 1`. -/
def span (a b : Nat) : List Nat := (List.range (b - a)).map fun k => a + k

/-- The link word (R85). -/
def linkWord (ret : Pc) (f : Nat) : Word := BitVec.ofNat 64 (ret.toNat + f % 32 * 2 ^ 48)

/-- The strand of a lane that meets a miss or a fault keeps its PC, and what follows. -/
def Iss.spilled (i : Iss) (l : Nat) (r : Spilled) (s : State) : State :=
  match r with
  | .ok => s
  | .park va => (i.lanes [l] (fun st => { st with pc := i.pc }) s).parkPages i.t i.j i.die i.tm.vdev [(l, va)]
  | .fault c va => i.raise 0 [(l, c, va)] (i.lanes [l] (fun st => { st with pc := i.pc }) s)

/-- FLOOR after a call (R85). -/
def floorAfter (sh : Sheaf) (st : Strand) (f : Nat) : Nat := max st.floor (st.base + 8 * f + sh.w - sh.allot)

/-- R85: the window shift of one lane that calls `tgt` with frame `f`. The link and the new entries are later-issued writes than
any result still outstanding, and prevail over it (R62). -/
def Iss.callLane (i : Iss) (f : Nat) (tgt : Pc) (l : Nat) (s : State) : State :=
  let st := i.sh.strand l
  let bn := st.base + 8 * f
  let fl := floorAfter i.sh st f
  if st.depth ≥ 255 then i.spilled l (.fault Cause.depthOverflow tgt.toNat) s
  else if fl > st.floor && fl - 1 > 1983 then i.spilled l (.fault Cause.spillOverflow tgt.toNat) s
  else
    let s1 := s.modSheaf i.t i.j fun sh => sh.writeNow [Wr.entry l ((bn - 1) % sh.allot) { bits := linkWord (i.pc + 8) f }]
    match s1.spill st.refused i.t i.j l (span st.floor fl) with
    | (s2, .ok) =>
      s2.modSheaf i.t i.j fun sh =>
        let sh1 := sh.writeNow ((span (sh.w - 8 * f) sh.w).map fun k => Wr.entry l ((bn + k) % sh.allot) {})
        { (sh1.modStrand l fun x => { x with base := bn, floor := fl, depth := st.depth + 1, pc := tgt, refused := none })
          with spills := sh.spills + (if fl > st.floor then 1 else 0) }
    | (s2, r) => i.spilled l r s2

/-- A frame of 0, or one with 8 × frame above W, is refused before any lane acts (R98, R100). -/
def frameBad (f : Nat) (i : Iss) : Option Nat :=
  if f = 0 || 8 * f > i.sh.w then some Cause.illOperand else none

/-- A call whose spills would overflow its guarded team's share needs a commit first (R178): each spilled entry is a store of
its column and one of its tag. -/
def callNeed (f : Nat) (i : Iss) : Bool :=
  match i.tm.guarded with
  | some g =>
    let n := i.acts.foldl (fun n l => n + 2 * (floorAfter i.sh (i.sh.strand l) f - (i.sh.strand l).floor)) 0
    (frameBad f i).isNone && n != 0 && g.share.length + n > 16384
  | none => false

def execCall (c : Ctl) (o : OpB) (s : State) : Out :=
  issueCommitted (callNeed o.frame) c s ok1 (controlRun (frameBad o.frame) fun i s1 =>
    i.acts.foldl (fun x l => i.callLane o.frame (branchTarget i.pc o.off) l x) s1)

def execCallx (c : Ctl) (o : OpJ) (s : State) : Out :=
  issueCommitted (callNeed o.frame) c s (targetRange o.target) (controlRun (frameBad o.frame) fun i s1 =>
    i.acts.foldl (fun x l =>
      let tgt := (i.sh.v l o.target).bits
      match targetCause i s true o.target l with
      | some cause => i.targetFault o.target l cause x
      | none => i.callLane o.frame (tgt.setWidth 48) l x) s1)

/-- Why a link word is refused (R86). -/
def linkCause (v : Val) : Option Nat :=
  if v.tag then some Cause.aTarget
  else if v.bits.toNat / 2 ^ 53 != 0 || v.bits.toNat % 8 != 0 || v.bits.toNat / 2 ^ 48 % 32 == 0 then some Cause.badLink
  else none

/-- R86 for one lane. A link whose frame is above BASE leaves BASE at 0, and a lane that then stands at a DEPTH above 0 with BASE 0
has its link in entry 0: no rule gives BASE below 0, or entry BASE - 1 there, a value (DESIGN CHOICE, log entry 14). -/
def Iss.retLane (i : Iss) (l : Nat) (s : State) : State :=
  let st := i.sh.strand l
  if st.depth = 0 then i.spilled l (.fault Cause.retUnderflow 0) s
  else
    match s.fillEntries st.refused i.t i.j l (if st.base - 1 < st.floor then span (st.base - 1) st.floor else []) with
    | (s1, .ok) =>
      let sh := match s1.team? i.t with
        | some tm => tm.sheaf i.j
        | none => i.sh
      let e := (st.base - 1) % sh.allot
      let k := sh.entryVal l e
      if sh.poison.has (l * 2048 + e) then
        i.spilled l (.fault Cause.uncorrectable 0)
          (s1.sramEvent i.die false (srcCore i.core) 0 (l * 2048 + e) i.tm.vdev)
      else
      match linkCause k with
      | some cause => i.spilled l (.fault cause k.bits.toNat) s1
      | none =>
        let f := k.bits.toNat / 2 ^ 48 % 32
        let nb := st.base - 8 * f
        match s1.fillEntries st.refused i.t i.j l (if st.floor > nb then span nb st.floor else []) with
        | (s2, .ok) => i.lanes [l] (fun x =>
            { x with base := nb, floor := min st.floor nb, depth := st.depth - 1, pc := k.bits.setWidth 48,
                     refused := none }) s2
        | (s2, r) => i.spilled l r s2
    | (s1, r) => i.spilled l r s1

def execRet (c : Ctl) (_o : OpN) (s : State) : Out :=
  control c s ok1 ok1 fun i s1 => i.acts.foldl (fun x l => i.retLane l x) s1

/-! ### Masks (R91, R92, R101) -/

def maskBad (k : Nat) : Iss → Option Nat := fun _ => if k > 11 then some Cause.illOperand else none

def execJoin (c : Ctl) (o : OpS) (s : State) : Out :=
  control c s ok1 (maskBad o.sel) fun i s1 =>
    s1.modSheaf i.t i.j fun sh => sh.setMask o.sel (sh.mask o.sel ||| maskOf i.acts)

def execLeave (c : Ctl) (o : OpS) (s : State) : Out :=
  control c s ok1 (maskBad o.sel) fun i s1 =>
    (s1.modSheaf i.t i.j fun sh => sh.setMask o.sel (sh.mask o.sel &&& ~~~(maskOf i.acts))).settled i.t

def execWaitm (c : Ctl) (o : OpS) (s : State) : Out :=
  control c s ok1 (maskBad o.sel) fun i s1 =>
    (i.lanes (i.acts.filter fun l => (i.sh.mask o.sel).getLsbD l)
      (fun st => { st with pc := i.pc, run := .waiting o.sel }) s1).settled i.t

/-! ### Creating and ending strands (R102, R103) -/

def allOnesWord : Word := BitVec.allOnes 64

/-- The batch's release at .sheaf scope. -/
def Iss.release (i : Iss) (s : State) : State := s.performStores (ofLanes i.t i.j (maskOf i.batch)) 1

/-- New strands start with an acquire: the lanes that were vacant. -/
def Iss.born (i : Iss) (s : State) : State := s.acquire i.die i.t i.j (maskOf (allLanes.filter i.sh.vacant))

def execSpawn (c : Ctl) (o : OpB) (s : State) : Out :=
  control c s ok1 ok1 fun i s1 =>
    match i.acts with
    | [] => s1
    | l0 :: _ =>
      i.born ((i.release s1).modSheaf i.t i.j fun sh =>
        (allLanes.filter sh.vacant).foldl (fun h l =>
          h.create l (branchTarget i.pc o.off) (BitVec.ofNat 64 l0) allOnesWord) sh)

def execRefill (c : Ctl) (o : OpB) (s : State) : Out :=
  control c s ok1 ok1 fun i s1 =>
    match i.acts with
    | [] => s1
    | _ :: _ => i.born ((i.release s1).fillLanes i.t i.j (branchTarget i.pc o.off))

/-- The strand of a lane ends: it leaves every mask, its lane is vacant, its loads are discarded. -/
def Sheaf.endLane (sh : Sheaf) (l : Nat) : Sheaf :=
  let sh1 := (sh.dropLane l).modStrand l fun _ => {}
  { sh1 with masks := (maskIdx.foldl (fun (m : SMap Lanes) k => m.store 0 k (sh.mask k &&& ~~~(laneBit l))) sh.masks) }

/-- A load not yet performed that is made for ending lanes alone: it is discarded (R103). -/
def Load.endsWith (x : Load) (t j : Nat) (m : Lanes) : Bool := x.t == t && x.j == j && x.lanes &&& ~~~m == 0

def execExit (c : Ctl) (_o : OpN) (s : State) : Out :=
  control c s ok1 ok1 fun i s1 =>
    let gone (x : Load) : Bool := x.endsWith i.t i.j (maskOf i.acts)
    ({ s1 with loads := s1.loads.filter fun x => !gone x }.modSheaf i.t i.j fun sh =>
      (s1.loads.filter gone).foldl (fun (h : Sheaf) (x : Load) => h.modPend x.seq fun p => { p with waits := p.waits - 1 })
        (i.acts.foldl (fun h l => h.endLane l) sh)).settled i.t

def execYield (c : Ctl) (_o : OpN) (s : State) : Out :=
  control c s ok1 ok1 fun i s1 => i.lanes i.acts (fun st => { st with run := .yielded }) s1

/-! ### Program traps (R105) and the return (R106) -/

def execTrap (c : Ctl) (o : OpN) (s : State) : Out :=
  control c s ok1 ok1 fun i s1 => i.raise o.code (i.acts.map fun l => (l, Cause.trap, 0)) s1

def execBpt (c : Ctl) (o : OpN) (s : State) : Out :=
  control c s ok1 ok1 fun i s1 => i.raise o.code (i.acts.map fun l => (l, Cause.breakpoint, 0)) s1

/-- What TRET checks, in order (R106, R116). -/
def tretCause (i : Iss) : Option Nat :=
  if i.c.gn || i.c.gp != 15 then some Cause.illOperand
  else if !i.sh.tmode then some Cause.tretOutside
  else if i.batch != i.sh.handlers || (i.tm.leaveHandler i.j).isNone then some Cause.doubleTrap
  else none

def execTret (c : Ctl) (_o : OpN) (s : State) : Out :=
  issue c s tretCause fun i s1 =>
    (s1.modTeam i.t fun tm => (tm.leaveHandler i.j).getD tm).settled i.t

/-- TRAP_DELIVERY: the sheaf's pending trap goes to its destination (R107). -/
def execTrapDelivery (t j : Nat) (s : State) : Out := .next (s.deliver t j)

end Sys2Proof.Machine
end

