-- ==== Sys2Proof/Machine/Frames.lean ====
section
/-! DEFINITION. Frames that several families share: collective instructions (R94), safe points (R74 to R76), logical
identities (R360), and results of system instructions. -/

namespace Sys2Proof.Machine

/-! ### Collective instructions (R94) -/

/-- The guard is false in all 32 lanes of the sheaf; a vacant lane's counts as false (R94). -/
def Iss.noGuard (i : Iss) : Bool := allLanes.all fun l => i.sh.vacant l || !guardOf i.c (i.sh.strand l)

/-- With the guard false in every lane the instruction does nothing; else it needs all 32 lanes, and all their guards. -/
def Iss.collCause (i : Iss) : Option Nat :=
  if i.noGuard then none
  else if i.batch.length < 32 then some Cause.notBatched
  else if i.on.length < 32 then some Cause.mixedGuard
  else none

def collective (c : Ctl) (s : State) (check : Iss → Option Nat) (run : Iss → State → State) : Out :=
  issue c s (fun i => i.collCause <|> (if i.noGuard then none else check i)) fun i s1 =>
    if i.noGuard then i.finish none [] s1 else run i s1

/-- A guard other than the default (R170). -/
def hasGuard (c : Ctl) : Bool := c.gn || c.gp != 15

/-! ### Uniform operands -/

/-- The value of a slot in some lane whose guard is true: a uniform in every one. -/
def Iss.uni (i : Iss) (k : Nat) : Val := i.sh.u k

/-- The same cause in every lane whose guard is true. -/
def Iss.onFaults (i : Iss) (cause addr : Nat) : List (Nat × Nat × Nat) := i.on.map fun l => (l, cause, addr)

/-- A variable-latency result that waits for its event. -/
def Iss.awaited (i : Iss) : Pending := { seq := i.seq, ready := false }

/-- Write a precise uniform as the result an event completes. -/
def Wr.uniform (d : Nat) (v : Word) : Wr := .u d (BitVec.allOnes 64) v (some false)

/-- An event completes the awaited result of an issue. -/
def State.complete (s : State) (t j seq : Nat) (ws : List Wr) : State := s.modSheaf t j fun sh => sh.ready seq ws

/-! ### Safe points (R74 to R76) -/

def State.codeOf (s : State) (tm : Team) : Option CodeObj :=
  s.service.codes.find? fun o => o.vdev == tm.vdev && o.code == tm.code

/-- A lane's PC stands at an address of the side table. -/
def State.atSafePoint (s : State) (tm : Team) (pc : Pc) : Bool :=
  match s.codeOf tm with
  | none => false
  | some o => o.safe.any fun e => tm.code + e.offset == pc.toNat

/-- A running copy job's next write enters its team's share (R177). -/
def Job.toShare (j : Job) : Bool :=
  let sp := j.d3.toNat / 16 % 16
  j.state == 1 && (j.kind == .cpy || j.kind == .cpyr || j.kind == .cpos) && (sp == 0 || sp == 2)

/-- A guarded team's share takes no write of a running copy job: it has no room, or a commit is under way (R175 to R177). -/
def Team.unitHeld (tm : Team) (j : Job) : Bool :=
  j.toShare && tm.guarded.elim false fun g => g.committing || decide (g.share.length ≥ 16384)

/-- A guarded team needs a forced commit: for the instruction of a sheaf (R178), or for room in its share; or one is under way. -/
def Team.commitAsked (tm : Team) : Bool :=
  tm.guarded.elim false fun g => g.committing || (tm.sheaves.any fun sh => sh.hold == .commit) || tm.jobs.any tm.unitHeld

/-- A decision holds the team: to pre-empt it, or for a forced commit (R178, R351). -/
def Team.deciding (tm : Team) : Bool := tm.preempt != .none || tm.commitAsked

def isParked : Run → Bool
  | .parked _ => true
  | _ => false

/-- Lanes parked, but for those on a page, and lanes that wait. -/
def Sheaf.waiters (sh : Sheaf) : Lanes :=
  maskOf (allLanes.filter fun l => isWaiting (sh.strand l).run || (isParked (sh.strand l).run && (sh.strand l).run != .parked 5))

/-- Lanes that were parked or waiting and go on: in a decided team they have completed their instruction with its result, are saved
active at PC + 8, and are not run forward (R351, R352: a release condition that holds in or before the capture cycle). -/
def Sheaf.released (sh : Sheaf) : Lanes := sh.heldAt &&& maskOf (allLanes.filter fun l => (sh.strand l).run == .active)

/-- Lanes that stand at their safe point, or that are recorded as having completed their instruction, are held there (R351). -/
def State.markSafe (s : State) (t : Nat) : State :=
  match s.team? t with
  | none => s
  | some tm =>
    if !tm.deciding then s
    else s.modTeam t fun x => { x with sheaves := x.sheaves.map fun sh =>
      let at_ : Lanes := maskOf (allLanes.filter fun l =>
          ((sh.strand l).run == .active || (sh.strand l).run == .yielded) && s.atSafePoint tm (sh.strand l).pc)
      if tm.preempt == .none then { sh with safeAt := sh.safeAt ||| at_ }
      else { sh with safeAt := sh.safeAt ||| at_ ||| sh.released, heldAt := sh.waiters } }

/-! ### Logical identities (R360) -/

def State.partClusters (s : State) (p : Nat) : List Nat :=
  (List.range 192).filter fun k => (s.cluster k).part == some p && !(s.cluster k).fused

/-- lid.core: the rank of a core among its partition's cores. -/
def State.lidCore (s : State) (part core : Nat) : Nat :=
  8 * ((s.partClusters part).filter fun k => k < clusterOfCore core).length + core % 8

def State.partDies (s : State) (part : Nat) : List Nat :=
  allDies.filter fun d => (s.partClusters part).any fun k => dieOfCluster k == d

/-- lid.die: the rank of a die among those that hold clusters of the partition. -/
def State.lidDie (s : State) (part d : Nat) : Nat := ((s.partDies part).filter fun k => k < d).length

/-- pid.team: sixteen times the core and the lowest slot the team holds (R347). -/
def Team.pid (tm : Team) : Nat := 16 * tm.core + tm.sheaves.foldl (fun b sh => min b sh.slot) 15

end Sys2Proof.Machine
end

