-- ==== Sys2Proof/Machine/LoadStore.lean ====
section
/-! DEFINITION. Loads, stores, PREF and FENCE (R147 to R160), and the accesses that a home answers (R271). -/

namespace Sys2Proof.Machine

/-! ### Addresses and the lanes of an access -/

/-- R148. -/
def Iss.memAddr (i : Iss) (o : OpM) (l : Nat) : Nat :=
  let b : Word := match o.base with | some k => (i.sh.u k).bits | none => 0
  let x : Word := match o.index with | some k => (i.sh.v l k).bits | none => 0
  (b + x + (BitVec.ofNat 16 o.disp).signExtend 64).toNat

/-- Base or index tagged A (R50). -/
def Iss.addrTag (i : Iss) (base index : Option Nat) (l : Nat) : Bool :=
  (match base with | some k => (i.sh.u k).tag | none => false) ||
  (match index with | some k => (i.sh.v l k).tag | none => false)

/-- How one lane's access is judged. -/
inductive LaneAcc where
  | fault (cause : Nat)
  | park
  | skip                                  -- a lane that only checks its sinks (R153)
  | go (m : Option Mapping) (pa grade : Nat)
deriving DecidableEq, Repr

structure Judged where
  lane : Nat
  addr : Nat
  acc : LaneAcc
deriving DecidableEq, Repr

/-- A uniform access is made once and stands for every lane whose guard is true (R149). -/
def Iss.spread (i : Iss) (u : Bool) (l : Nat) : List Nat := if u then i.on else [l]

def Iss.repLanes (i : Iss) (u : Bool) : List Nat := if u then i.on.take 1 else i.on

def Iss.accFaults (i : Iss) (u : Bool) (js : List Judged) : List (Nat × Nat × Nat) :=
  js.flatMap fun x => match x.acc with
    | .fault c => (i.spread u x.lane).map fun l => (l, c, x.addr)
    | _ => []

def Iss.accParks (i : Iss) (u : Bool) (js : List Judged) : List (Nat × Nat) :=
  js.flatMap fun x => match x.acc with
    | .park => (i.spread u x.lane).map fun l => (l, x.addr)
    | _ => []

/-- Lanes that miss translation park at the instruction (R154). -/
def Iss.park (i : Iss) (ps : List (Nat × Nat)) (s : State) : State :=
  if ps.isEmpty then s
  else (s.modSheaf i.t i.j fun sh => sh.modLanes (ps.map Prod.fst) fun st => { st with pc := i.pc }).parkPages
    i.t i.j i.die i.tm.vdev ps

/-- Translations that the lanes used fill the TLBs (R334). -/
def fillAll (core : Nat) (js : List Judged) (s : State) : State :=
  js.foldl (fun x j => match j.acc with
    | .go (some m) _ _ => x.fill core m
    | _ => x) s

/-- Batch-wide checks of format M: register range, then the U and x values (R83, R149, R150). -/
def memChecks (o : OpM) (data uOk : Bool) (w : Nat) : Option Nat :=
  firstCause [
    ((match o.index with | some k => decide (k ≥ w) | none => false) || (data && !o.u && o.t ≥ w), Cause.registerRange),
    (o.x != 0 || (o.u && (!uOk || o.index.isSome)), Cause.illOperand)]

def memRegs (o : OpM) (data : Bool) : List Nat :=
  (match o.index with | some k => [k] | none => []) ++ (if data && !o.u then [o.t] else [])

/-- Rows 2 to 4 of R153 for a global address. -/
def Iss.globalAcc (i : Iss) (s : State) (r w fab : Bool) (n l a : Nat) : LaneAcc :=
  match s.access i.core i.tm.vdev (i.sh.strand l).refused r w fab n a with
  | .fault c => .fault c
  | .park => .park
  | .ok m pa => .go (some m) pa m.grade

/-- The same rows for a cellar-window offset: it must lie in a region that the launch holds. -/
def Iss.windowAcc (i : Iss) (s : State) (n a : Nat) : LaneAcc :=
  if a % n != 0 then .fault Cause.misaligned
  else
    let pa := cellarPa i.die a
    match (if a < Config.cellarBytes then s.region? pa else none) with
    | some g =>
      if g.launch != some i.tm.launch then .fault Cause.spaceRange
      else if g.ctx.isSome then .fault Cause.permission
      else .go none pa g.grade
    | none => .fault Cause.spaceRange

/-- The same rows for a larder offset. -/
def Iss.larderAcc (i : Iss) (n a : Nat) : LaneAcc :=
  if a % n != 0 then .fault Cause.misaligned
  else if a ≥ i.tm.larderSize then .fault Cause.spaceRange
  else .go none a (i.tm.larderGrade a)

/-! ### Loads (R151) -/

/-- A loaded value in its register (R151). -/
abbrev extend (ty : Ty) (v : Nat) : Word := loadedWord ty v

/-- Judge the lanes of a load: row 1, then the space's rows, then row 7. An uncorrectable error of the index register is
judged before row 1, as it is met when the lane reads the register (DESIGN CHOICE, log entry 13). -/
def Iss.judgeLoad (i : Iss) (o : OpM) (acc : Nat → Nat → LaneAcc) (bad : Nat → Bool) : List Judged :=
  (i.repLanes o.u).map fun l =>
    let a := i.memAddr o l
    { lane := l, addr := a,
      acc := if i.poisoned l (memRegs o false) then .fault Cause.uncorrectable
             else if i.addrTag o.base o.index l then .fault Cause.aAddr
             else match acc l a with
               | .go m pa g => if bad pa then .fault Cause.uncorrectable else .go m pa g
               | x => x }

/-- Writes of a load's destination, for the lanes `vals` names. -/
def Iss.loadWrites (i : Iss) (o : OpM) (vals : List (Nat × Word × Bool)) : List Wr :=
  if o.u then
    match vals with
    | v :: _ => i.wrU o.t (v.2.1, v.2.2)
    | [] => if i.on.isEmpty then i.wrU o.t (0, false) else []
  else
    i.wrV o.t (vals.map Prod.fst) fun l => (vals.find? fun v => v.1 == l).elim (0, false) fun v => (v.2.1, v.2.2)

/-- Numbers for the requests of an issue. -/
def numbered (base : Nat) (js : List Judged) : List (Nat × Judged) := js.zipIdx.map fun x => (base + x.2, x.1)

/-- The source of a request: a lane, or the lanes for which a uniform access is made. -/
def Iss.reqSrc (i : Iss) (u : Bool) (l : Nat) : ReqSrc :=
  if u then .uniform i.t i.j i.seq i.on else .lane i.t i.j l i.seq

/-- Send requests to their homes; with `held` the sheaf issues nothing until all have answered (R271). -/
def Iss.sendAll (i : Iss) (held : Bool) (rs : List Req) (s : State) : State :=
  if rs.isEmpty then s
  else
    let s1 := rs.foldl (fun x r => x.send r) { s with ids := s.ids + rs.length }
    if held then s1.modSheaf i.t i.j fun sh => { sh with hold := .home (rs.map fun r => r.id) } else s1

/-- Loads that the agenda leaves to be performed later, with what each will write (R157). -/
def Iss.lateLoads (i : Iss) (o : OpM) (js : List Judged) : List Load :=
  js.filterMap fun x => match x.acc with
    | .go _ pa g => some
        { t := i.t, j := i.j, seq := i.seq, lanes := maskOf (i.spread o.u x.lane), lane := x.lane, die := i.die, pa := pa, ty := o.ty,
          grade := g, draw := i.draw, writes := i.loadWrites o [(x.lane, 0, g != 8)] }
    | _ => none

/-- Finish a load: plain results as one variable-latency result, performed now or later as the agenda has it, accesses of precise
cellar lines as requests of their homes, misses parked, faults named. -/
def Iss.loadRun (i : Iss) (o : OpM) (js : List Judged) (value : Judged → Nat) (s : State) : State :=
  let isHome (x : Judged) : Bool := match x.acc with
    | .go _ pa 8 => s.preciseCellar pa
    | _ => false
  let plain := js.filter fun x => !isHome x
  let vals := plain.filterMap fun x => match x.acc with
    | .go _ _ g => some (x.lane, extend o.ty (value x), g != 8)
    | _ => none
  let homes := numbered s.ids (js.filter isHome)
  let reqs : List Req := homes.filterMap fun x => match x.2.acc with
    | .go m pa g => some
        { id := x.1,
          kind := .load,
          src := i.reqSrc o.u x.2.lane,
          seq := i.seq,
          pa := pa,
          va := (m.elim 0 fun q => q.va + (pa - q.pa)),
          grade := g,
          staged := true,
          ty := o.ty,
          trans := 15,
          dst := if o.u then .u o.t else .v (i.sh.ring x.2.lane o.t),
          tag := !i.aG.isEmpty && (o.u || i.aG.contains x.2.lane),
          die := i.die,
          clock := (s.die i.die).clock,
          launch := i.tm.launch }
    | _ => none
  let late := if s.late then i.lateLoads o plain else []
  let ws := i.loadWrites o (if s.late then [] else vals)
  let p : Pending := { seq := i.seq, writes := ws, waits := reqs.length + late.length }
  let parks := i.accParks o.u js
  i.sendAll true reqs (i.park parks
    ((i.reads (memRegs o false)).finish (if ws.isEmpty && reqs.isEmpty && late.isEmpty then none else some p) (i.accFaults o.u js)
      (fillAll i.core js { s with free := s.free + 1, loads := s.loads ++ late })))

/-- Lines that a die's strands read come into its cellar cache (R263). -/
def cacheLines (d : Nat) (js : List Judged) (s : State) : State :=
  s.modDie d fun x => x.cacheIn (js.filterMap fun j => match j.acc with
    | .go _ pa _ => some (lineOf pa)
    | _ => none)

/-- The lanes of a load that met an uncorrectable error of cellar storage log it (R263). -/
def Iss.cellarMet (i : Iss) (o : OpM) (js : List Judged) (acc : Nat → Nat → LaneAcc) (s : State) : State :=
  js.foldl (fun (y : State) x => match x.acc, acc x.lane x.addr with
    | .fault _, .go _ pa _ =>
      if i.poisoned x.lane (memRegs o false) || i.addrTag o.base o.index x.lane then y
      else y.cellarErrorAt pa (o.ty.width / 8) i.tm.vdev
    | _, _ => y) s

/-- An operand's bytes hold an uncorrectable error that the lane itself meets; a line of a precise cellar is its home's to read. -/
def State.loadBad (s : State) (n pa : Nat) : Bool := !s.preciseCellar pa && s.poisonAt pa n

def Iss.globalValue (i : Iss) (s : State) (o : OpM) (x : Judged) : Nat :=
  match x.acc with
  | .go _ pa g => bytesNat (s.readGlobal i.die (s.ownWrites i.tm i.j (maskOf (i.spread o.u x.lane))) g i.draw x.lane pa
                    (o.ty.width / 8))
  | _ => 0

def execLd (c : Ctl) (o : OpM) (s : State) : Out :=
  issue c s (fun i => memChecks o true true i.sh.w) fun i s1 =>
    let n := o.ty.width / 8
    let acc := i.globalAcc s1 true false false n
    let js := i.judgeLoad o acc (s1.loadBad n)
    i.loadRun o js (i.globalValue s1 o) (i.cellarMet o js acc (cacheLines i.die js s1))

def execLds (c : Ctl) (o : OpM) (s : State) : Out :=
  issue c s (fun i => memChecks o true true i.sh.w) fun i s1 =>
    let n := o.ty.width / 8
    let acc (_ a : Nat) : LaneAcc := i.windowAcc s1 n a
    let js := i.judgeLoad o acc (s1.loadBad n)
    i.loadRun o js (i.globalValue s1 o) (i.cellarMet o js acc s1)

def execLdl (c : Ctl) (o : OpM) (s : State) : Out :=
  issue c s (fun i => memChecks o true true i.sh.w) fun i s1 =>
    let n := o.ty.width / 8
    let js := i.judgeLoad o (fun _ a => i.larderAcc n a) fun a => i.tm.larderError a n
    let vals := js.filterMap fun x => match x.acc with
      | .go _ a g => some (x.lane, extend o.ty (bytesNat (i.tm.readLarder i.draw x.lane a n)), g != 8)
      | _ => none
    let ws := i.loadWrites o vals
    let s2 := js.foldl (fun (x : State) q =>
      if q.acc == .fault Cause.uncorrectable && i.tm.larderError q.addr n then
        x.sramEvent i.die false (srcCore i.core) 1 (q.addr / 8) i.tm.vdev
      else x) s1
    (i.reads (memRegs o false)).finish (if ws.isEmpty then none else some (i.variable ws)) (i.accFaults o.u js) { s2 with free := s2.free + 1 }

/-! ### Stores (R152, R153) -/

/-- The data register of a lane. -/
def Iss.storeVal (i : Iss) (o : OpM) (l : Nat) : Val := if o.u then i.sh.u o.t else i.sh.v l o.t

/-- Lanes that a store judges: those whose guard is true, and those whose guard is tagged A, which only check. -/
def Iss.storeLanes (i : Iss) (u : Bool) : List Nat :=
  if u then i.on.take 1 else i.batch.filter fun l => i.on.contains l || i.aG.contains l

/-- Rows 1 to 6 of R153 for a store's lanes. An uncorrectable error of the index or data register is judged before row 1
(DESIGN CHOICE, log entry 13). -/
def Iss.judgeStore (i : Iss) (o : OpM) (acc : Nat → Nat → LaneAcc) : List Judged :=
  (i.storeLanes o.u).map fun l =>
    let a := i.memAddr o l
    let on := i.on.contains l
    let gTag := if o.u then !i.aG.isEmpty else i.aG.contains l
    { lane := l, addr := a,
      acc := if on && i.poisoned l (memRegs o true) then .fault Cause.uncorrectable
             else if on && i.addrTag o.base o.index l then .fault Cause.aAddr
             else match acc l a with
               | .go m pa g =>
                 if g == 8 && gTag then .fault Cause.aGuard
                 else if on && g == 8 && (i.storeVal o l).tag then .fault Cause.aStore
                 else if on then .go m pa g else .skip
               | .park => .park
               | x => x }

def Iss.storeBytes (i : Iss) (o : OpM) (l : Nat) : List Byte := natBytes (o.ty.width / 8) (i.storeVal o l).bits.toNat

/-- A line that a home now keeps as a staged object. -/
def State.isStaged (s : State) (pa : Nat) : Bool := ((s.die (ownerOf pa)).metas.val (lineOf pa) {}).stg

/-- A store needs its team's commit first when it would overflow the share, or when its line is staged (R178, R280). -/
def Iss.storeNeed (i : Iss) (s : State) (o : OpM) : Bool :=
  let js := i.judgeStore o fun l a => i.globalAcc s false true false (o.ty.width / 8) l a
  let pas := js.filterMap fun x => match x.acc with
    | .go _ pa _ => some pa
    | _ => none
  match i.tm.guarded with
  | some g => g.share.length + pas.length > 16384 || (i.once && pas.any s.isStaged)
  | none => false

def execSt (c : Ctl) (o : OpM) (s : State) : Out :=
  issueCommitted (fun i => i.storeNeed s o) c s (fun i => memChecks o true true i.sh.w) fun i s1 =>
    let js := i.judgeStore o fun l a => i.globalAcc s1 false true false (o.ty.width / 8) l a
    let atHome (x : Judged) : Bool := match x.acc with
      | .go _ pa 8 => s1.preciseCellar pa && (i.tm.guarded.isNone || s1.isStaged pa)
      | _ => false
    let s2 := (js.filter fun x => !atHome x).foldl (fun (y : State) x => match x.acc with
      | .go _ pa g =>
        y.storeGlobal ((y.team? i.t).getD i.tm) i.j (maskOf (i.spread o.u x.lane)) pa (i.storeBytes o x.lane) o.ty.width g
          (i.storeVal o x.lane).tag
      | _ => y) s1
    let reqs : List Req := (numbered s2.ids (js.filter atHome)).filterMap fun x => match x.2.acc with
      | .go m pa g => some
          { id := x.1,
            kind := .store,
            src := i.reqSrc o.u x.2.lane,
            seq := i.seq,
            pa := pa,
            va := (m.elim 0 fun q => q.va + (pa - q.pa)),
            grade := g,
            staged := true,
            ty := o.ty,
            trans := 15,
            e := (i.storeVal o x.2.lane).bits,
            die := i.die,
            clock := (s2.die i.die).clock,
            launch := i.tm.launch }
      | _ => none
    i.sendAll true reqs (i.park (i.accParks o.u js)
      ((i.reads (memRegs o true)).finish (if reqs.isEmpty then none else some { seq := i.seq, waits := reqs.length })
        (i.accFaults o.u js) (fillAll i.core js s2)))

/-- New lines that an STL would log, against the undo log's 512 KiB (R175, R178). -/
def Iss.stlNeed (i : Iss) (o : OpM) : Bool :=
  match i.tm.guarded with
  | some g =>
    let ls := ((i.storeLanes o.u).map fun l => lineOf (i.memAddr o l)).dedup
    g.undo.length + (ls.filter fun a => !g.undo.any fun e => e.1 == a).length > 4096
  | none => false

/-- STL: its bytes take their place in their coherence order at the issue, behind what an in-flight job's WP has passed (R228;
DESIGN CHOICE, log entry 50). -/
def execStl (c : Ctl) (o : OpM) (s : State) : Out :=
  issueCommitted (fun i => i.stlNeed o) c s (fun i => memChecks o true true i.sh.w) fun i s1 =>
    let js := i.judgeStore o fun _ a => i.larderAcc (o.ty.width / 8) a
    let s2 := js.foldl (fun (y : State) x => match x.acc with
      | .go _ a _ => y.modTeam i.t fun tm => tm.writeLarder a o.ty.width (i.storeBytes o x.lane)
      | _ => y) s1
    (i.reads (memRegs o true)).finish none (i.accFaults o.u js) s2

/-! ### PREF (R155) -/

def execPref (c : Ctl) (o : OpM) (s : State) : Out :=
  issue c s (fun i => memChecks o false false i.sh.w) fun i s1 =>
    let sinks := i.on.filter fun l => i.addrTag o.base o.index l
    let faults := sinks.map fun l => (l, Cause.aAddr, i.memAddr o l)
    let lines := ((i.on.filter fun l => !sinks.contains l).filterMap fun l =>
      match s1.access i.core i.tm.vdev none true false false 1 (i.memAddr o l) with
      | .ok _ pa => if s1.poisonAt (lineOf pa) 128 then none else some (lineOf pa)
      | _ => none)
    i.finish none faults (s1.modDie i.die fun x => x.cacheIn lines)

/-! ### FENCE (R159, R160, R327, R373) -/

/-- A fence's markers among the outstanding stores of the acting lanes: a lane's next access waits behind its marker until the
fence's condition holds, within the fence's scope (R159, R160). -/
def Iss.fenceMarks (i : Iss) (sc : Scope) (acq rel : Bool) (s : State) : State :=
  { s with stores := s.stores ++ i.on.map fun l =>
      (i.die, { sheaf := sheafId i.t i.j, lanes := laneBit l, iss := i.seq + 1, acq := acq, rel := rel, core := i.core,
                scope := min 5 sc.code, no := (i.sh.strand l).acq,
                pub := rel && (sc == .package || sc == .system), sys := rel && sc == .system }) }

/-- A scope wider than .team forces a guarded team's commit (R178). -/
def fenceNeed (sc : Scope) : Iss → Bool := fun i => sc.code > 2 && i.once

/-- The covers that the acting strands' earlier answers have returned are merged into their die's flows (R372, R373). -/
def Iss.mergeCovers (i : Iss) (s : State) : State :=
  s.modDie i.die fun d => { d with covers := i.on.foldl (fun (m : SMap (List Nat)) l =>
    (i.sh.strand l).covers.foldl (fun (q : SMap (List Nat)) e => q.put e.1 (clockMax (q.val e.1 []) e.2)) m) d.covers }

/-- A fence of either side or both. -/
def fenceInstr (acq rel : Bool) (c : Ctl) (o : OpS) (s : State) : Out :=
  issueCommitted (fenceNeed o.scope) c s (fun _ => none) fun i s1 =>
    i.finish none [] (i.fenceMarks o.scope acq rel (if acq && o.scope == .system then i.mergeCovers s1 else s1))

def execFenceAcq (c : Ctl) (o : OpS) (s : State) : Out := fenceInstr true false c o s
def execFenceRel (c : Ctl) (o : OpS) (s : State) : Out := fenceInstr false true c o s
def execFenceFull (c : Ctl) (o : OpS) (s : State) : Out := fenceInstr true true c o s

end Sys2Proof.Machine
end

