-- ==== Sys2Proof/Machine/Requests.lean ====
section
/-! DEFINITION. Requests to homes and their answers: results and faults for lanes and uniforms (R231, R232, R270 to R272),
and the sending of requests to another package through a fabric window (R370 to R372). -/

namespace Sys2Proof.Machine

/-! ### Answers -/

/-- A home's answer: a cause other than 0 refuses the request. -/
structure Reply where
  cause : Nat := 0
  value : Option (Word × Bool) := none
  clock : List Nat := []
  acq : Bool := false
deriving DecidableEq, Repr

/-- Writes of a result to a request's destination. -/
def Req.writes (r : Req) (l : Nat) (v : Word × Bool) : List Wr :=
  match r.dst with
  | .none => []
  | .v e => [Wr.v l e (BitVec.allOnes 64) v.1 (some v.2)]
  | .u k => [Wr.u k (BitVec.allOnes 64) v.1 (some v.2)]

/-- The home has answered request `id`: the sheaf issues again when none is left (R271). -/
def Hold.without (h : Hold) (id : Nat) : Hold :=
  match h with
  | .home ids => let r := ids.filter fun x => x != id; if r.isEmpty then .none else .home r
  | x => x

def Hold.holds (h : Hold) (id : Nat) : Bool :=
  match h with
  | .home ids => ids.contains id
  | _ => false

/-- An answered outstanding result that writes nothing more and holds no slot is over. -/
def Sheaf.settleResult (sh : Sheaf) (seq : Nat) : Sheaf :=
  { sh with pend := sh.pend.filter fun p => !(p.seq == seq && p.waits == 0 && p.writes.isEmpty && p.slotOf == 0) }

/-- A lane's access was answered. A held access's result is written with the answer (R271); another joins its issue's
result. A lane whose strand has ended holds no slot and its value is discarded (R232). -/
def Sheaf.answerLane (sh : Sheaf) (r : Req) (l : Nat) (v : Option (Word × Bool)) : Sheaf :=
  let ws := match v with
    | some x => r.writes l x
    | none => []
  if sh.hold.holds r.id then
    let slot := sh.pend.any fun p => p.seq == r.seq && p.slotOf.getLsbD l
    let sh1 := (sh.modPend r.seq fun p => { p with waits := p.waits - 1, slotOf := p.slotOf &&& ~~~(laneBit l) }).commit
      { seq := r.seq } ws
    let sh2 := if slot then sh1.modStrand l fun st => { st with slots := st.slots - 1 } else sh1
    { sh2 with hold := sh2.hold.without r.id }.settleResult r.seq
  else
    (sh.modPend r.seq fun p =>
      { p with waits := p.waits - 1, writes := if p.slotOf.getLsbD l then p.writes ++ ws else p.writes }).settleResult r.seq

/-- The sequence index that a refused AFADD.o took is free again, unless a later one has been issued: the strand performed
none with it (R237). -/
def Strand.untake (st : Strand) (r : Req) : Strand :=
  match r.key[4]? with
  | some n => if st.seqIdx == BitVec.ofNat 32 (n + 1) then { st with seqIdx := BitVec.ofNat 32 n } else st
  | none => st

/-- A lane's access was refused: the lane performs nothing. When its sheaf was held, its PC stands at the access (R271). -/
def Sheaf.refuseLane (sh : Sheaf) (r : Req) (ls : List Nat) (cause : Nat) : Sheaf :=
  let held := sh.hold.holds r.id
  let slots := ls.filter fun l => sh.pend.any fun p => p.seq == r.seq && p.slotOf.getLsbD l
  let sh1 := ((sh.modPend r.seq fun p => { p with waits := p.waits - 1, slotOf := p.slotOf &&& ~~~(maskOf ls) }).modLanes
    slots fun st => { st with slots := st.slots - 1 }).modLanes ls fun st => st.untake r
  let sh2 := if held then sh1.modLanes ls fun st => { st with pc := st.pc - 8 } else sh1
  ({ sh2 with hold := sh2.hold.without r.id }.settleResult r.seq).raise r.seq 0 (ls.map fun l => (l, cause, r.va))

/-- The lane still waits on this request (R270). -/
def Strand.waitsOn (st : Strand) (id : Nat) : Bool := isParked st.run && st.park == .request id

/-- Answer of a parked LDT, STT or XTR: its result is written and the lane goes on, or it takes the cause (R270). -/
def Sheaf.answerParked (sh : Sheaf) (r : Req) (l : Nat) (a : Reply) : Sheaf :=
  if !(sh.strand l).waitsOn r.id then sh
  else if a.cause == 0 then
    let ws := match a.value with
      | some v => r.writes l v
      | none => []
    (sh.commit { seq := r.seq } ws).modStrand l Strand.go
  else (sh.modStrand l fun st => { st with run := .active, park := .nothing }).raise r.seq 0 [(l, a.cause, r.va)]

def ReqKind.parks : ReqKind → Bool
  | .ldt | .stt | .xtr => true
  | _ => false

/-- Before a result is written, or a lane goes on past an acquire, its die applies what the home's clock covered
(R328, R329). -/
def State.coverAnswer (s : State) (r : Req) (a : Reply) : State :=
  if a.cause == 0 && (r.kind == .atomic || a.acq) then s.applyUpTo r.die a.clock else s

/-- A home's answer reaches the lane or lanes that asked. -/
def State.answerLanes (s : State) (r : Req) (a : Reply) : State :=
  let s1 := s.coverAnswer r a
  match r.src with
  | .lane t j l _ =>
    s1.modSheaf t j fun sh =>
      if r.kind.parks then sh.answerParked r l a
      else if a.cause == 0 then sh.answerLane r l a.value else sh.refuseLane r [l] a.cause
  | .uniform t j _ ls =>
    s1.modSheaf t j fun sh =>
      if a.cause == 0 then sh.answerLane r 0 a.value else sh.refuseLane r ls a.cause
  | _ => s1

/-! ### Requests to another package (R370 to R372) -/

/-- Answers merge the target's clock into the cover (R372). -/
def State.mergeCover (s : State) (d pkg : Nat) (clock : List Nat) : State :=
  s.modDie d fun x => { x with covers := x.covers.put pkg (clockMax (s.cover d pkg) clock) }

/-- Change the strands of the lanes that a request stands for. -/
def State.modSource (s : State) (r : Req) (f : Strand → Strand) : State :=
  match r.src with
  | .lane t j _ _ | .uniform t j _ _ => s.modSheaf t j fun sh => sh.modLanes (lanesOf r.lanes) f
  | _ => s

/-- A strand's operation reaches a package (R373). -/
def Strand.reached (st : Strand) (pkg : Nat) : Strand := { st with pkgs := (st.pkgs ++ [pkg]).dedup }

/-- An answer to a strand's request carries a target's clock (R373). -/
def Strand.covered (st : Strand) (pkg : Nat) (clock : List Nat) : Strand :=
  { st with covers := st.covers.put pkg (clockMax (st.covers.val pkg []) clock) }

/-- A request through a window becomes a message; one whose lane has an earlier request not yet remotely complete is held
at its sender (R371, R372). `none` when the window is not in use. -/
def State.sendRemote (s : State) (r : Req) (op : Nat) : Option State :=
  match s.window? r.pa with
  | none => none
  | some w =>
    let tag := s.fabric.nextTag
    let m : Msg := { op := op, srcPod := s.ownPod, srcDie := r.die, tag := tag, key := w.2.1, vdev := w.2.2.1, va := w.2.2.2,
                     ty := r.ty, fn := r.fn, trans := r.trans, e := r.e, g := r.g, clock := s.cover r.die w.1 }
    let busy := s.fabric.waits.any fun x => x.2.src.sameLane r.src
    let s1 := { s with fabric := { s.fabric with nextTag := tag + 1, waits := s.fabric.waits ++ [(tag, r)] } }
    let s2 := match r.src with
      | .lane t _ _ _ | .uniform t _ _ _ | .job t _ => s1.modTeam t fun tm =>
          { tm with remoteOut := tm.remoteOut ++ [tag] }
      | .remote _ _ _ => s1
    let s3 := s2.modSource r fun st => st.reached w.1
    some (if busy then
        { s3 with fabric := { s3.fabric with held := s3.fabric.held ++ [(tag, { dest := w.1, rod := true, msg := m })] } }
      else s3.post w.1 true m)

/-- Send a request to its line's home, here or through the fabric; a window that is not in use leads nowhere. -/
def State.request (s : State) (r : Req) (op : Nat) : State :=
  if isFabric r.pa then (s.sendRemote r op).getD (s.answerLanes r { cause := Cause.unmapped }) else s.send r

end Sys2Proof.Machine
end

