-- ==== Sys2Proof/Machine/Home.lean ====
section
/-! DEFINITION. The homes: class tables (R266, R267, R283), the judgement of requests (R269), park queues (R270), atomics
served (R231, R235), arrivals (R272), retirement (R273) and withdrawal (R279). -/

namespace Sys2Proof.Machine

/-! ### Class tables (R266, R267, R283) -/

/-- The standard classes' entries (R283). -/
def standardEntry (k st t : Nat) : Nat :=
  match k, st, t with
  | 0, 0, 0 => 0x8460 | 0, 1, 0 => 0x4000 | 0, 0, 1 => 0x4000 | 0, 1, 1 => 0x8580 | 0, 1, 2 => 0x8000
  | 0, 0, 13 => 0x8010 | 0, 1, 13 => 0x8010 | 0, 0, 14 => 0x8000 | 0, 0, 15 => 0x8460
  | 1, 0, 0 => 0x8480 | 1, 1, 0 => 0x4000 | 1, 2, 0 => 0x4000 | 1, 3, 0 => 0x4000 | 1, 1, 1 => 0x8A40
  | 1, 2, 2 => 0x8D80 | 1, 0, 2 => 0x4000 | 1, 1, 2 => 0x4000 | 1, 3, 2 => 0x4000 | 1, 3, 3 => 0x8140
  | 1, 0, 13 => 0x8010 | 1, 0, 14 => 0x8000 | 1, 1, 15 => 0x8600 | 1, 3, 15 => 0x8D00
  | 2, 0, 0 => 0x8640 | 2, 0, 1 => 0x4000 | 2, 1, 1 => 0x8580 | 2, 1, 2 => 0x8000 | 2, 0, 13 => 0x8010
  | 2, 1, 13 => 0x8010 | 2, 0, 14 => 0x8000 | 2, 1, 15 => 0x8500
  | 3, 0, 0 => 0x8640 | 3, 0, 1 => 0x4000 | 3, 1, 1 => 0x8580 | 3, 0, 13 => 0x8010 | 3, 1, 13 => 0x8010
  | 3, 0, 14 => 0x8000 | 3, 1, 15 => 0x8500
  | _, _, _ => 0

def standardImage (k : Nat) : List (BitVec 16) :=
  (List.range 256).map fun i => BitVec.ofNat 16 (standardEntry k (i / 16) (i % 16))

/-- The table of a class number for a partition on a die. -/
def State.classImage (s : State) (d part k : Nat) : Option (List (BitVec 16)) :=
  if k < 4 then some (standardImage k)
  else ((s.die d).tables.find? fun t => t.1 == part && t.2.1 == k).map fun t => t.2.2

def imageEntry (im : List (BitVec 16)) (st t : Nat) : Nat := (im.getD (16 * st + t) 0).toNat

/-- A malformed image (R267). -/
def imageBad (im : List (BitVec 16)) : Bool :=
  im.length != 256 || im.any fun e => e.toNat % 16 != 0 || (e.getLsbD 5 && e.getLsbD 4)

/-! Fields of an entry (R267). -/
def eLegal (e : Nat) : Bool := e / 2 ^ 15 % 2 == 1
def ePark (e : Nat) : Bool := e / 2 ^ 14 % 2 == 1
def eNext (e : Nat) : Nat := e / 2 ^ 10 % 16
def eAcc (e : Nat) : Nat := e / 2 ^ 8 % 4
def eAcq (e : Nat) : Bool := e / 2 ^ 7 % 2 == 1
def eRel (e : Nat) : Bool := e / 2 ^ 6 % 2 == 1
def eCnt (e : Nat) : Bool := e / 2 ^ 5 % 2 == 1
def eRet (e : Nat) : Bool := e / 2 ^ 4 % 2 == 1

/-- The partition of a virtual device. -/
def State.partOf (s : State) (vdev : Nat) : Nat :=
  match s.service.parts.find? fun p => p.vdev == vdev with
  | some p => p.part
  | none => 0

/-- The partition of a region: that of its owning launch (R262), or of the launch that first created an object in it, else one of
its virtual device, if possible with clusters on its die. -/
def State.partOfRegion (s : State) (r : Region) : Nat :=
  match (r.launch.bind s.launch?).map (fun l => l.part) <|> r.part with
  | some p => p
  | none =>
    match s.service.parts.find? fun p => p.vdev == r.vdev && p.clusters.any fun k => dieOfCluster k == ownerOf r.pa with
    | some p => p.part
    | none => s.partOf r.vdev

/-- The partition whose classes a cellar line obeys: its region's (R266). -/
def State.partOfLine (s : State) (pa : Nat) : Nat :=
  match s.region? pa with
  | some r => s.partOfRegion r
  | none => 0

/-- The partition whose classes a request obeys: its line's, and where no launch has made the region its own, its launch's. -/
def State.partOfReq (s : State) (r : Req) : Nat :=
  match s.region? r.pa with
  | some g => if g.launch.isNone && g.part.isNone then (s.launch? r.launch).elim (s.partOfRegion g) fun l => l.part else s.partOfRegion g
  | none => 0

/-- A region without an owning launch comes under a partition. -/
def State.claimRegion (s : State) (pa part : Nat) : State :=
  s.modDie (ownerOf pa) fun d => { d with regions := d.regions.map fun g =>
    if g.pa ≤ pa && pa < g.pa + g.bytes && g.launch.isNone && g.part.isNone then { g with part := some part } else g }

def liveOf (l : List (Nat × Nat × Nat)) (part k : Nat) : Nat :=
  match l.find? fun x => x.1 == part && x.2.1 == k with
  | some x => x.2.2
  | none => 0

/-- Add to or subtract from a class's live objects (R266). -/
def Die.countLive (d : Die) (part k : Nat) (up : Bool) : Die :=
  let n := liveOf d.live part k
  { d with live := (part, k, if up then n + 1 else n - 1) :: d.live.filter fun x => !(x.1 == part && x.2.1 == k) }

/-! ### Metadata (R265) -/

def Meta.word (m : Meta) : Nat :=
  bit m.stg * 2 ^ 63 + m.cls % 64 * 2 ^ 57 + m.state % 16 * 2 ^ 53 + m.pend % 65536 * 2 ^ 32 + m.count % 65536 * 2 ^ 16
    + m.target % 65536

def State.metaOf (s : State) (pa : Nat) : Meta := (s.die (ownerOf pa)).metas.val (lineOf pa) {}

def State.setMeta (s : State) (pa : Nat) (m : Meta) : State :=
  s.modDie (ownerOf pa) fun d => { d with metas := d.metas.store {} (lineOf pa) m }

/-! ### Judge (R268, R269) -/

inductive Verdict where
  | plain
  | absent
  | fault
  | park
  | done (e : Nat)
deriving DecidableEq, Repr

def ReqKind.permits (k : ReqKind) (acc : Nat) : Bool :=
  match k with
  | .xtr | .arrival | .registration => true
  | .ldt | .load => acc == 1 || acc == 3
  | .stt | .store => acc == 2 || acc == 3
  | .atomic => acc == 3

def ReqKind.mayPark (k : ReqKind) : Bool := k.parks || k == .arrival

/-- Class number and target that a creation supplies (R277). -/
def Req.newClass (r : Req) : Nat := r.e.toNat / 65536 % 64
def Req.newTarget (r : Req) : Nat := r.e.toNat % 65536

def State.judge (s : State) (r : Req) : Verdict :=
  let o := s.metaOf r.pa
  if !s.preciseCellar r.pa || (!o.stg && r.trans != 14) then .plain
  else
    let k := if o.stg then o.cls else r.newClass
    match s.classImage (ownerOf r.pa) (s.partOfReq r) k with
    | none => .absent
    | some im =>
      if r.trans == 14 && o.stg && r.newClass != o.cls then .fault
      else
        let e := imageEntry im (if o.stg then o.state else 0) r.trans
        if !eLegal e || !r.kind.permits (eAcc e) then (if ePark e && r.kind.mayPark then .park else .fault)
        else
          let move := !eCnt e || o.count + 1 ≥ o.target
          if r.kind != .arrival && o.stg && o.pend > 0 && (eRet e || (move && eNext e == 0)) then
            (if r.kind.mayPark then .park else .fault)
          else .done e

/-- The object after a performed entry. -/
def Meta.after (o : Meta) (r : Req) (e : Nat) : Meta :=
  if eRet e then {}
  else if r.trans == 14 then
    { o with stg := true, cls := if o.stg then o.cls else r.newClass, state := eNext e, count := 0, target := r.newTarget }
  else if !eCnt e || o.count + 1 ≥ o.target then { o with state := eNext e, count := 0 }
  else { o with count := o.count + 1 }

/-! ### Data accesses at the home -/

/-- A home's write takes its place and its stamp at once (R324, R328). -/
def State.homeWrite (s : State) (d : Nat) (w : Write) : State := (s.perform d w).stampThrough d fun x => { x with no := w.no } == w

/-- A store or STT that the home performs is stamped at the die of the issuing core, and the home applies it with the
transition (R324, R274); one from another package at the home. R324 names both "STT data" and "staged transition's data write":
a lane's STT goes by the first (DEDUCED, log entry 47). -/
def State.storeWrite (s : State) (d : Nat) (r : Req) (w : Write) : State :=
  match r.src with
  | .remote _ _ _ => s.homeWrite d w
  | _ => let s1 := s.homeWrite r.die w
         s1.applyUpTo d (s1.die r.die).clock

/-- NewValue (R235). -/
def atomicNew (fn : Nat) (ty : Ty) (x e g : Nat) : Nat :=
  let w := ty.width
  let lt (a b : Nat) : Bool := decide (toInt ty.signed w a < toInt ty.signed w b)
  match fn with
  | 0 => (x + e) % 2 ^ w
  | 1 => if lt e x then e else x
  | 2 => if lt x e then e else x
  | 3 => (BitVec.ofNat w x &&& BitVec.ofNat w e).toNat
  | 4 => (BitVec.ofNat w x ||| BitVec.ofNat w e).toNat
  | 5 => (BitVec.ofNat w x ^^^ BitVec.ofNat w e).toNat
  | 6 => e
  | 7 => if x == g then e else x
  | _ => let f := FFmt.of ty; (f.round .rne ((f.value x).add .rne (f.value e))).1

/-- Read, modify, write on die `d`: the old value. -/
def State.atomicAt (s : State) (d : Nat) (r : Req) : State × Nat :=
  let n := r.ty.width / 8
  let x := bytesNat (s.readGlobal d [] r.grade s.free 0 r.pa n)
  let v := atomicNew r.fn r.ty x (elem r.ty.width 0 r.e) (elem r.ty.width 0 r.g)
  ({ s with free := s.free + 1 }.homeWrite d
    { pa := r.pa, bytes := natBytes n v, width := if r.grade = 8 then 0 else r.ty.width }, x)

/-- The strand's own stores that its access must see (R156). -/
def State.srcWrites (s : State) (r : Req) : List Write :=
  match r.src with
  | .lane t j l _ => (s.team? t).elim [] fun tm => s.ownWrites tm j (laneBit l)
  | .uniform t j _ ls => (s.team? t).elim [] fun tm => s.ownWrites tm j (maskOf ls)
  | .job t _ => (s.team? t).elim [] fun tm => tm.shareWrites
  | .remote _ _ _ => []

/-- An AFADD.o's contribution enters its home's reorder buffer (R238). -/
def State.contribute (s : State) (r : Req) : State :=
  s.modCluster (homeOf r.pa) fun k => { k with reorder := k.reorder ++
    [{ launch := r.launch, key := r.key, pa := r.pa, grade := r.grade, ty := r.ty, e := r.e }] }

/-- The data access of a performed request on die `d`, under further writes: the value for its destination. -/
def State.dataAccess (s : State) (d : Nat) (ws : List Write) (r : Req) : State × Option (Word × Bool) :=
  let n := r.ty.width / 8
  match r.kind with
  | .ldt | .load =>
    ({ s with free := s.free + 1 },
      some (extend r.ty (bytesNat (s.readGlobal d ws r.grade s.free 0 r.pa n)), r.tag || r.grade != 8))
  | .stt | .store =>
    (s.storeWrite d r { pa := r.pa, bytes := natBytes n r.e.toNat, width := if r.grade = 8 then 0 else r.ty.width,
                        sheaf := r.sheafNo, lanes := r.lanes, iss := r.seq + 1 }, none)
  | .atomic =>
    if r.fn == 9 && !r.key.isEmpty then (s.contribute r, none)
    else
      let a := s.atomicAt d r
      (a.1, some (extend r.ty a.2, r.tag || r.grade != 8))
  | _ => (s, none)

/-! ### Answers to every kind of source -/

/-- The operation of a remote request's answer: an atomic's, a copy's read data or write acknowledgement, a staged request's (R369). -/
def ReqKind.answerOp : ReqKind → Nat
  | .atomic => 2
  | .load => 6
  | .store => 8
  | _ => 4

/-- A remote request's answer travels back as a message with the request's key (R371, R372, R377; log entry 18). -/
def State.answerRemote (s : State) (pod tag key : Nat) (r : Req) (a : Reply) : State :=
  let v := a.value.elim 0 fun v => v.1
  let m : Msg := { op := r.kind.answerOp, srcPod := s.ownPod, srcDie := ownerOf r.pa, dstDie := r.die, tag := tag, key := key,
                   cause := a.cause, clock := (s.die (ownerOf r.pa)).clock }
  match r.kind with
  | .load => s.post pod false { m with data := if a.cause == 0 then natBytes (r.ty.width / 8) v.toNat else [] }
  | .store => s.post pod false m
  | _ => s.post pod true { m with value := v, lo := bit a.acq }

/-- Change a job of a team on its core, or of a saved one. -/
def State.modJobOf (s : State) (t seq : Nat) (f : Job → Job) : State :=
  { s.modTeam t (fun tm => tm.modJob seq f) with
    saved := s.saved.map fun v => if v.team.key == t then { v with team := v.team.modJob seq f } else v }

/-- An engine arrival has been answered: performed, or discarded with its job failed and the event logged (R272). -/
def State.answerArrival (s : State) (t seq : Nat) (r : Req) (a : Reply) : State :=
  if a.cause == 0 then s.modJobOf t seq fun j => { j with arrived := true }
  else
    (s.modJobOf t seq fun j => { j with arrived := true, state := 3, cause := Cause.stagedFault, addr := r.va }).record
      (ownerOf r.pa) { kind := LogKind.stagedArrivalFault, src := srcDie, addr := r.pa,
                       vdev := (s.region? r.pa).elim 255 fun g => g.vdev,
                       detail := ((seq - 1) % (2 ^ 32 - 1) + 1) % 65536,
                       aux := ((seq - 1) % (2 ^ 32 - 1) + 1) / 65536 }

/-- A job's read or write of a line of a precise cellar has been answered: it has the bytes, or the acknowledgement, or it fails
(R218, R271). The request's `seq` says what the bytes are: 0 a source unit, 1 a CPYR's destination, 2 a word of a decoder's source. -/
def Job.answered (j : Job) (r : Req) (a : Reply) : Job :=
  let bs := natBytes (r.ty.width / 8) (a.value.elim 0 fun v => v.1.toNat)
  let q := { j with waiting := false }
  if a.cause != 0 then { q with fail := some (a.cause, r.va) }
  else if r.kind == .store then { q with acked := true }
  else if r.seq == 0 then { q with source := some bs }
  else if r.seq == 1 then { q with target := some bs }
  else { q with got := q.got ++ [(r.va, bs)] }

def State.answer (s : State) (r : Req) (a : Reply) : State :=
  match r.src with
  | .remote pod tag key => s.answerRemote pod tag key r a
  | .job t seq => if r.kind == .arrival then s.answerArrival t seq r a else s.modJobOf t seq fun j => j.answered r a
  | _ => s.answerLanes r { a with clock := (s.die (ownerOf r.pa)).clock }

/-! ### Performing a judged request -/

/-- An uncorrectable error in the line or its metadata (R276 row 11). -/
def State.lineBad (s : State) (pa : Nat) : Bool :=
  s.poisonAt (lineOf pa) 128 || (s.die (ownerOf pa)).metaBad.has (lineOf pa)

/-- The metadata after a performed request: the entry's effect, and an arrival that is no longer pending. -/
def Meta.performed (o : Meta) (r : Req) (e : Nat) : Meta :=
  let m := o.after r e
  if r.kind == .arrival && !eRet e then { m with pend := m.pend - 1 } else m

/-- A source's stores up to a request of it. -/
def Req.storesBefore (r : Req) (w : Write) : Bool := ofLanes (r.sheafNo / 16) (r.sheafNo % 16) r.lanes w && decide (w.iss ≤ r.seq)

/-- A release side: what the request's lane wrote before it is globally visible, and its home has applied it, before the transition
(R274). -/
def State.releaseSide (s : State) (r : Req) : State :=
  let s1 := s.publishFor r.die (s.laneMark (r.sheafNo / 16) (r.sheafNo % 16) r.lanes)
  s1.applyUpTo (ownerOf r.pa) (s1.die r.die).clock

/-- Perform a request on its object (R269, R277, R278). -/
def State.performStaged (s0 : State) (r : Req) (e : Nat) : State :=
  let h := ownerOf r.pa
  let s := if eRel e && r.src.byPort then s0.releaseSide r else s0
  let o := s.metaOf r.pa
  let m := o.performed r e
  let a := s.dataAccess h [] r
  let s1 := a.1.setMeta r.pa m
  let part := s.partOfReq r
  let s2 := if eRet e then s1.modDie h fun d => d.countLive part (if o.stg then o.cls else r.newClass) false
            else if r.trans == 14 && !o.stg then (s1.claimRegion r.pa part).modDie h fun d => d.countLive part m.cls true else s1
  let val := if r.kind == .xtr then some (BitVec.ofNat 64 (m.word + o.state % 16 * 2 ^ 48), false) else a.2
  s2.answer r { value := val, acq := eAcq e }

/-- The die on whose view a plain access to a plain line acts: the issuing one, for another package's the home (R371). -/
def Req.viewDie (r : Req) : Nat :=
  match r.src with
  | .remote _ _ _ => ownerOf r.pa
  | _ => r.die

/-- A plain access to a plain line: on the issuing die's view, as R151 to R153 and R235 give (R271). Another package's write is
acknowledged as globally visible (R372). -/
def State.performPlain (s : State) (r : Req) : State :=
  match r.kind with
  | .atomic =>
    let a := s.dataAccess (ownerOf r.pa) [] r
    a.1.answer r { value := a.2 }
  | .load =>
    let a := s.dataAccess r.viewDie (s.srcWrites r) r
    a.1.answer r { value := a.2 }
  | _ =>
    let w : Write := { pa := r.pa, bytes := natBytes (r.ty.width / 8) r.e.toNat, width := if r.grade = 8 then 0 else r.ty.width,
                       sheaf := r.sheafNo, lanes := r.lanes, iss := r.seq + 1 }
    (match r.src with
     | .remote _ _ _ => s.homeWrite r.viewDie w
     | _ => s.perform r.die w).answer r {}

/-- A discarded arrival is no longer pending (R272). -/
def State.discardArrival (s : State) (r : Req) : State :=
  let o := s.metaOf r.pa
  (if o.stg then s.setMeta r.pa { o with pend := o.pend - 1 } else s).answer r { cause := Cause.stagedFault }

/-- The virtual device of a launch; 255 for none. -/
def State.vdevOfLaunch (s : State) (n : Nat) : Nat := (s.launch? n).elim 255 fun l => l.vdev

/-- A request meets an uncorrectable error of its line. -/
def State.cellarError (s : State) (r : Req) : State := s.cellarErrorAt (lineOf r.pa) 128 (s.vdevOfLaunch r.launch)

/-- A request's queue entry holds an uncorrectable error: the service sheaf logs it (R247). -/
def State.entryErrorAt (s : State) (r : Req) : State :=
  s.record (ownerOf r.pa)
    { kind := LogKind.serviceError, src := srcCluster (homeOf r.pa), addr := r.pa, vdev := s.vdevOfLaunch r.launch }

/-- Judge a request and act: `none` when it parks. -/
def State.tryRequest (s0 : State) (r : Req) : Option State :=
  let s := s0.applyUpTo (ownerOf r.pa) r.clock
  if r.bad then
    let s1 := s.entryErrorAt r
    some (if r.kind == .arrival then s1.discardArrival r else s1.answer r { cause := Cause.uncorrectable })
  else
    match s.judge r with
    | .plain =>
      some (if r.kind == .arrival then s.discardArrival r
            else if r.kind.parks then s.answer r { cause := Cause.notStaged }
            else if s.poisonAt r.pa (r.ty.width / 8) && r.kind != .store then
              (s.cellarError r).answer r { cause := Cause.uncorrectable }
            else s.performPlain r)
    | .absent => some (if r.kind == .arrival then s.discardArrival r else s.answer r { cause := Cause.classAbsent })
    | .fault => some (if r.kind == .arrival then s.discardArrival r else s.answer r { cause := Cause.stagedFault })
    | .park => none
    | .done e =>
      some (if s.lineBad r.pa then
              (if r.kind == .arrival then (s.cellarError r).discardArrival r
               else (s.cellarError r).answer r { cause := Cause.uncorrectable })
            else s.performStaged r e)

/-! ### Park queues (R270) -/

def State.parked (s : State) (line : Nat) : List Req := (s.die (ownerOf line)).parkq.val line []

def State.setParked (s : State) (line : Nat) (q : List Req) : State :=
  s.modDie (ownerOf line) fun d => { d with parkq := d.parkq.store [] line q }

/-- Walk from place `n` of the queue; after each performed request that changed the object it starts again at the head. -/
def State.walkFrom (line : Nat) : Nat → Nat → State → State
  | 0, _, s => s
  | fuel + 1, n, s =>
    match (s.parked line)[n]? with
    | none => s
    | some r =>
      match s.tryRequest r with
      | none => State.walkFrom line fuel (n + 1) s
      | some s1 =>
        let s2 := s1.setParked line ((s.parked line).eraseIdx n)
        if s1.metaOf line != s.metaOf line then State.walkFrom line fuel 0 s2 else State.walkFrom line fuel n s2

/-- Each round takes one request out or passes one; at most the square of the queue's length plus one. -/
def State.walk (s : State) (line : Nat) : State :=
  let n := (s.parked line).length + 1
  State.walkFrom line (n * n) 0 s

/-- Requests parked at the homes of a cluster. -/
def State.parkedCount (s : State) (k : Nat) : Nat :=
  ((s.die (dieOfCluster k)).parkq.filter fun (e : Nat × List Req) => homeOf e.1 == k).foldl (fun n e => n + e.2.length) 0

/-- A request that the home judges: performed or answered with a fault, with a walk of the park queue when the object has
changed; or it parks at the tail. -/
def State.joinQueue (s : State) (r : Req) : State :=
  let line := lineOf r.pa
  match s.tryRequest r with
  | some s1 => if s1.metaOf line != s.metaOf line then s1.walk line else s1
  | none => s.setParked line (s.parked line ++ [r])

/-- While a cluster's park queues have room, the first request that waits at its sender joins (R270): the home judges it as it
arrives. Each round takes one. -/
def State.refillParked (k : Nat) : Nat → State → State
  | 0, s => s
  | n + 1, s =>
    match (s.cluster k).overflow with
    | [] => s
    | r :: rest =>
      if s.parkedCount k < 4096 then
        State.refillParked k n ((s.modCluster k fun c => { c with overflow := rest }).joinQueue r)
      else s

/-- Room that has freed anywhere is taken (R270). -/
def State.refillAll (s : State) : State :=
  s.clusters.foldl (fun (x : State) (e : Nat × Cluster) => State.refillParked e.1 e.2.overflow.length x) s

/-- A request that arrives: performed, answered with a fault, or parked at the tail; without room it waits at its sender. -/
def State.arrive (s : State) (r : Req) : State :=
  let k := homeOf r.pa
  let s1 := if s.parkedCount k < 4096 || (s.tryRequest r).isSome then s.joinQueue r
            else s.modCluster k fun c => { c with overflow := c.overflow ++ [r] }
  State.refillParked k (s1.cluster k).overflow.length s1

/-! ### Events of a home -/

/-- A held store takes its place after what goes before it in its strand: overlapping stores, fences, atomics (R156, R159,
R236). -/
def State.storesClear (s : State) (r : Req) : Bool :=
  let w : Write := { r.span with sheaf := r.sheafNo, lanes := r.lanes, iss := r.seq + 1 }
  !(s.stores.any fun x => x.2.before w) && !s.writeHeld w

/-- What a release side makes visible first can be: the lane's earlier atomics are performed and nothing else holds its stores (R274). -/
def State.releaseClear (s : State) (r : Req) : Bool :=
  match s.judge r with
  | .done e => !(eRel e && r.src.byPort) ||
      ((s.atomicsOf r.sheafNo r.lanes r.seq).isEmpty && (s.loadsOf r.sheafNo r.lanes r.seq).isEmpty && s.canFlush r.storesBefore)
  | _ => true

/-- Take the head of a running service sheaf's queue when it is of a kind. -/
def State.headOf (s : State) (k : Nat) (p : ReqKind → Bool) : Option (Req × State) :=
  if (s.cluster k).halted then none
  else match (s.cluster k).queue with
    | [] => none
    | r :: rest => if p r.kind then some (r, s.modCluster k fun c => { c with queue := rest }) else none

/-- The team whose lane or job made a request settles after the answer. -/
def State.settleSrc (s : State) (r : Req) : State :=
  match r.src with
  | .lane t _ _ _ => s.settled t
  | .uniform t _ _ _ => s.settled t
  | .job t _ => s.settled t
  | .remote _ _ _ => s

/-- STAGED_REQUEST: the home takes the next load, store, LDT, STT or XTR of its queue (R269, R271). -/
def execStagedRequest (k : Nat) (s : State) : Out :=
  match s.headOf k fun q => q == .load || q == .store || q.parks with
  | none => .next s
  | some (r, s1) => .next (if (r.kind == .store && !s.storesClear r) || !s.releaseClear r then s else (s1.arrive r).settleSrc r)

/-- ATOMIC_SERVE: the service sheaf performs the next atomic of its queue (R231, R235). -/
def execAtomicServe (k : Nat) (s : State) : Out :=
  match s.headOf k fun q => q == .atomic with
  | none => .next s
  | some (r, s1) => .next ((s1.arrive r).settleSrc r)

/-- ENGINE_ARRIVAL: the home takes the next arrival of its queue (R272). -/
def execEngineArrival (k : Nat) (s : State) : Out :=
  match s.headOf k fun q => q == .arrival with
  | none => .next s
  | some (r, s1) => .next ((s1.arrive r).settleSrc r)

/-! ### Retirement with a region (R273) -/

def State.retireLine (s : State) (line : Nat) : State :=
  let o := s.metaOf line
  if !o.stg then s
  else ((s.setMeta line {}).modDie (ownerOf line) fun d => d.countLive (s.partOfLine line) o.cls false).walk line

/-- Every object of a region retires at once. -/
def State.retireRegion (s : State) (g : Region) : State :=
  ((s.die (ownerOf g.pa)).metas.filter fun e => g.pa ≤ e.1 && e.1 < g.pa + g.bytes).foldl
    (fun (x : State) e => x.retireLine e.1) s

/-! ### Stage queues (R284, R285) -/

/-- Slots of a queue region in state FULL, and slots not EMPTY. -/
def State.queueCounts (s : State) (g : Region) : Nat × Nat :=
  let slots := (s.die (ownerOf g.pa)).metas.filter fun (e : Nat × Meta) =>
    g.pa + 128 ≤ e.1 && e.1 < g.pa + g.bytes && e.2.stg && e.2.cls == 1
  ((slots.filter fun (e : Nat × Meta) => e.2.state == 2).length, (slots.filter fun (e : Nat × Meta) => e.2.state != 0).length)

/-! ### Withdrawal (R279) -/

/-- Remove a request from the queues of the homes. -/
def State.dropRequest (s : State) (id : Nat) : State :=
  let keep (l : List Req) : List Req := l.filter fun r => r.id != id
  { s with
    clusters := s.clusters.map fun (e : Nat × Cluster) =>
      (e.1, { e.2 with queue := keep e.2.queue, overflow := keep e.2.overflow }),
    dies := s.dies.map fun (e : Nat × Die) =>
      (e.1, { e.2 with parkq := (e.2.parkq.map fun (q : Nat × List Req) => (q.1, keep q.2)).filter fun q => !q.2.isEmpty }) }

/-- A lane's instruction has not been performed: the lane stands at it again, held at its safe point. -/
def Sheaf.unpark (sh : Sheaf) (l : Nat) : Sheaf :=
  { (sh.modStrand l fun st => { st with run := .active, park := .nothing }) with safeAt := sh.safeAt ||| laneBit l }

/-- The message tag of a remote request. -/
def State.remoteTag (s : State) (id : Nat) : Option Nat := (s.fabric.waits.find? fun w => w.2.id == id).map Prod.fst

/-- Withdraw a parked lane's request: the home takes the withdrawal in its order of arrival, after it has judged the
request. A remote one is asked of its own home (log entry 18); until the answer comes the lane
stays parked. -/
def State.withdraw (s : State) (t j l : Nat) : State :=
  match s.team? t with
  | none => s
  | some tm =>
    match ((tm.sheaf j).strand l).park with
    | .request id =>
      match s.remoteTag id with
      | none =>
        if s.clusters.any fun (e : Nat × Cluster) => e.2.queue.any fun r => r.id == id then s
        else (s.dropRequest id).modSheaf t j fun sh => sh.unpark l
      | some tag =>
        if s.fabric.held.any fun h => h.1 == tag then (s.closeRemote tag).modSheaf t j fun sh => sh.unpark l
        else match s.fabric.waits.find? fun w => w.1 == tag with
          | none => s
          | some w => (match s.window? w.2.pa with
            | none => s
            | some x =>
              if s.fabric.withdrawn.contains tag then s
              else { s with fabric := { s.fabric with withdrawn := tag :: s.fabric.withdrawn } }.post x.1 true
                { op := 3, srcPod := s.ownPod, srcDie := w.2.die, tag := tag, key := x.2.1, vdev := x.2.2.1, va := x.2.2.2, fn := 3 })
    | _ => s

/-- REQUEST_WITHDRAWAL: a decision needs a lane that is parked on a request. -/
def execRequestWithdrawal (t j lane : Nat) (s : State) : Out :=
  match s.team? t with
  | none => .next s
  | some tm =>
    if tm.deciding && isParked ((tm.sheaf j).strand lane).run then .next (s.withdraw t j lane) else .next s

/-! ### Failures of a service sheaf (R247) -/

/-- SERVICE_SHEAF_HALT: it serves nothing until it is restarted. -/
def execServiceSheafHalt (k : Nat) (s : State) : Out := .next (s.modCluster k fun c => { c with halted := true })

/-- SERVICE_SHEAF_RESTART: queued requests have survived; the event is logged. -/
def execServiceSheafRestart (k : Nat) (s : State) : Out :=
  if (s.cluster k).halted then
    .next ((s.modCluster k fun c => { c with halted := false }).record (dieOfCluster k)
      { kind := LogKind.serviceError, src := srcCluster k, detail := 2 })
  else .next s

end Sys2Proof.Machine
end

