-- ==== Sys2Proof/Machine/Atomic.lean ====
section
/-! DEFINITION. Atomics (R232 to R237, R241), and flush points (R239, R240). -/

namespace Sys2Proof.Machine

/-! ### Addresses and registers of format X -/

def Iss.xAddr (i : Iss) (o : OpX) (l : Nat) : Nat :=
  let b : Word := match o.base with | some k => (i.sh.u k).bits | none => 0
  let x : Word := match o.index with | some k => (i.sh.v l k).bits | none => 0
  (b + x).toNat

/-- Vector registers that an issue of format X reads in a lane. -/
def xReads (o : OpX) (e g : Bool) : List Nat :=
  (match o.index with | some k => [k] | none => []) ++ (if e then [o.e] else []) ++ (if g then [o.g] else [])

/-- The register-range check of R83. -/
def xRange (o : OpX) (d e g : Bool) (w : Nat) : Option Nat :=
  if (match o.index with | some k => decide (k ≥ w) | none => false) || (d && o.d ≥ w) || (e && o.e ≥ w) || (g && o.g ≥ w)
  then some Cause.registerRange else none

/-! ### Issue (R234) -/

/-- Judge a lane of an atomic: rows 1 to 6, and row 7 for a contribution, whose operand its home reads when it takes it. A
register's ECC error is judged before row 1 (DESIGN CHOICE, log entry 13). -/
def Iss.judgeAtomic (i : Iss) (s : State) (o : OpX) (fn : Nat) : List Judged :=
  let cas := fn == 7
  i.on.map fun l =>
    let a := i.xAddr o l
    { lane := l, addr := a,
      acc := if i.poisoned l (xReads o true cas) then .fault Cause.uncorrectable
             else if i.addrTag o.base o.index l then .fault Cause.aAddr
             else match i.globalAcc s true true true (o.ty.width / 8) l a with
               | .go m pa g =>
                 if g == 8 && i.aG.contains l then .fault Cause.aGuard
                 else if g == 8 && ((i.sh.v l o.e).tag || (cas && (i.sh.v l o.g).tag)) then .fault Cause.aAtomval
                 else if fn == 9 && !s.preciseCellar pa && !isFabric pa && s.poisonAt pa (o.ty.width / 8) then
                   .fault Cause.uncorrectable
                 else .go m pa g
               | x => x }

/-- The key of a contribution: stage, lid.team, lid.sheaf, lane, sequence index (R237). -/
def Iss.key (i : Iss) (l : Nat) : List Nat := [i.tm.stage, i.tm.lid, i.j, l, (i.sh.strand l).seqIdx.toNat]

/-- The requests of an issue, in ascending lane order (R231). -/
def Iss.atomicReqs (i : Iss) (fn : Nat) (writes : Bool) (o : OpX) (s : State) (js : List Judged) : List Req :=
  (numbered s.ids (js.filter fun x => match x.acc with
    | .go _ _ _ => true
    | _ => false)).filterMap fun x => match x.2.acc with
    | .go m pa g => some
        { id := x.1
          kind := .atomic
          src := .lane i.t i.j x.2.lane i.seq
          seq := i.seq
          pa := pa
          va := m.elim 0 fun q => q.va + (pa - q.pa)
          grade := g
          staged := s.preciseCellar pa
          ty := o.ty
          fn := fn
          trans := 15
          e := (i.sh.v x.2.lane o.e).bits
          g := (i.sh.v x.2.lane o.g).bits
          dst := if writes then .v (i.sh.ring x.2.lane o.d) else .none
          tag := (i.sh.v x.2.lane o.e).tag || (fn == 7 && (i.sh.v x.2.lane o.g).tag) || i.aG.contains x.2.lane
          die := i.die
          clock := (s.die i.die).clock
          launch := i.tm.launch
          key := if fn == 9 then i.key x.2.lane else [] }
    | _ => none

/-- Lanes in whose d the instruction writes occupy a return slot until the result is written (R232). -/
def Iss.takeSlots (i : Iss) (ls : List Nat) (s : State) : State :=
  i.lanes ls (fun st => { st with slots := st.slots + 1 }) s

/-- A request may be sent: every earlier write of its lane can be made visible, its atomics and its earlier loads of the bytes are
performed, and no request of its issue stands before it (R156, R231, R328). -/
def State.maySend (s : State) (r : Req) : Bool :=
  (s.atomicsOf r.sheafNo r.lanes r.seq).isEmpty &&
  s.canFlush r.storesBefore &&
  !((s.loadsOf r.sheafNo r.lanes r.seq).any fun l => r.span.overlaps l.span) &&
  !((s.sending.takeWhile fun q => q.id != r.id).any fun q => q.sheafNo == r.sheafNo && q.seq == r.seq)

/-- Send a request: the lane's earlier writes are globally visible, it carries the die's clock, and it takes its place at its
home or, as a contribution, in the home's reorder buffer (R238, R328); a contribution whose operand is poisoned is refused. -/
def State.dispatch (s : State) (r0 : Req) : State :=
  let s1 := s.publish r0.die r0.storesBefore
  let r := { r0 with clock := (s1.die r0.die).clock }
  if r.direct then
    let s2 := s1.applyUpTo (ownerOf r.pa) r.clock
    if s2.poisonAt r.pa (r.ty.width / 8) then s2.answerLanes r { cause := Cause.uncorrectable } else s2.contribute r
  else s1.request r 1

/-- Send the request of a number, if its turn has come: of those that no memory port has sent, the first that waits for its home goes
when the queue has room (R231). -/
def State.trySend (s : State) (id : Nat) : State :=
  match s.sending.find? fun r => r.id == id with
  | none => s
  | some r =>
    let s1 := { s with sending := s.sending.filter fun q => q.id != id }
    if r.src.byPort then (if s.maySend r then s1.dispatch r else s)
    else
      let h := homeOf r.pa
      let w := s1.waitingFor h
      if ((s.waitingFor h).find? fun q => !q.src.byPort) == some r && (s.cluster h).queue.length + w.length < 1024 then
        s1.modCluster h fun k => { k with queue := k.queue ++ [r] }
      else s

/-- The requests of an issue, in ascending lane order: each is sent as soon as it may be. An access of a precise cellar line
holds the sheaf (R271). -/
def Iss.sendAtomics (i : Iss) (rs : List Req) (s : State) : State :=
  let s1 := rs.foldl (fun (x : State) r => x.trySend r.id) { s with ids := s.ids + rs.length, sending := s.sending ++ rs }
  let ids := (rs.filter fun r => r.staged).map fun r => r.id
  if ids.isEmpty then s1 else s1.modSheaf i.t i.j fun sh => { sh with hold := .home ids }

/-- An atomic of member `fn`: its checks, its result and its requests; every request follows its lane's earlier writes
(R328). In a phased launch AFADD acts as AFADD.o (R241). Only a member that writes d leaves a result outstanding (R238). -/
def atomicInstr (fn0 : Nat) (c : Ctl) (o : OpX) (s : State) : Out :=
  issueCommitted (fun i => i.once) c s (fun i => xRange o (fn0 != 9) true (fn0 == 7) i.sh.w) fun i s1 =>
    let fn := if fn0 == 8 && i.tm.st.phased then 9 else fn0
    let writes := fn != 9
    let js := i.judgeAtomic s1 o fn
    let ls := js.filterMap fun x => match x.acc with
      | .go _ _ _ => some x.lane
      | _ => none
    let rs := i.atomicReqs fn writes o s1 js
    let ws := if writes then i.wrV o.d [] fun _ => (0, false) else []
    let p : Pending := { seq := i.seq, writes := ws, waits := rs.length, slotOf := maskOf ls }
    let s2 := i.park (i.accParks false js)
      ((i.reads (xReads o true (fn0 == 7))).finish (if !writes || (rs.isEmpty && ws.isEmpty) then none else some p) (i.accFaults false js) (fillAll i.core js s1))
    let s3 := if writes then i.takeSlots ls s2 else i.lanes ls (fun st => { st with seqIdx := st.seqIdx + 1 }) s2
    i.sendAtomics rs s3

def execAadd (c : Ctl) (o : OpX) (s : State) : Out := atomicInstr 0 c o s
def execAmin (c : Ctl) (o : OpX) (s : State) : Out := atomicInstr 1 c o s
def execAmax (c : Ctl) (o : OpX) (s : State) : Out := atomicInstr 2 c o s
def execAand (c : Ctl) (o : OpX) (s : State) : Out := atomicInstr 3 c o s
def execAor (c : Ctl) (o : OpX) (s : State) : Out := atomicInstr 4 c o s
def execAxor (c : Ctl) (o : OpX) (s : State) : Out := atomicInstr 5 c o s
def execAxchg (c : Ctl) (o : OpX) (s : State) : Out := atomicInstr 6 c o s
def execAcas (c : Ctl) (o : OpX) (s : State) : Out := atomicInstr 7 c o s
def execAfadd (c : Ctl) (o : OpX) (s : State) : Out := atomicInstr 8 c o s
def execAfaddO (c : Ctl) (o : OpX) (s : State) : Out := atomicInstr 9 c o s

/-! ### Flush points (R239, R240) -/

/-- Field-by-field order of keys (R237), after the location. -/
def listLt : List Nat → List Nat → Bool
  | [], [] => false
  | [], _ :: _ => true
  | _ :: _, [] => false
  | a :: r, b :: q => a < b || (a == b && listLt r q)

def Contribution.before (a b : Contribution) : Bool := listLt (a.pa :: a.key) (b.pa :: b.key)

def insertContribution (c : Contribution) : List Contribution → List Contribution
  | [] => [c]
  | x :: r => if c.before x then c :: x :: r else x :: insertContribution c r

def sortContributions (l : List Contribution) : List Contribution := l.foldr insertContribution []

/-- One contribution, as AFADD's NewValue from the location's value at that moment. -/
def State.applyContribution (s : State) (c : Contribution) : State :=
  (s.atomicAt (ownerOf c.pa) { pa := c.pa, grade := c.grade, ty := c.ty, fn := 8, e := c.e }).1

/-- One reorder buffer applies a launch's contributions in ascending key order and frees them. -/
def State.flushCluster (s : State) (launch k : Nat) : State :=
  let mine := (s.cluster k).reorder.filter fun c => c.launch == launch
  let s1 := s.modCluster k fun c => { c with reorder := c.reorder.filter fun x => x.launch != launch }
  (sortContributions (mine.filter fun c => !c.bad)).foldl (fun (x : State) c => x.applyContribution c) s1

/-- What is left of a saved team that ends: its jobs, which hold nothing of a core. -/
def Team.jobsOnly (tm : Team) : Team :=
  { tm with sheaves := [], matrix := {}, granA := [], granP := [], jobWait := [], guarded := none, grade := 8, gradeReq := [], gradeWait := [],
            levelWait := [], preempt := .none, saveAsk := none, waitsRail := false, railAnswer := none, resuming := 0, killed := true }

/-- A saved team ends without being placed, counted in KILLED. Its launch still waits for its jobs (R346, R395): those in flight run
from the contents that the save kept (DESIGN CHOICE, log entry 49). -/
def State.endSaved (s : State) (t cause : Nat) : State :=
  match s.saved.find? fun v => v.team.key == t with
  | none => s
  | some v =>
    let s1 := { s with saved := s.saved.filter fun y => y.team.key != t }.countKilled v.team.launch cause
    if v.team.jobs.all Job.settled then
      s1.modStage v.team.launch v.team.stage fun g => { g with ended := g.ended ++ [v.team.lid] }
    else s1.setTeam v.team.jobsOnly

/-- End every team of a launch with a cause, a team not yet placed included (R247, R395). -/
def State.killLaunch (s : State) (n cause : Nat) : State :=
  let ts := (s.teams.filter fun (e : Nat × Team) => e.2.launch == n).map Prod.fst
  let s1 := ts.foldl (fun (x : State) t => (x.killTeam t cause).settled t) s
  let s2 := ((s1.saved.filter fun x => x.team.launch == n).map fun v => v.team.key).foldl (fun (x : State) t => x.endSaved t cause) s1
  match s2.launch? n with
  | none => s2
  | some l =>
    let left := l.stages.foldl (fun k g => k + (g.teams - g.nextLid)) 0
    s2.modLaunch n fun x =>
      { x with killed := x.killed + left, cause := if x.cause == 0 && left != 0 then cause else x.cause,
               stages := x.stages.map fun g => { g with ended := g.ended ++ (List.range (g.teams - g.nextLid)).map fun k => g.nextLid + k,
                                                        nextLid := g.teams } }

/-- Clusters whose reorder buffers hold contributions of a launch: those of its partition, and homes of its lines elsewhere
(R230, R239, R240). -/
def State.holders (s : State) (n : Nat) : List Nat :=
  (s.clusters.filter fun (e : Nat × Cluster) => e.2.reorder.any fun c => c.launch == n).map Prod.fst

/-- A flush point of a launch on every reorder buffer; an uncorrectable entry ends the launch (R239, R247). -/
def State.flushLaunch (s : State) (n : Nat) : State :=
  match s.launch? n with
  | none => s
  | some l =>
    let ks := s.holders n
    let bad := ks.filter fun k => (s.cluster k).reorder.any fun c => c.launch == n && c.bad
    let s1 := ks.foldl (fun (x : State) k => x.flushCluster n k) s
    let s2 := bad.foldl (fun (x : State) k => x.record (dieOfCluster k)
      { kind := LogKind.serviceError, src := srcCluster k, detail := 1, vdev := l.vdev }) s1
    if bad.isEmpty then s2
    else (s2.killLaunch n Cause.uncorrectable).modLaunch n fun x => { x with cause := if x.cause == 0 then Cause.uncorrectable else x.cause }

/-- Every die's clock merged. -/
def State.allClocks (s : State) : List Nat := allDies.foldl (fun c d => clockMax c (s.die d).clock) []

/-- AFLUSH: once per issue, when the guard is true in some lane; an outstanding result until every application is in every
die's view. -/
def execAflush (c : Ctl) (_o : OpX) (s : State) : Out :=
  issueCommitted (fun i => i.once) c s ok1 fun i s1 =>
    if i.on.isEmpty then i.finish none [] s1
    else
      let s2 := (s1.publishLanes i.die i.t i.j i.on).flushLaunch i.tm.launch
      let s3 := i.finish (some i.awaited) [] s2
      { s3 with finishes := s3.finishes ++ [{ cover := s3.allClocks, t := i.t, j := i.j, seq := i.seq }] }

end Sys2Proof.Machine
end

