-- ==== Sys2Proof/Machine/MatrixFam.lean ====
section
/-! DEFINITION. The matrix array: records, tiles and bins (R187 to R191), the sequencer and its entries (R192 to R195), the
instructions WLD to SCAN (R198 to R211), and chains (R242 to R247). -/

namespace Sys2Proof.Machine

/-! ### Records and tiles (R189, R190) -/

/-- Elements of a record. -/
def recordK (ty : Ty) : Nat := if ty == .tb4 then 128 else 64

/-- Size of a record in bytes. -/
def recordSize (ty : Ty) (pair : Bool) : Nat :=
  if pair then 512
  else match ty with
    | .f64 => 512
    | .f32 => 256
    | _ => 128

def planesOf (ty : Ty) : Nat := if ty == .f32 then 2 else 1

def latchFmt : Ty → Nat
  | .tb8 => 1
  | .tb4 => 2
  | .bf16 => 3
  | .f16 => 4
  | .f32 => 5
  | _ => 0

/-- The values of a record whose byte o is `get o`. -/
def recordValues (ty : Ty) (get : Nat → Byte) : List FV :=
  let num (o n : Nat) : Nat := bytesNat ((List.range n).map fun k => get (o + k))
  match ty with
  | .tb8 => (List.range 64).map fun k => tbValue true (num k 1) (num (64 + 2 * (k / 32)) 1) (num (65 + 2 * (k / 32)) 1)
  | .tb4 => (List.range 128).map fun k =>
      tbValue false (num (k / 2) 1 / 16 ^ (k % 2) % 16) (num (64 + 2 * (k / 32)) 1) (num (65 + 2 * (k / 32)) 1)
  | .bf16 => (List.range 64).map fun k => FFmt.bf16.value (num (2 * k) 2)
  | .f16 => (List.range 64).map fun k => FFmt.f16.value (num (2 * k) 2)
  | _ => (List.range 64).map fun k => FFmt.f32.value (num (4 * k) 4)

def fvOne : FV := .fin false 1 0
def fvZero : FV := .fin false 0 0

/-- Column n of a latch's tile: the loaded image, the ones tile or the triangular tile (R187, R206). -/
def Latch.column (w : Latch) (ty : Ty) (n : Nat) : List FV :=
  match w.kind with
  | 0 => recordValues ty fun o => w.tile.val (8192 * (o / 128) + 128 * n + o % 128) 0
  | 1 => (List.range (recordK ty)).map fun _ => fvOne
  | _ => (List.range (recordK ty)).map fun k => if k ≤ n then fvOne else fvZero

/-! ### One element of an MMA (R204) -/

/-- Block b of a list of products. -/
def blockOf (ps : List FV) (b : Nat) : List FV := (ps.drop (32 * b)).take 32

/-- Accumulate the products of one row and one column into a pair. -/
def mmaElem (ty : Ty) (apx : Bool) (g draw idx : Nat) (ps : List FV) (p : Nat × Nat) : Nat × Nat :=
  let blocks := (List.range (recordK ty / 32)).map fun b => (b, blockOf ps b)
  if apx then
    blocks.foldl (fun q b =>
      let v := rn32 (sumFV [val32 q.1, val32 q.2, sumFV b.2])
      (expose .f32 g draw (idx * 4 + b.1) v, 0)) p
  else if ty == .f32 then ps.foldl (fun q x => accBlock q.1 q.2 x) p
  else blocks.foldl (fun q b => accBlock q.1 q.2 (sumFV b.2)) p

def binKey (z row col : Nat) : Nat := z * 4096 + row * 64 + col

def Matrix.pair (m : Matrix) (z row col : Nat) : Nat × Nat := m.bins.val (binKey z row col) (0, 0)

def Matrix.setPair (m : Matrix) (z row col : Nat) (p : Nat × Nat) : Matrix :=
  { m with bins := m.bins.store (0, 0) (binKey z row col) p }

def Matrix.latch (m : Matrix) (k : Nat) : Latch := if k = 0 then m.latch0 else m.latch1

def Matrix.setLatch (m : Matrix) (k : Nat) (w : Latch) : Matrix :=
  if k = 0 then { m with latch0 := w } else { m with latch1 := w }

def setBit16 (w : BitVec 16) (k : Nat) (b : Bool) : BitVec 16 :=
  if b then w ||| BitVec.ofNat 16 (2 ^ k) else w &&& ~~~(BitVec.ofNat 16 (2 ^ k))

def Matrix.orTag (m : Matrix) (z : Nat) (b : Bool) : Matrix :=
  { m with binTag := setBit16 m.binTag z (m.binTag.getLsbD z || b) }

/-- Array work on one row: `vals` is the row's record. -/
def Matrix.mmaRow (m : Matrix) (e : SeqEntry) (draw j row : Nat) (vals : List FV) : Matrix :=
  let w := m.latch e.latch
  (List.range 64).foldl (fun x n =>
    let ps := List.zipWith FV.mul vals (w.column e.ty n)
    x.setPair e.z row n (mmaElem e.ty e.apx e.grade draw (j * 64 + n) ps (x.pair e.z row n))) m

/-! ### Descriptors (R198) -/

def descRows (d : Word) : Nat := d.toNat % 128
def descFirst (d : Word) : Nat := d.toNat / 128 % 64
def descStride (d : Word) : Nat := d.toNat / 65536 % 65536

/-- R198's limits on bits 31:0. -/
def descBad (d : Word) (size : Nat) : Bool :=
  d.toNat / 8192 % 8 != 0 || descRows d == 0 || descRows d > 64 || descFirst d + descRows d > 64 ||
  descStride d < size / 128

/-- Larder address of row record j. -/
def rowAddr (a : Nat) (d : Word) (j : Nat) : Nat := a + 128 * descStride d * j

/-- Bytes from sA to the last record's end. -/
def rowsSpan (d : Word) (size : Nat) : Nat := 128 * descStride d * (descRows d - 1) + size

/-! ### Reading records (R195, R48) -/

/-- A record's bytes, line by line. -/
def Team.recordBytes (tm : Team) (draw salt a size : Nat) : List Byte :=
  (List.range (size / 128)).flatMap fun k => tm.readLarder draw salt (a + 128 * k) 128

/-- Some row record touches the approximate part of the larder. -/
def Team.rowsApprox (tm : Team) (a : Nat) (d : Word) : Bool :=
  (List.range (descRows d)).any fun j => rowAddr a d j < tm.st.larderA

/-- Some row record touches the precise part. -/
def Team.rowsPrecise (tm : Team) (a : Nat) (d : Word) (size : Nat) : Bool :=
  (List.range (descRows d)).any fun j => rowAddr a d j + size > tm.st.larderA

/-! ### Conflicts between entries (R192) -/

/-- Two ranges share a byte; an empty one shares none. -/
def rangesMeet (a b : Nat × Nat) : Bool := a.2 != 0 && b.2 != 0 && a.1 < b.1 + b.2 && b.1 < a.1 + a.2

def SeqEntry.latches (e : SeqEntry) : List Nat :=
  match e.op with
  | .wswp => [0, 1]
  | .wld | .mma | .rdc | .scan | .chain => [e.latch]
  | _ => []

def SeqEntry.usesBin (e : SeqEntry) : Bool :=
  match e.op with
  | .wld | .wswp => false
  | _ => true

def SeqEntry.array (e : SeqEntry) : Bool :=
  match e.op with
  | .mma | .rdc | .scan | .chain => true
  | _ => false

def SeqEntry.pair (e : SeqEntry) : Bool := e.x % 2 == 1 && (e.op == .zrd || e.op == .zwr)

def SeqEntry.recSize (e : SeqEntry) : Nat := recordSize e.ty e.pair

/-- The larder bytes that an entry reads or writes: start and length. -/
def SeqEntry.larder (e : SeqEntry) : Nat × Nat :=
  match e.op with
  | .wld => if e.x % 2 == 1 then (e.addr, 8192 * planesOf e.ty) else (0, 0)
  | .wswp | .zclr => (0, 0)
  | _ => (e.addr, rowsSpan e.desc e.recSize)

def SeqEntry.touchesLarder (e : SeqEntry) : Bool := e.larder.2 != 0

/-- Attic bytes that a job writes (R216). -/
def Job.attic (j : Job) : Nat × Nat :=
  if j.kind == .dec then (j.d1.toNat, 8192 * (j.d2.toNat / 2 ^ 32 % 65536))
  else if j.d3.toNat / 16 % 16 == 3 then
    (j.d1.toNat, if j.kind == .cpos then 8 * (j.d2.toNat / 65536 % 65536) * (j.d2.toNat % 65536) else j.d2.toNat % 2 ^ 32)
  else (0, 0)

/-- Attic bytes that a WLD reads: its tile image. -/
def SeqEntry.attic (e : SeqEntry) : Nat × Nat :=
  if e.op == .wld && e.x % 2 == 0 then (e.addr, 8192 * planesOf e.ty) else (0, 0)

/-- A WLD from the attic waits for earlier-issued jobs in flight that write its image (R216). -/
def Team.jobBlocks (tm : Team) (e : SeqEntry) : Bool :=
  tm.jobs.any fun j => j.state < 2 && j.seq < e.jobs && rangesMeet j.attic e.attic

/-- The later entry waits for the earlier: one latch, one bin, or larder bytes that one of them writes. -/
def SeqEntry.conflicts (e f : SeqEntry) : Bool :=
  (e.latches.any fun k => f.latches.contains k) || (e.usesBin && f.usesBin && e.z == f.z) ||
  ((e.op == .zrd || f.op == .zrd) && rangesMeet e.larder f.larder)

def Matrix.entry? (m : Matrix) (id : Nat) : Option SeqEntry := m.queue.find? fun e => e.id == id

def Matrix.modEntry (m : Matrix) (id : Nat) (f : SeqEntry → SeqEntry) : Matrix :=
  { m with queue := m.queue.map fun e => if e.id == id then f e else e }

def State.modMatrix (s : State) (t : Nat) (f : Matrix → Matrix) : State :=
  s.modTeam t fun tm => { tm with matrix := f tm.matrix }

/-! ### Issue (R199 to R201) -/

/-- The tags of what a WLD or a row-reading entry reads. -/
def Team.entryApprox (tm : Team) (e : SeqEntry) : Bool :=
  match e.op with
  | .wld => e.x % 2 == 1 && decide (e.addr < tm.st.larderA)
  | .mma | .rdc | .scan | .zwr | .chain => tm.rowsApprox e.addr e.desc
  | _ => false

def Matrix.issuedOf (m : Matrix) (k : Nat) : Nat × Bool := if k = 0 then m.issued0 else m.issued1

def Matrix.setIssued (m : Matrix) (k : Nat) (v : Nat × Bool) : Matrix :=
  if k = 0 then { m with issued0 := v } else { m with issued1 := v }

/-- The issued formats and tags that an entry leaves (R200, R201). -/
def Matrix.issue (m : Matrix) (e : SeqEntry) (lines : Bool) : Matrix :=
  let or (x : Matrix) (b : Bool) : Matrix :=
    { x with issuedBinTag := setBit16 x.issuedBinTag e.z (x.issuedBinTag.getLsbD e.z || b) }
  match e.op with
  | .wld => m.setIssued e.latch (latchFmt e.ty, lines || e.gtag)
  | .wswp => { m with issued0 := m.issued1, issued1 := m.issued0 }
  | .mma => or m (e.apx || (m.issuedOf e.latch).2 || lines || e.gtag)
  | .chain => or m ((m.issuedOf e.latch).2 || e.lines || e.gtag)
  | .rdc | .scan => or (m.setIssued e.latch (latchFmt e.ty, e.apx || e.gtag)) (e.apx || lines || e.gtag)
  | .zclr => { m with issuedBinTag := setBit16 m.issuedBinTag e.z false }
  | .zwr => if descRows e.desc == 64 then { m with issuedBinTag := setBit16 m.issuedBinTag e.z (lines || e.gtag) }
            else or m (lines || e.gtag)
  | .zrd => m

/-- The issued formats and tags once an entry has left the queue unperformed: what the entries that are left leave of the latches
and bins as they stand (R200). -/
def Team.reissue (tm : Team) : Team :=
  let m := tm.matrix
  let m0 := { m with issued0 := (m.latch0.fmt, m.latch0.tag), issued1 := (m.latch1.fmt, m.latch1.tag), issuedBinTag := m.binTag }
  { tm with matrix := m.queue.foldl (fun (x : Matrix) e => x.issue e (tm.entryApprox e)) m0 }

/-- The entry of an instruction. -/
def Iss.entry (i : Iss) (op : SeqOp) (o : OpQ) : SeqEntry :=
  { op := op, sheaf := i.j, seq := i.seq, z := o.z, latch := o.latch, ty := o.ty, rnd := o.rnd, x := o.x, apx := i.c.apx,
    addr := (i.sh.u o.sA).bits.toNat, desc := (i.sh.u o.sN).bits, jobs := i.tm.nextSeq, gtag := !i.aG.isEmpty, grade := i.grade }

/-- Size of the attic region that the launch holds on the team's core for its stage. -/
def State.atticSize (s : State) (tm : Team) : Nat :=
  if (s.core tm.core).attic.any fun a => a.1 == tm.launch && a.2.1 == tm.stage then tm.st.attic else 0

def SeqOp.hasAddr : SeqOp → Bool
  | .wswp | .zclr => false
  | _ => true

def SeqOp.hasDesc : SeqOp → Bool
  | .wswp | .zclr | .wld => false
  | _ => true

/-- R200 and R243, in order: the cause and the address it names. -/
def Iss.matrixCause (i : Iss) (s : State) (op : SeqOp) (o : OpQ) : Option (Nat × Nat) :=
  let e := i.entry op o
  let a := e.addr
  let d := e.desc
  let chain := op == .chain
  let pos := d.toNat / 2 ^ 40 % 8
  let len := d.toNat / 2 ^ 36 % 16
  let head := !chain || pos == 0
  let attic := op == .wld && o.x % 2 == 0
  let size := if op == .wld then 8192 * planesOf o.ty else rowsSpan d e.recSize
  let bound := if attic then s.atticSize i.tm else i.tm.larderSize
  let issued := i.tm.matrix.issuedOf o.latch
  if i.tm.st.bins == 0 || o.z ≥ i.tm.st.bins then some (Cause.illOperand, 0)
  else if (op.hasAddr && (i.sh.u o.sA).tag) || (op.hasDesc && (i.sh.u o.sN).tag) then some (Cause.aAddr, a)
  else if op.hasDesc && (descBad d e.recSize || (!chain && d.toNat / 2 ^ 32 != 0) ||
      (e.pair && (o.ty != .f32 || o.rnd != .rne))) then some (Cause.illOperand, 0)
  else if op.hasAddr && head && a % (if attic then 8192 else 128) != 0 then some (Cause.misaligned, a)
  else if op.hasAddr && head && a + size > bound then some (Cause.spaceRange, a)
  else if (op == .mma || chain) && issued.1 == 0 then some (Cause.latchState, 0)
  else if (op == .mma || chain) && issued.1 != latchFmt o.ty then some (Cause.formatMismatch, 0)
  else if op == .zrd && (i.tm.matrix.issuedBinTag.getLsbD o.z || e.gtag) && i.tm.rowsPrecise a d e.recSize then
    some (Cause.aStore, a)
  else if chain && (len < 2 || len > 8 || pos ≥ len || d.toNat / 2 ^ 43 % 32 != 0 || d.toNat / 2 ^ 32 % 16 != 0) then
    some (Cause.chainFormation, 0)
  else none

/-- One cause for every lane of the batch. -/
def Iss.batchRaise (i : Iss) (cause addr : Nat) (s : State) : State :=
  i.raise 0 (i.batch.map fun l => (l, cause, addr)) s

/-- Take an entry into the queue of four. -/
def Iss.enqueue (i : Iss) (e : SeqEntry) (s : State) : State :=
  s.modTeam i.t fun tm =>
    { tm with matrix :=
        { (tm.matrix.issue e (tm.entryApprox e)) with
          queue := tm.matrix.queue ++ [{ e with id := tm.matrix.nextId }], nextId := tm.matrix.nextId + 1 } }

/-- The outstanding result of an entry: a ZRD's also writes F in every lane (R208). -/
def Iss.entryResult (i : Iss) (op : SeqOp) : Pending :=
  { i.awaited with writes := if op == .zrd then allLanes.map fun l => Wr.f l 0 0 else [] }

/-- A matrix instruction (R94, R200): it enters the sequencer, and its lanes go on; a CHAIN's wait. -/
def matrixInstr (op : SeqOp) (c : Ctl) (o : OpQ) (s : State) : Out :=
  collective c s (fun _ => none) fun i s1 =>
    match i.matrixCause s op o with
    | some x => i.batchRaise x.1 x.2 s1
    | none =>
      let s2 := i.enqueue (i.entry op o) s1
      if op == .chain then
        s2.modSheaf i.t i.j fun sh => { (sh.push (i.entryResult op)) with hold := .chain }
      else i.finish (some (i.entryResult op)) [] s2

def execWld (c : Ctl) (o : OpQ) (s : State) : Out := matrixInstr .wld c o s
def execWswp (c : Ctl) (o : OpQ) (s : State) : Out := matrixInstr .wswp c o s
def execMma (c : Ctl) (o : OpQ) (s : State) : Out := matrixInstr .mma c o s
def execZclr (c : Ctl) (o : OpQ) (s : State) : Out := matrixInstr .zclr c o s
def execZrd (c : Ctl) (o : OpQ) (s : State) : Out := matrixInstr .zrd c o s
def execZwr (c : Ctl) (o : OpQ) (s : State) : Out := matrixInstr .zwr c o s
def execRdc (c : Ctl) (o : OpQ) (s : State) : Out := matrixInstr .rdc c o s
def execScan (c : Ctl) (o : OpQ) (s : State) : Out := matrixInstr .scan c o s
def execChain (c : Ctl) (o : OpQ) (s : State) : Out := matrixInstr .chain c o s

/-! ### Rows of an entry -/

/-- RoundF of a pair, as ZRD reads it out (R208). -/
def readPair (ty : Ty) (rnd : Rnd) (p : Nat × Nat) : Nat × Flags :=
  let v := pairValue rnd p.1 p.2
  if v.isNan then ((FFmt.of ty).canonical, 0) else (FFmt.of ty).round rnd v

/-- The record that ZRD writes for a bin row, and its flags. -/
def Matrix.readRow (m : Matrix) (e : SeqEntry) (row : Nat) : List Byte × Flags :=
  if e.pair then
    ((List.range 64).flatMap fun n => let p := m.pair e.z row n; natBytes 4 p.1 ++ natBytes 4 p.2, 0)
  else
    let vs := (List.range 64).map fun n => readPair e.ty e.rnd (m.pair e.z row n)
    (vs.flatMap fun v => natBytes (e.ty.width / 8) v.1, vs.foldl (fun x v => x ||| v.2) 0)

/-- A paired team's two readouts of a precise bin row differ (R197). -/
def Team.readoutDiffers (tm : Team) (e : SeqEntry) (row : Nat) : Bool :=
  tm.st.mode == 2 && !tm.matrix.binTag.getLsbD e.z &&
    tm.matrix.readRow e row != { tm.matrix with bins := tm.matrix.shadow }.readRow e row

/-- The sequencer has met a difference; the sheaf that issued the entry counts it. -/
def Team.mark (tm : Team) (e : SeqEntry) : Team :=
  { tm with guarded := tm.guarded.map fun g => { g with mismatch := some e.sheaf } }

/-- ZRD's row j: the larder takes the record (R177, R195, R209), unless a paired team's readouts differ. Its bytes take their place
in their coherence order as the row is written, behind what a job's WP has passed (R228; DESIGN CHOICE, log entry 50). -/
def Team.zrdRow (tm : Team) (e : SeqEntry) (j : Nat) : Team :=
  if tm.readoutDiffers e (descFirst e.desc + j) then tm.mark e
  else
    let r := tm.matrix.readRow e (descFirst e.desc + j)
    let tm1 := (List.range (e.recSize / 128)).foldl (fun (x : Team) k =>
      x.writeLarder (rowAddr e.addr e.desc j + 128 * k) (if e.pair then 32 else e.ty.width) ((r.1.drop (128 * k)).take 128)) tm
    { tm1 with matrix := tm1.matrix.modEntry e.id fun q => { q with flags := q.flags ||| r.2 } }

/-- Work on the bins, and in a paired team again on their shadow copy (R197). -/
def Matrix.twice (m : Matrix) (paired : Bool) (run second : Matrix → Matrix) : Matrix :=
  let m1 := run m
  if paired then { m1 with shadow := (second { m with bins := m.shadow }).bins } else m1

/-- ZWR's row j. -/
def Team.zwrRow (tm : Team) (e : SeqEntry) (draw j : Nat) : Team :=
  let bs := tm.recordBytes draw j (rowAddr e.addr e.desc j) e.recSize
  let num (o : Nat) : Nat := bytesNat ((bs.drop o).take 4)
  let run (m : Matrix) : Matrix := (List.range 64).foldl (fun (m : Matrix) n =>
      m.setPair e.z (descFirst e.desc + j) n
        (if e.pair then (num (8 * n), num (8 * n + 4)) else (num (4 * n), 0))) m
  { tm with matrix := tm.matrix.twice (tm.st.mode == 2) run run }

/-- Row j of an array entry, its record read from `src` at `a` under descriptor `d` (the head's, in a chain); the second run of a
paired team's reads it again. -/
def Team.arrayRow (tm src : Team) (e : SeqEntry) (a : Nat) (d : Word) (draw j : Nat) : Team :=
  let run (salt : Nat) (m : Matrix) : Matrix :=
    let bs := src.recordBytes draw salt (rowAddr a d j) e.recSize
    m.mmaRow e draw j (descFirst e.desc + j) (recordValues e.ty fun o => bs.getD o 0)
  { tm with matrix := tm.matrix.twice (tm.st.mode == 2) (run j) (run (j + 64)) }

/-- Rows from the entry's step to `upto`, and the bin's tag. The rows of one event are read together: of the mixes of old and new
bytes that R228 allows under an in-flight job only those arise in which the cut lies at one WP (DESIGN CHOICE, log entry 50). -/
def Team.runRows (tm src : Team) (e : SeqEntry) (a : Nat) (d : Word) (draw upto : Nat) : Team :=
  let js := (List.range upto).filter fun j => e.step ≤ j
  let t1 := match e.op with
    | .zrd => js.foldl (fun (x : Team) j => x.zrdRow e j) tm
    | .zwr => js.foldl (fun (x : Team) j => x.zwrRow e draw j) tm
    | .mma | .rdc | .scan | .chain => js.foldl (fun (x : Team) j => x.arrayRow src e a d draw j) tm
    | _ => tm
  let lines := src.rowsApprox a d
  let t2 := match e.op with
    | .mma | .rdc | .scan | .chain =>
      { t1 with matrix := t1.matrix.orTag e.z (e.apx || (t1.matrix.latch e.latch).tag || lines || e.gtag) }
    | .zwr =>
      { t1 with matrix := if descRows e.desc == 64 then { t1.matrix with binTag := setBit16 t1.matrix.binTag e.z (lines || e.gtag) }
                          else t1.matrix.orTag e.z (lines || e.gtag) }
    | _ => t1
  { t2 with matrix := t2.matrix.modEntry e.id fun q => { q with step := upto } }

/-! ### Errors (R196, R247) -/

/-- Attic bytes that a team's launch and stage hold on its core. -/
def State.atticOf (s : State) (tm : Team) : SMap Byte :=
  match (s.core tm.core).attic.find? fun a => a.1 == tm.launch && a.2.1 == tm.stage with
  | some a => a.2.2
  | none => []

/-- Bytes of a record, or of a plane's part of one, that hold something; the others are ignored, and no attic column reads them
(R189, R191). -/
def readSize (ty : Ty) (size : Nat) : Nat :=
  match ty with
  | .tb8 => 68
  | .tb4 => 72
  | _ => size

/-- A word of a tile image lies in bytes that a WLD reads. -/
def SeqEntry.readsWord (e : SeqEntry) (w : Nat) : Bool :=
  decide (e.addr < w + 8) && decide (w < e.addr + 8192 * planesOf e.ty) && decide ((w - e.addr) % 128 < readSize e.ty 128)

/-- An uncorrectable error that an entry meets, as the store and the word offset that its record names (R196, R316): the state's own
mark on a latch or bin, or a word in error that it reads of the larder or the attic: of the rows from its step to `upto`. -/
def State.entryError (s : State) (tm src : Team) (e : SeqEntry) (a : Nat) (d : Word) (upto : Nat) : Option (Nat × Nat) :=
  match tm.matrix.bad.filter fun b => b.1 == e.id with
  | some b => some (2, b.2)
  | none =>
    match e.op with
    | .wld =>
      if e.x % 2 == 1 then (tm.larderBad.find? fun x => e.readsWord x.1).map fun x => (1, x.1 / 8)
      else ((s.core tm.core).atticBad.find? fun x => x.1 == tm.launch && x.2.1 == tm.stage && e.readsWord x.2.2).map
        fun x => (3, x.2.2 / 8)
    | .mma | .rdc | .scan | .chain | .zwr =>
      ((List.range upto).filter fun j => e.step ≤ j).findSome? fun j =>
        (src.larderBadWord (rowAddr a d j) (if e.pair then e.recSize else readSize e.ty e.recSize)).map fun w => (1, w / 8)
    | _ => none

/-- An entry leaves the queue; its result is complete, and its ZRD flags are written to the lanes still there (R208). -/
def State.dropEntry (s : State) (t : Nat) (e : SeqEntry) (flags : Flags) : State :=
  (s.modMatrix t fun m => { m with queue := m.queue.filter fun q => q.id != e.id }).modSheaf t e.sheaf fun sh =>
    if sh.pend.any fun p => p.seq == e.seq then
      ((sh.modPend e.seq fun p => { p with ready := true, writes := p.writes.map fun w => match w with
          | .f l _ _ => Wr.f l flags 0
          | x => x }).returnResult e.seq (BitVec.allOnes 32))
    else if e.op == .zrd then
      sh.modLanes sh.used fun st => { st with flags := st.flags ||| flags }
    else sh

/-- A cause in every lane of the issuing sheaf; the entry does nothing. Of a sheaf that has finished, uncorrectable-consumed rolls a
guarded team back and stops any other with the service (R196). -/
def State.entryFails (s : State) (t : Nat) (e : SeqEntry) (cause : Nat) : State :=
  let s1 := (s.dropEntry t e 0).modTeam t Team.reissue
  match s1.team? t with
  | none => s1
  | some tm =>
    if !(tm.sheaf e.sheaf).finished then
      s1.modSheaf t e.sheaf fun sh =>
        { sh with hold := if sh.hold == Hold.chain then Hold.none else sh.hold }.raise e.seq 0 (sh.used.map fun l => (l, cause, 0))
    else if cause != Cause.uncorrectable then s1
    else if tm.guarded.isSome then s1.rollbackTeam t
    else s1.modSheaf t e.sheaf fun sh => sh.toService (trapRecord sh 0 0 (allLanes.map fun l => (l, cause, 0))) cause false

/-! ### Chains (R243 to R246) -/

def chainKey (d : Word) : Nat := d.toNat / 2 ^ 48
def chainPos (d : Word) : Nat := d.toNat / 2 ^ 40 % 8
def chainLen (d : Word) : Nat := d.toNat / 2 ^ 36 % 16

/-- The formed chain that an entry belongs to. -/
def State.chainOf (s : State) (k t id : Nat) : Option ChainGroup :=
  (s.cluster k).chains.find? fun g => g.formed && g.members.any fun m => m.2.1 == t && m.2.2 == id

/-- A refused member: chain-formation in every lane, its work not performed. -/
def State.chainRefuse (s : State) (t id : Nat) : State :=
  match s.team? t with
  | none => s
  | some tm =>
    match tm.matrix.entry? id with
    | none => s
    | some e => s.entryFails t e Cause.chainFormation

/-- The members go on: each entry is formed, its lanes pass the CHAIN, its bin's issued tag takes the head's lines. -/
def State.chainForm (s : State) (ms : List (Nat × Nat × Nat)) : State :=
  let lines := match ms.find? fun m => m.1 == 0 with
    | some h => (match s.team? h.2.1 with
      | some tm => (match tm.matrix.entry? h.2.2 with
        | some e => tm.rowsApprox e.addr e.desc
        | none => false)
      | none => false)
    | none => false
  ms.foldl (fun (x : State) m =>
    match x.team? m.2.1 with
    | none => x
    | some tm =>
      match tm.matrix.entry? m.2.2 with
      | none => x
      | some e =>
        (x.modMatrix m.2.1 fun q =>
          { (q.modEntry m.2.2 fun y => { y with formed := true, lines := lines }) with
            issuedBinTag := setBit16 q.issuedBinTag e.z (q.issuedBinTag.getLsbD e.z || lines) }).modSheaf m.2.1 e.sheaf
          fun sh => if sh.hold == .chain then { (sh.modLanes allLanes Strand.go) with hold := .none } else sh) s

/-- A group waits to form under (launch, KEY). -/
def ChainGroup.waits (g : ChainGroup) (launch key : Nat) : Bool := !g.formed && g.launch == launch && g.key == key

/-- The group's time has run out: 65,536 cycles of its first member's core since the arrival. One that re-forms after a joint restore
has no such limit (R244, R246). -/
def State.chainLate (s : State) (g : ChainGroup) : Bool := !g.resumed && decide ((s.core g.core).cycle ≥ g.since + 65536)

/-- Every member that has arrived is refused. -/
def State.chainTimeOut (s : State) (k : Nat) (g : ChainGroup) : State :=
  g.members.foldl (fun (x : State) m => x.chainRefuse m.2.1 m.2.2)
    (s.modCluster k fun c => { c with chains := c.chains.filter fun x => !x.waits g.launch g.key })

/-- The first member of a group. -/
def State.chainOpen (s : State) (k t : Nat) (tm : Team) (e : SeqEntry) : State :=
  s.modCluster k fun c => { c with chains := c.chains ++
    [{ launch := tm.launch, key := chainKey e.desc, len := chainLen e.desc, rows := descRows e.desc, ty := e.ty,
       since := (s.core tm.core).cycle, core := tm.core, resumed := decide (e.id < tm.resuming),
       members := [(chainPos e.desc, t, e.id)] }] }

/-- A member reaches the arbiter (R244). -/
def State.chainArrive (s : State) (t : Nat) (tm : Team) (e : SeqEntry) : State :=
  let k := clusterOfCore tm.core
  let key := chainKey e.desc
  match (s.cluster k).chains.find? fun g => g.waits tm.launch key with
  | none => s.chainOpen k t tm e
  | some g =>
    if s.chainLate g then (s.chainTimeOut k g).chainOpen k t tm e
    else if g.len != chainLen e.desc || g.rows != descRows e.desc || g.ty != e.ty ||
        (g.members.any fun m => m.1 == chainPos e.desc) then s.chainRefuse t e.id
    else
      let ms := g.members ++ [(chainPos e.desc, t, e.id)]
      let full := ms.length == g.len
      let upd (x : ChainGroup) : ChainGroup := if x.waits tm.launch key then { x with members := ms, formed := full } else x
      let s1 := s.modCluster k fun c => { c with chains := c.chains.map upd }
      if full then s1.chainForm ms else s1

/-- The entries that advance with an entry: itself, or every member of its chain. -/
def State.peers (s : State) (t : Nat) (tm : Team) (e : SeqEntry) : List (Nat × Nat) :=
  if e.op != .chain then [(t, e.id)]
  else match s.chainOf (clusterOfCore tm.core) t e.id with
    | some g => g.members.map fun m => m.2
    | none => []

/-- Team, address and descriptor from which an entry's rows are read. -/
def State.rowSource (s : State) (t : Nat) (tm : Team) (e : SeqEntry) : Option (Team × Nat × Word) :=
  if e.op != .chain then some (tm, e.addr, e.desc)
  else match s.chainOf (clusterOfCore tm.core) t e.id with
    | none => none
    | some g =>
      match g.members.find? fun m => m.1 == 0 with
      | none => none
      | some h =>
        match s.team? h.2.1 with
        | none => none
        | some th => (th.matrix.entry? h.2.2).map fun q => (th, q.addr, q.desc)

/-- A chain is over: its group leaves the arbiter. -/
def State.chainDrop (s : State) (k t id : Nat) : State :=
  s.modCluster k fun c => { c with chains := c.chains.filter fun g => !(g.members.any fun m => m.2.1 == t && m.2.2 == id) }

/-! ### The sequencer's events -/

/-- A decision to pre-empt holds what has not begun, and what has reached its next interruption point (R194); a guarded team's queue
runs empty for its commit instead (R197). -/
def Team.entryHeld (tm : Team) (e : SeqEntry) : Bool :=
  tm.preempt != .none && tm.guarded.isNone && (!e.started || decide (e.base < e.step))

/-- An entry may begin: every earlier entry that it conflicts with has finished, and the array is free (R192). -/
def Matrix.mayBegin (m : Matrix) (e : SeqEntry) : Bool :=
  !e.started && ((m.queue.takeWhile fun f => f.id != e.id).all fun f => !(f.conflicts e)) &&
  !(e.array && m.queue.any fun f => f.id != e.id && f.array && f.started)

/-- SEQUENCER_ENTRY_BEGIN; nothing of a team whose rail does not stand begins (R253, R392). -/
def execSequencerEntryBegin (t id : Nat) (s : State) : Out :=
  match s.team? t with
  | none => .next s
  | some tm =>
    match tm.matrix.entry? id with
    | none => .next s
    | some e =>
      if !tm.matrix.mayBegin e || tm.jobBlocks e || tm.entryHeld e || tm.waitsRail then .next s
      else
        let s1 := s.modMatrix t fun m => m.modEntry id fun q => { q with started := true, base := q.step }
        match e.op with
        | .rdc | .scan =>
          .next (if e.step == 0 then s1.modMatrix t fun m => m.setLatch e.latch
              { fmt := latchFmt e.ty, tag := e.apx || e.gtag, kind := if e.op == .rdc then 1 else 2 } else s1)
        | .chain => .next (if e.formed then s1 else s1.chainArrive t tm e)
        | _ => .next s1

/-- Row transfers of a chain that have failed parity are resent up to three times; each resend, and a failure after them, is logged
(R247, R316). -/
def State.chainTransfers (s : State) (k t id : Nat) : State :=
  match s.chainOf k t id, s.team? t with
  | some g, some tm =>
    let s1 := s.modCluster k fun c => { c with chains := c.chains.map fun x =>
      if (x.formed && x.members.any fun m => m.2.1 == t && m.2.2 == id) then { x with parity := 0 } else x }
    (List.range (min g.parity 4)).foldl (fun (x : State) n => x.record tm.die
      { kind := LogKind.chainParity, src := srcCluster k, detail := n + 1, vdev := tm.vdev }) s1
  | _, _ => s

/-- A transfer has failed for good. -/
def State.chainBroken (s : State) (k t id : Nat) : Bool := (s.chainOf k t id).elim false fun g => decide (g.parity ≥ 4)

/-- Advance an entry, or every member of its chain, to row `upto`. -/
def State.advanceEntry (s : State) (t : Nat) (tm : Team) (e : SeqEntry) (upto : Nat) : State :=
  match s.rowSource t tm e with
  | none => s
  | some src =>
    (s.peers t tm e).foldl (fun (x : State) q => x.modTeam q.1 fun y =>
      match y.matrix.entry? q.2 with
      | none => y
      | some f => y.runRows (if q.1 == t && e.op != .chain then y else src.1) f src.2.1 src.2.2 s.free upto)
      { s with free := s.free + 1 }

/-- Every entry of a chain, or the one, meets an error: its record, and uncorrectable-consumed for each (R196, R247). -/
def State.peersFail (s : State) (t : Nat) (tm : Team) (e : SeqEntry) (met : Option (Team × Nat × Nat)) : State :=
  let s1 := match met with
    | some b => s.sramEvent b.1.die false (srcCore b.1.core) b.2.1 b.2.2 b.1.vdev
    | none => s
  (s.peers t tm e).foldl (fun (x : State) q => match x.team? q.1 with
    | none => x
    | some y => (match y.matrix.entry? q.2 with
      | none => x
      | some f => (x.entryFails q.1 f Cause.uncorrectable).settled q.1))
    (if e.op == .chain then s1.chainDrop (clusterOfCore tm.core) t e.id else s1)

/-- The error that the work of an entry, or of its chain, up to row `upto` meets. -/
def State.peersError (s : State) (t : Nat) (tm : Team) (e : SeqEntry) (upto : Nat) : Option (Team × Nat × Nat) :=
  match s.rowSource t tm e with
  | none => none
  | some src => (s.peers t tm e).findSome? fun q => (s.team? q.1).bind fun y => (y.matrix.entry? q.2).bind fun f =>
      (s.entryError y src.1 f src.2.1 src.2.2 upto).map fun w => (y, w)

/-- The rows of an entry that have interruption points (R194). -/
def SeqEntry.rows (e : SeqEntry) : Nat :=
  match e.op with
  | .wld | .wswp | .zclr => 0
  | _ => descRows e.desc

/-- Running: begun, and a chain's member formed. -/
def SeqEntry.running (e : SeqEntry) : Bool := e.started && (e.op != .chain || e.formed)

/-- INTERRUPTION_POINT_REACHED: the entry has done its rows up to the next of 16, 32 and 48 (R194, R246), or met an error in one
of them (R196). -/
def execInterruptionPointReached (t id : Nat) (s : State) : Out :=
  match s.team? t with
  | none => .next s
  | some tm =>
    match tm.matrix.entry? id with
    | none => .next s
    | some e =>
      let nxt := (e.step / 16 + 1) * 16
      if e.running && !tm.entryHeld e && nxt < e.rows && !s.chainBroken (clusterOfCore tm.core) t id then
        let s0 := s.chainTransfers (clusterOfCore tm.core) t id
        match s0.peersError t tm e nxt with
        | some b => .next (s0.peersFail t tm e (some b))
        | none => .next ((s0.advanceEntry t tm e nxt).checkMismatch t)
      else .next s

/-- Load a tile (R202); a paired team reads it twice and compares (R197). The image is read in one event, at one place of an
in-flight job's WP (R228; DESIGN CHOICE, log entry 50). -/
def State.loadTile (s : State) (t : Nat) (tm : Team) (e : SeqEntry) : State :=
  let attic := s.atticOf tm
  let bytes : List Byte := if e.x % 2 == 1 then tm.recordBytes s.free 0 e.addr (8192 * planesOf e.ty)
    else (List.range (8192 * planesOf e.ty)).map fun k => attic.val (e.addr + k) 0
  let again : List Byte := if e.x % 2 == 1 then tm.recordBytes s.free 1 e.addr (8192 * planesOf e.ty) else bytes
  let tile : SMap Byte := (bytes.zipIdx.filter fun b => b.1 != 0).map fun b => (b.2, b.1)
  let differs := tm.st.mode == 2 && !tm.entryApprox e && again != bytes
  ({ s with free := s.free + 1 }.modTeam t fun x => if differs then x.mark e else x).modMatrix t fun m =>
    m.setLatch e.latch { fmt := latchFmt e.ty, tag := tm.entryApprox e || e.gtag, kind := 0, tile := tile }

/-- Flags that a finished ZRD writes: none from an approximate bin or under a guard tagged A (R208). -/
def Team.zrdFlags (tm : Team) (e : SeqEntry) : Flags :=
  if e.op == .zrd && !tm.matrix.binTag.getLsbD e.z && !e.gtag then (tm.matrix.entry? e.id).elim 0 fun q => q.flags else 0

def State.finishEntry (s : State) (t id : Nat) : State :=
  match s.team? t with
  | none => s
  | some tm =>
    match tm.matrix.entry? id with
    | none => s
    | some e => (s.dropEntry t e (tm.zrdFlags e)).settled t

/-- SEQUENCER_ENTRY_FINISH: the rest of the entry's work, or the error it meets (R192, R196). -/
def execSequencerEntryFinish (t id : Nat) (s : State) : Out :=
  match s.team? t with
  | none => .next s
  | some tm =>
    match tm.matrix.entry? id with
    | none => .next s
    | some e =>
      if !e.running || tm.entryHeld e then .next s
      else
        let k := clusterOfCore tm.core
        let ps := s.peers t tm e
        match s.rowSource t tm e with
        | none => .next s
        | some _ =>
          let bad := s.peersError t tm e e.rows
          let s0 := s.chainTransfers k t id
          if s.chainBroken k t id then .next (s0.peersFail t tm e none)
          else if bad.isSome then .next (s0.peersFail t tm e bad)
          else
            let s1 := match e.op with
              | .wld => s0.loadTile t tm e
              | .wswp => s0.modMatrix t fun m => { m with latch0 := m.latch1, latch1 := m.latch0 }
              | .zclr => s0.modMatrix t fun m =>
                  { m with bins := m.bins.filter fun b => b.1 / 4096 != e.z, shadow := m.shadow.filter fun b => b.1 / 4096 != e.z,
                           binTag := setBit16 m.binTag e.z false }
              | _ => s0.advanceEntry t tm e e.rows
            if ((s1.team? t).bind Team.guarded).elim false fun g => g.mismatch.isSome then .next (s1.checkMismatch t)
            else .next (ps.foldl (fun (x : State) q => x.finishEntry q.1 q.2) (if e.op == .chain then s1.chainDrop k t id else s1))

/-- CHAIN_TIMEOUT: 65,536 cycles after the first arrival every member that has arrived is refused (R244). -/
def execChainTimeout (k launch key : Nat) (s : State) : Out :=
  match (s.cluster k).chains.find? fun g => g.waits launch key with
  | none => .next s
  | some g => .next (if s.chainLate g then s.chainTimeOut k g else s)

end Sys2Proof.Machine
end

