-- ==== Sys2Proof/Machine/Combine.lean ====
section
/-! DEFINITION. The combine buffer (R286 to R307): contexts, slots and handles, the six instructions, pool grants,
intake, application, time-out and release. -/

namespace Sys2Proof.Machine

/-! ### The configuration word (R287) -/

def cwCtx (w : Word) : Nat := w.toNat / 2 ^ 60
def Ctx.asComplete (c : Ctx) : Bool := c.cfg.toNat / 2 ^ 57 % 2 == 1
def Ctx.renorm (c : Ctx) : Bool := c.cfg.toNat / 2 ^ 56 % 2 == 1
def Ctx.ofmt (c : Ctx) : Ty :=
  match c.cfg.toNat / 2 ^ 52 % 16 with
  | 8 => .f16
  | 9 => .bf16
  | _ => .f32
def cwCfmt (w : Word) : Nat := w.toNat / 2 ^ 48 % 16
def cwPool (w : Word) : Nat := w.toNat / 2 ^ 32 % 16
def cwWidth (w : Word) : Nat := w.toNat % 2 ^ 15
def Ctx.cf (c : Ctx) : Nat := if cwCfmt c.cfg == 10 then 1 else 0
def Ctx.d (c : Ctx) : Nat := cwWidth c.cfg

/-- Reserved bits, or a field outside R287. -/
def cwBad (w : Word) : Bool :=
  let n := w.toNat
  n / 2 ^ 58 % 4 != 0 || n / 2 ^ 36 % 2 ^ 12 != 0 || n / 2 ^ 15 % 2 ^ 17 != 0 ||
  !(8 ≤ n / 2 ^ 52 % 16 && n / 2 ^ 52 % 16 ≤ 10) || !(cwCfmt w == 9 || cwCfmt w == 10) ||
  !(1 ≤ cwPool w && cwPool w ≤ 8) || cwWidth w % 64 != 0 || !(64 ≤ cwWidth w && cwWidth w ≤ 16384)

/-- Bytes of the region that one slot takes (R288). -/
def cwSlotBytes (w : Word) : Nat := 8 * cwWidth w + cwPool w * cwWidth w * (if cwCfmt w == 10 then 4 else 2)

/-! ### Slots -/

def Ctx.slot (c : Ctx) (k : Nat) : CSlot := c.slots.val k { gen := c.baseGen }

def Ctx.setSlot (c : Ctx) (k : Nat) (x : CSlot) : Ctx := { c with slots := c.slots.put k x }

/-- The slots now free (R290). -/
def Ctx.free (c : Ctx) : Nat := (c.s - c.fresh) + c.freed.length

/-- A generation rises by 1, passing over 0 (R289). -/
def nextGen (g : Nat) : Nat := if g ≥ 65535 then 1 else g + 1

/-- The ERR bits: an uncorrectable error in the slot's storage sets bit 2 as it is met (R290, R307). -/
def CSlot.errBits (x : CSlot) : Nat := if x.bad && x.err / 4 % 2 == 0 then x.err + 4 else x.err

/-- The status word (R290). -/
def CSlot.status (x : CSlot) : Word :=
  BitVec.ofNat 64 (x.st * 2 ^ 60 + x.errBits * 2 ^ 56 + x.pres.toNat * 2 ^ 48 + x.subst.toNat * 2 ^ 40 + x.expect.toNat * 2 ^ 32
    + x.disc * 2 ^ 24 + x.gen)

/-- What CSTAT reads of a slot: its status, or the word that it kept at its last release or CFREE; one never allocated reads as
the reset value of R290's table, ST = 1 (DEDUCED, log entry 25). -/
def CSlot.report (x : CSlot) : Word :=
  if x.st != 0 then x.status else if x.word != 0 then x.word else { x with st := 1 }.status

/-- The context word (R290). -/
def Ctx.word (c : Ctx) : Word := BitVec.ofNat 64 (c.late * 2 ^ 42 + c.disc * 2 ^ 21 + c.free)

def capDisc (n : Nat) : Nat := min (n + 1) 2097151

def State.ctx? (s : State) (d x : Nat) : Option Ctx := (s.die d).ctxs.find x

def State.modCtx (s : State) (d x : Nat) (f : Ctx → Ctx) : State :=
  match s.ctx? d x with
  | some c => s.modDie d fun q => { q with ctxs := q.ctxs.put x (f c) }
  | none => s

/-- The handle of a slot. -/
def State.handle (s : State) (d x : Nat) (c : Ctx) (k : Nat) : Word :=
  BitVec.ofNat 64 (s.ownPod % 2 ^ 14 * 2 ^ 50 + (c.slot k).gen * 2 ^ 32 + d * 2 ^ 28 + x * 2 ^ 24 + c.cf * 2 ^ 21
    + (c.d / 64 - 1) * 4096 + k)

/-- The context that a handle names, in the configuration that the handle carries (R289). -/
def State.ctxOf (s : State) (h : Word) : Option Ctx :=
  (s.ctx? (hDie h) (hCtx h)).filter fun c => c.cf == hCf h && c.d == (hDw h + 1) * 64

/-- The slot a handle names, while the handle is current: of its generation, in the configuration it carries, allocated or not
(R289). -/
def State.current (s : State) (h : Word) : Option (Ctx × CSlot) :=
  (s.ctxOf h).bind fun c =>
    let x := c.slot (hSlot h)
    if hSlot h < c.s && x.gen == hGen h then some (c, x) else none

/-- Take the slot at the head of the free queue (R294): the state and its handle. -/
def State.allocSlot (s : State) (d x : Nat) : Option (State × Word) :=
  match s.ctx? d x with
  | none => none
  | some c =>
    let pick : Option (Nat × Ctx) :=
      if c.fresh < c.s then some (c.fresh, { c with fresh := c.fresh + 1 })
      else match c.freed with
        | [] => none
        | k :: r => some (k, { c with freed := r })
    match pick with
    | none => none
    | some (k, c1) =>
      let c2 := { c1.setSlot k { gen := (c.slot k).gen, st := 1, alloc := c.nextAlloc } with nextAlloc := c.nextAlloc + 1 }
      some (s.modCtx d x fun _ => c2, s.handle d x c2 k)

/-- A slot goes to the tail of the free queue, from its place there if it is free already. -/
def Ctx.toTail (c : Ctx) (k : Nat) : Ctx :=
  if c.fresh ≤ k && k < c.s then
    { c with fresh := c.s, freed := ((List.range c.s).filter fun n => c.fresh ≤ n && n != k) ++ c.freed ++ [k] }
  else { c with freed := c.freed.filter (fun n => n != k) ++ [k] }

/-- Step 5 of R298: the slot's generation advances and it goes to the tail of the free queue; what it holds is dropped. -/
def Ctx.freeSlot (c : Ctx) (k : Nat) (word : Word) : Ctx :=
  (c.setSlot k { gen := nextGen (c.slot k).gen, word := word }).toTail k

/-! ### The pool (R296, R297) -/

/-- Pool entries of a context that are taken: granted, at the input, and held in its slots. -/
def State.poolUsed (s : State) (d x : Nat) (c : Ctx) : Nat :=
  let n (l : List Contrib) : Nat := (l.filter fun q => hCtx q.handle == x).length
  n (s.die d).granted + n (s.die d).input + c.slots.foldl (fun k (e : Nat × CSlot) => k + e.2.held.length) 0

/-- A context grants while it has room; one that is gone grants what it will discard. -/
def State.mayGrant (s : State) (d x : Nat) : Bool :=
  match s.ctx? d x with
  | none => true
  | some c => s.poolUsed d x c < cwPool c.cfg * c.s

/-- The grant reaches the lane that asked. -/
def Sheaf.grantPool (sh : Sheaf) (l iss : Nat) : Sheaf :=
  sh.modStrand l fun st => if st.park == .pool iss false then { st with park := .pool iss true } else st

def State.grantSource (s : State) (d : Nat) (c : Contrib) : State :=
  match c.src with
  | .lane t j l iss => s.modSheaf t j fun sh => sh.grantPool l iss
  | .remote pod tag key => s.post pod true
      { op := 10, srcPod := s.ownPod, srcDie := d, tag := tag, key := key, handle := c.handle, clock := (s.die d).clock }
  | _ => s

/-! ### CPUT's issue once every lane is granted -/

/-- Lanes of a sheaf that wait for the grants of one issue. -/
def Sheaf.putLanes (sh : Sheaf) (iss : Nat) : List Nat :=
  allLanes.filter fun l => (sh.strand l).park == .pool iss true || (sh.strand l).park == .pool iss false

def Sheaf.putReady (sh : Sheaf) (iss : Nat) : Bool :=
  !(sh.putLanes iss).isEmpty && (sh.putLanes iss).all fun l => (sh.strand l).park == .pool iss true

def ReqSrc.isLane (r : ReqSrc) (t j l iss : Nat) : Bool := r == .lane t j l iss

/-- The larder bytes of a contribution's row, as they stand when it issues (R195, R296). -/
def Team.rowBytes (tm : Team) (c : Contrib) : List Byte := (List.range (hBytes c.handle)).map fun k => tm.larderByte (c.offset + k)

/-- One lane's contribution leaves: to its context's input, or as a message. -/
def State.sendContribution (s : State) (tm : Team) (j l iss : Nat) : State :=
  let mine (c : Contrib) : Bool := c.src.isLane tm.key j l iss
  match allDies.find? fun d => (s.die d).granted.any mine with
  | some d =>
    s.modDie d fun q =>
      { q with granted := q.granted.filter (fun c => !mine c),
               input := q.input ++ (q.granted.filter mine).map fun c => { c with data := tm.rowBytes c } }
  | none =>
    match s.fabric.contribs.find? fun e => mine e.2 with
    | none => s
    | some e =>
      ({ s with fabric := { s.fabric with contribs := s.fabric.contribs.filter (fun y => y.1 != e.1),
                                          dataOut := s.fabric.dataOut ++ [(e.1, e.2.src, e.2.offset)] } }).post (hPkg e.2.handle) false
        { op := 11, srcPod := s.ownPod, srcDie := tm.die, dstDie := hDie e.2.handle, tag := e.1, key := s.keyFor (hPkg e.2.handle),
          handle := e.2.handle, pos := e.2.pos, data := tm.rowBytes e.2 }

/-- The CPUT issues: its contributions leave in lane order, and the lanes go on (R296). -/
def State.finishCput (s : State) (t j iss : Nat) : State :=
  match s.team? t with
  | none => s
  | some tm =>
    let ls := (tm.sheaf j).putLanes iss
    if (tm.sheaf j).putReady iss then
      ((ls.foldl (fun (x : State) l => x.sendContribution tm j l iss) s).modSheaf t j fun sh => sh.modLanes ls Strand.go).settled t
    else s

/-- A lane's CPUT is withdrawn with its whole issue: grants go back, requests are cancelled, the lanes stand at it (R296). A
remote request is withdrawn by a message of the model's own (log entry 18). -/
def State.withdrawCput (s : State) (t j iss : Nat) : State :=
  match s.team? t with
  | none => s
  | some tm =>
    let ls := (tm.sheaf j).putLanes iss
    let mine (c : Contrib) : Bool := ls.any fun k => c.src.isLane t j k iss
    let keep (l : List Contrib) : List Contrib := l.filter fun c => !mine c
    let s1 := { s with dies := s.dies.map fun (e : Nat × Die) => (e.1, { e.2 with poolQ := keep e.2.poolQ, granted := keep e.2.granted }) }
    (s1.withdrawContribs mine).modSheaf t j fun sh => ls.foldl (fun (h : Sheaf) l => h.unpark l) sh

/-- Grant the first request of a context, if it has room; its CPUT issues when no other lane of it waits. -/
def State.grantOne (s : State) (d x : Nat) : State :=
  match (s.die d).poolQ.find? fun q => hCtx q.handle == x with
  | none => s
  | some c =>
    if s.mayGrant d x then
      let s1 := (s.modDie d fun q => { q with poolQ := q.poolQ.erase c, granted := q.granted ++ [c] }).grantSource d c
      match c.src with
      | .lane t j _ iss => s1.finishCput t j iss
      | _ => s1
    else s

/-- Grant in order while the context has room. -/
def State.grantAll (s : State) (d x : Nat) : Nat → State
  | 0 => s
  | n + 1 => (s.grantOne d x).grantAll d x n

/-! ### Application (R297, R299) -/

/-- The contribution's elements as exact values. -/
def rowValues (cf d : Nat) (bs : List Byte) : List FV :=
  (List.range d).map fun k =>
    if cf == 1 then val32 (bytesNat ((bs.drop (4 * k)).take 4)) else FFmt.bf16.value (bytesNat ((bs.drop (2 * k)).take 2))

/-- ApplyRow. -/
def CSlot.applyRow (x : CSlot) (cf d j : Nat) (w : FV) : CSlot :=
  match x.held.find? fun h => h.1 == j with
  | none => x
  | some h =>
    let vs := rowValues cf d h.2
    { x with
      pairs := vs.zipIdx.foldl (fun (m : SMap (Nat × Nat)) v =>
        let p := m.val v.2 (0, 0)
        m.store (0, 0) v.2 (accBlock p.1 p.2 (w.mul v.1))) x.pairs,
      pres := x.pres ||| BitVec.ofNat 8 (2 ^ j),
      held := x.held.filter fun q => q.1 != j }

def Gate.weight (g : Gate) (j : Nat) : FV := val32 (g.wgt.getD j 0)

/-- Advance, ZERO mode. -/
def CSlot.advanceZero (x : CSlot) (cf d : Nat) (g : Gate) : Nat → CSlot
  | 0 => x
  | fuel + 1 =>
    if x.next < g.n && (x.arrived.getLsbD x.next || x.subst.getLsbD x.next) then
      let y := if x.subst.getLsbD x.next then x else x.applyRow cf d x.next (g.weight x.next)
      CSlot.advanceZero { y with next := x.next + 1 } cf d g fuel
    else x

/-- Every expected position has arrived. -/
def CSlot.complete (x : CSlot) (g : Gate) : Bool := (List.range g.n).all fun j => x.arrived.getLsbD j

/-- After every event on a gated slot. -/
def Ctx.advance (c : Ctx) (k : Nat) : Ctx :=
  let x := c.slot k
  match x.gate with
  | none => c
  | some g =>
    if x.ready then c
    else if c.renorm then
      if x.complete g then
        c.setSlot k { (List.range g.n).foldl (fun (y : CSlot) j => y.applyRow c.cf c.d j (g.weight j)) x with ready := true }
      else c
    else
      let y := x.advanceZero c.cf c.d g 8
      c.setSlot k { y with ready := decide (y.next ≥ g.n) }

/-- RoundF(w / sum, f32, .rne) (R297). -/
def quotient32 (w sum : FV) : FV :=
  match w, sum with
  | .fin a m e, .fin b n g => if m = 0 then w else val32 (FFmt.f32.divFin .rne (a != b) m e n g).1
  | x, _ => x

/-- Time-out: missing positions are substituted, and what is held is applied (R299). -/
def Ctx.timeOut (c : Ctx) (k : Nat) : Ctx :=
  let x := c.slot k
  match x.gate with
  | none => c
  | some g =>
    if x.ready then c
    else
      let missing := (List.range g.n).filter fun j => !x.arrived.getLsbD j
      let y := { x with timedOut := true, subst := missing.foldl (fun m j => m ||| BitVec.ofNat 8 (2 ^ j)) x.subst }
      if c.renorm then
        let here := (List.range g.n).filter fun j => x.arrived.getLsbD j
        let sum := sumFV (here.map g.weight)
        c.setSlot k { here.foldl (fun (z : CSlot) j =>
          z.applyRow c.cf c.d j (if sum.isZero then g.weight j else quotient32 (g.weight j) sum)) y with ready := true }
      else (c.setSlot k y).advance k

/-! ### Discards and intake (R300, R307) -/

/-- A discarded contribution is counted and logged: 0 late, 1 duplicate, 2 out of range. -/
def State.discard (s : State) (d : Nat) (h : Word) (why : Nat) : State :=
  let s1 := s.modCtx d (hCtx h) fun c =>
    if why == 0 then { c with late := capDisc c.late }
    else
      let x := c.slot (hSlot h)
      { c.setSlot (hSlot h) { x with disc := min (x.disc + 1) 255 } with disc := capDisc c.disc }
  s1.record d { kind := LogKind.combineDiscard, src := srcContext (hCtx h), detail := why, aux := h.toNat % 2 ^ 32,
                vdev := (s.ctx? d (hCtx h)).elim 255 fun c => (s.launch? c.launch).elim 255 fun l => l.vdev }

def State.takeIn (s : State) (d : Nat) (q : Contrib) : State :=
  match s.current q.handle with
  | none => s.discard d q.handle 0
  | some (_, x) =>
    if x.arrived.getLsbD q.pos then s.discard d q.handle 1
    else if x.gate.elim false fun g => decide (q.pos ≥ g.n) then s.discard d q.handle 2
    else s.modCtx d (hCtx q.handle) fun c =>
      (c.setSlot (hSlot q.handle) { x with arrived := x.arrived ||| BitVec.ofNat 8 (2 ^ q.pos),
                                           held := x.held ++ [(q.pos, q.data)] }).advance (hSlot q.handle)

/-- A context takes in the first contribution at its input, one in a mesh cycle (R307). -/
def State.intake (s : State) (d x : Nat) : State :=
  if (s.ctx? d x).elim false fun c => c.tookAt == some s.time then s
  else
    match (s.die d).input.find? fun q => hCtx q.handle == x with
    | none => s
    | some q =>
      ((s.modDie d fun y => { y with input := y.input.erase q }).takeIn d q).modCtx d x fun c => { c with tookAt := some s.time }

/-- CONTRIBUTION_INTAKE. -/
def execContributionIntake (d x : Nat) (s : State) : Out := .next (s.intake d x)

/-- POOL_GRANT: the first waiting request of a context is granted. -/
def execPoolGrant (d x : Nat) (s : State) : Out := .next (s.grantOne d x)

/-! ### The checks (R292) -/

/-- CSLOT's context number, its .n form and that form's predicate (R291). -/
def slotCtx (o : OpX) : Nat := o.g % 16
def slotN (o : OpX) : Bool := o.e / 64 % 2 == 1
def slotPred (o : OpX) : Nat := o.e % 16

inductive Member where
  | gate | put | stat | free
deriving DecidableEq, Repr

def Member.mem (k : Member) : Bool := k == .gate || k == .put

/-- Checks 2 to 6 in a lane. -/
def Iss.combineCause (i : Iss) (s : State) (k : Member) (o : OpX) (l : Nat) : Option Nat :=
  let h := i.sh.v l o.e
  let p := i.sh.v l o.g
  let a := i.xAddr o l
  let n := if k == .gate then 128 else hBytes h.bits
  firstCause [
    (i.poisoned l (xReads o true (k == .put)), Cause.uncorrectable),
    ((k.mem && i.addrTag o.base o.index l) || h.tag || (k == .put && p.tag), Cause.aAddr),
    (h.bits.toNat / 2 ^ 48 % 4 != 0 || h.bits.getLsbD 22 || (hQuery h.bits && k != .stat) ||
      (k != .put && hPkg h.bits != s.ownPod % 2 ^ 14), Cause.combineSlot),
    (k == .put && p.bits.toNat / 8 != 0, Cause.combinePosition),
    (k.mem && a % (if k == .gate then 128 else 8) != 0, Cause.misaligned),
    (k.mem && a + n > i.tm.larderSize, Cause.spaceRange),
    (k.mem && a < i.tm.st.larderA, Cause.aStore),
    (k.mem && i.tm.larderError a n, Cause.uncorrectable)]

/-- The larder words whose errors the lanes of an issue have met are logged (R183, R316). -/
def Iss.rowErrors (i : Iss) (k : Member) (o : OpX) (faults : List (Nat × Nat × Nat)) (s : State) : State :=
  faults.foldl (fun (x : State) f =>
    if f.2.1 == Cause.uncorrectable && !i.poisoned f.1 (xReads o true (k == .put)) then
      let n := if k == .gate then 128 else hBytes (i.sh.v f.1 o.e).bits
      x.sramEvent i.die false (srcCore i.core) 1 (((i.tm.larderBadWord (i.xAddr o f.1) n).getD 0) / 8) i.tm.vdev
    else x) s

/-- Lanes whose guard is tagged A (check 1). -/
def Iss.guardFaults (i : Iss) : List (Nat × Nat × Nat) := i.aG.map fun l => (l, Cause.aGuard, 0)

def noMem (o : OpX) : Option Nat := if o.base.isSome || o.index.isSome then some Cause.illOperand else none

/-! ### CCFG (R293) -/

/-- The region and the slot count of a configuration, when check 7 passes. -/
def State.configure (s : State) (d launch vdev : Nat) (w : Word) (va : Nat) : Option State :=
  let x := cwCtx w
  match (s.die d).regions.find? fun r => r.vdev == vdev && r.va == va with
  | none => none
  | some r =>
    let old := s.ctx? d x
    let same := old.elim false fun c => c.launch == launch && c.cfg == w && c.region == va
    let foreign := old.elim false fun c => c.launch != launch
    let busy := old.elim false fun c => c.slots.any fun e => e.2.st != 0
    let room := 4096 - ((s.die d).slotsTaken - old.elim 0 fun c => c.s)
    let n := min ((r.bytes - 4096) / cwSlotBytes w) room
    if cwBad w || r.grade != 8 || r.launch != some launch || (r.ctx.isSome && r.ctx != some x) || foreign then none
    else if same then some s
    else if busy || n == 0 then none
    else
      let gen := old.elim 1 fun c => nextGen (c.slots.foldl (fun g (e : Nat × CSlot) => max g e.2.gen) c.baseGen)
      let mark (q : Region) : Region :=
        if q == r then { q with ctx := some x } else if q.ctx == some x then { q with ctx := none } else q
      some (s.modDie d fun q => { q with
        ctxs := q.ctxs.put x { launch := launch, cfg := w, region := va, regionPa := r.pa, s := n, baseGen := gen,
                               waiters := old.elim [] fun c => c.waiters },
        slotsTaken := q.slotsTaken - (old.elim 0 fun c => c.s) + n,
        regions := q.regions.map mark })

def execCcfg (c : Ctl) (o : OpX) (s : State) : Out :=
  issueCommitted (fun i => i.once) c s (fun _ => if o.index.isSome then some Cause.illOperand else none) fun i s1 =>
    let b := match o.base with | some k => i.sh.u k | none => {}
    let e := i.sh.u o.e
    let named := i.batch.filter fun l => i.on.contains l || i.aG.contains l
    let fail (cause : Nat) : State := i.finish none (named.map fun l => (l, cause, b.bits.toNat)) s1
    if !i.aG.isEmpty then fail Cause.aGuard
    else if i.on.isEmpty then i.finish none [] s1
    else if b.tag || e.tag then fail Cause.aAddr
    else
      match s1.configure i.die i.tm.launch i.tm.vdev e.bits b.bits.toNat with
      | none => fail Cause.combineConfig
      | some s2 => i.finish none [] s2

/-! ### CSLOT (R294) -/

/-- One lane's request: the slot's handle, an empty answer, or a place among the waiting lanes. -/
def Iss.slotLane (i : Iss) (o : OpX) (x : State × List Wr × List Nat) (l : Nat) : State × List Wr × List Nat :=
  let e := i.sh.ring l o.d
  let waiting := (x.1.ctx? i.die (slotCtx o)).elim false fun c => !c.waiters.isEmpty
  let pred (b : Bool) : List Wr := if slotN o then [Wr.p l (slotPred o) (some b) (some false)] else []
  match (if waiting then none else x.1.allocSlot i.die (slotCtx o)) with
  | some (s1, h) => (s1, x.2.1 ++ (Wr.v l e allOnes h (some false) :: pred true), x.2.2)
  | none =>
    if slotN o then (x.1, x.2.1 ++ (Wr.v l e allOnes 0 (some false) :: pred false), x.2.2)
    else (x.1.modCtx i.die (slotCtx o) fun c => { c with waiters := c.waiters ++ [(i.t, i.j, l, e)] }, x.2.1, x.2.2 ++ [l])

def execCslot (c : Ctl) (o : OpX) (s : State) : Out :=
  issueCommitted (fun i => i.once) c s (fun i => xRange o true false false i.sh.w <|> noMem o) fun i s1 =>
    match s1.ctx? i.die (slotCtx o) with
    | none => i.finish none (i.guardFaults ++ i.acts.map fun l => (l, Cause.combineConfig, 0)) s1
    | some _ =>
      let r := i.acts.foldl (i.slotLane o) (s1, [], [])
      i.lanes r.2.2 (fun st => { st with pc := i.pc }.parkAt 1 (.slot (slotCtx o)))
        (i.finish (if r.2.1.isEmpty then none else some (i.variable r.2.1)) i.guardFaults r.1)

/-- The first waiting lane of a context receives the slot at the head of the free queue; a lane that waits no more is passed. -/
def State.grantSlot (s : State) (d x : Nat) : State :=
  match (s.ctx? d x).bind fun c => c.waiters.head? with
  | none => s
  | some (t, j, l, e) =>
    let s1 := s.modCtx d x fun y => { y with waiters := y.waiters.drop 1 }
    if (s.team? t).elim true fun tm => ((tm.sheaf j).strand l).park != .slot x then s1
    else
      match s1.allocSlot d x with
      | none => s
      | some (s2, h) =>
        s2.modSheaf t j fun sh => (sh.commit { seq := sh.iss } [Wr.v l e allOnes h (some false)]).modStrand l Strand.go

/-- Every waiting lane that a free slot can serve, in the order in which they parked. -/
def State.grantSlots (s : State) (d x : Nat) : State :=
  (List.range ((s.ctx? d x).elim 0 fun c => c.waiters.length)).foldl (fun y _ => y.grantSlot d x) s

/-- CSLOT_GRANT. -/
def execCslotGrant (d x : Nat) (s : State) : Out := .next (s.grantSlot d x)

/-- A parked CSLOT.p is withdrawn (R294). -/
def State.withdrawCslot (s : State) (t j l x : Nat) : State :=
  match s.team? t with
  | none => s
  | some tm => (s.modCtx tm.die x fun c => { c with waiters := c.waiters.filter fun w => !(w.1 == t && w.2.1 == j && w.2.2.1 == l) }).modSheaf
      t j fun sh => sh.unpark l

/-! ### CGATE (R295) -/

/-- The gate record, or none where it breaks R295. -/
def gateRecord (bs : List Byte) (now vdev phase : Nat) : Option Gate :=
  let f (o n : Nat) : Nat := bytesNat ((bs.drop o).take n)
  let n := f 0x14 1
  let ex := (List.range 8).map fun j => f (0x18 + 2 * j) 2
  let wg := (List.range 8).map fun j => f (0x28 + 4 * j) 4
  if f 0 8 % 128 != 0 || f 0x10 4 > 65535 || !(1 ≤ n && n ≤ 8) || f 0x15 3 != 0 || f 0x48 56 != 0 ||
     ((List.range (n - 1)).any fun j => decide (ex.getD j 0 ≥ ex.getD (j + 1) 0)) ||
     ((List.range 8).any fun j => n ≤ j && (ex.getD j 0 != 0 || wg.getD j 0 != 0)) ||
     ((List.range n).any fun j => !isFin32 (wg.getD j 0)) then none
  else some { dest := f 0 8, done := f 8 8, deadline := if f 0x10 4 = 0 then none else some (now + 2000 * f 0x10 4), n := n,
              wgt := wg.take n, vdev := vdev, phase := phase }

/-- The slot is gated; held contributions out of range are discarded. -/
def State.gateSlot (s : State) (h : Word) (x : CSlot) (g : Gate) : State :=
  let d := hDie h
  let out := x.held.filter fun q => decide (q.1 ≥ g.n)
  let s1 := s.modCtx d (hCtx h) fun c => c.setSlot (hSlot h)
    { x with st := 2, gate := some g, expect := BitVec.ofNat 8 (2 ^ g.n - 1), held := x.held.filter fun q => decide (q.1 < g.n) }
  (out.foldl (fun (y : State) _ => y.discard d h 2) s1).modCtx d (hCtx h) fun c => c.advance (hSlot h)

/-- A lane at the unit: its cause, or the state after it and what it writes to d. -/
def Iss.atUnit (i : Iss) (k : Member) (o : OpX) (l : Nat) (s : State) : Except Nat (State × Option Word) :=
  let h := (i.sh.v l o.e).bits
  if k == .stat && hQuery h then
    match s.ctxOf h with
    | none => .error Cause.combineSlot
    | some c => .ok (s, some c.word)
  else
    match s.current h with
    | none => .error Cause.combineSlot
    | some (_, x) =>
      match k with
      | .stat => .ok (s, some x.report)
      | .free => .ok (s.modCtx (hDie h) (hCtx h) fun c => c.freeSlot (hSlot h) { x with st := 5 }.status, none)
      | .put => .ok (s, none)
      | .gate =>
        if x.gate.isSome then .error Cause.combineSlot
        else
          match gateRecord ((List.range 128).map fun n => i.tm.larderByte (i.xAddr o l + n)) s.time i.tm.vdev i.tm.phase with
          | none => .error Cause.combinePosition
          | some g => .ok (s.gateSlot h x g, none)

/-- The lanes of one issue reach the unit in ascending order: state, writes and faults. -/
def Iss.unitLane (i : Iss) (k : Member) (o : OpX) (x : State × List Wr × List (Nat × Nat × Nat)) (l : Nat) :
    State × List Wr × List (Nat × Nat × Nat) :=
  let a := if k.mem then i.xAddr o l else 0
  match i.combineCause x.1 k o l with
  | some cause => (x.1, x.2.1, x.2.2 ++ [(l, cause, a)])
  | none =>
    match i.atUnit k o l x.1 with
    | .error cause => (x.1, x.2.1, x.2.2 ++ [(l, cause, a)])
    | .ok (s1, w) => (s1, x.2.1 ++ (w.elim [] fun v => [Wr.v l (i.sh.ring l o.d) allOnes v (some false)]), x.2.2)

def combineInstr (k : Member) (c : Ctl) (o : OpX) (s : State) : Out :=
  issueCommitted (fun i => i.once) c s (fun i => xRange o (k == .stat) true false i.sh.w <|> (if k.mem then none else noMem o)) fun i s1 =>
    let r := i.acts.foldl (i.unitLane k o) (s1, [], [])
    (i.reads (xReads o true (k == .put))).finish (if r.2.1.isEmpty then none else some (i.variable r.2.1)) (i.guardFaults ++ r.2.2)
      (i.rowErrors k o r.2.2 r.1)

def execCgate (c : Ctl) (o : OpX) (s : State) : Out := combineInstr .gate c o s
def execCstat (c : Ctl) (o : OpX) (s : State) : Out := combineInstr .stat c o s
def execCfree (c : Ctl) (o : OpX) (s : State) : Out := combineInstr .free c o s

/-! ### CPUT (R296) -/

/-- A lane asks its target context for a pool entry. -/
def Iss.askPool (i : Iss) (o : OpX) (s : State) (l : Nat) : State :=
  let h := (i.sh.v l o.e).bits
  let q : Contrib := { handle := h, pos := (i.sh.v l o.g).bits.toNat % 8, src := .lane i.t i.j l i.seq, offset := i.xAddr o l }
  if hPkg h == s.ownPod % 2 ^ 14 then s.modDie (hDie h) fun d => { d with poolQ := d.poolQ ++ [q] }
  else
    let tag := s.fabric.nextTag
    ({ s with fabric := { s.fabric with nextTag := tag + 1, contribs := s.fabric.contribs ++ [(tag, q)] } }).post (hPkg h) true
      { op := 9, srcPod := s.ownPod, srcDie := i.die, dstDie := hDie h, tag := tag, key := s.keyFor (hPkg h),
        handle := h, pos := q.pos, clock := s.cover i.die (hPkg h) }

/-- Each target context of an issue, once. -/
def Iss.targets (i : Iss) (o : OpX) (ls : List Nat) : List (Nat × Nat) :=
  (ls.map fun l => let h := (i.sh.v l o.e).bits; (hDie h, hCtx h)).dedup

def execCput (c : Ctl) (o : OpX) (s : State) : Out :=
  issueCommitted (fun i => i.once) c s (fun i => xRange o false true true i.sh.w) fun i s1 =>
    let faults := i.acts.filterMap fun l => (i.combineCause s1 .put o l).map fun cause => (l, cause, i.xAddr o l)
    let ls := i.acts.filter fun l => (i.combineCause s1 .put o l).isNone
    let s2 := i.lanes ls (fun st => { st with pc := i.pc }.parkAt 6 (.pool i.seq false))
      ((i.reads (xReads o true true)).finish none (i.guardFaults ++ faults) (i.rowErrors .put o faults s1))
    let s3 := ls.foldl (i.askPool o) s2
    let s4 := (i.targets o ls).foldl (fun (x : State) (q : Nat × Nat) => x.grantAll q.1 q.2 ((x.die q.1).poolQ.length)) s3
    s4.finishCput i.t i.j i.seq

/-! ### Deadlines and releases (R298 to R303) -/

def State.ctxPhased (s : State) (c : Ctx) : Bool := (s.launch? c.launch).elim false fun l => l.phased

/-- A gated slot's deadline has come before it is ready; a phased launch's is ignored (R299, R305). -/
def State.deadlineDue (s : State) (c : Ctx) (k : Nat) : Bool :=
  !(c.slot k).ready && !s.ctxPhased c && (match (c.slot k).gate with
    | some g => g.deadline.elim false fun t => decide (t ≤ s.time)
    | none => false)

/-- The unit has taken in the one contribution that a context takes in in a mesh cycle, so that none can follow (R302, R307). Where
none has come yet, the end of the mesh cycle decides (`State.unitCycle`). -/
def State.intakeOver (s : State) (c : Ctx) : Bool := c.tookAt == some s.time

/-- COMBINE_DEADLINE: a contribution that the unit can still take in in the deadline's cycle goes before (R302). -/
def execCombineDeadline (d x k : Nat) (s : State) : Out :=
  match s.ctx? d x with
  | none => .next s
  | some c => .next (if s.deadlineDue c k && s.intakeOver c then s.modCtx d x fun y => y.timeOut k else s)

/-- A ready slot, or one lost to an error; in AS_COMPLETE mode from the next mesh cycle on (R301, R307). -/
def Ctx.due (c : Ctx) (y : CSlot) : Bool := y.st != 0 && (y.ready || y.bad) && (y.due || !c.asComplete)

/-- A slot that may be released, in its order (R301). -/
def Ctx.releasable (c : Ctx) (k : Nat) : Bool :=
  let x := c.slot k
  let ordered (y : CSlot) : Bool := c.asComplete ||
    !(c.slots.any fun e => e.2.st != 0 && e.2.alloc < y.alloc && y.alloc < e.2.alloc + 64)
  c.due x && ordered x && !(c.slots.any fun e => c.due e.2 && ordered e.2 && e.2.alloc < x.alloc)

/-- No slot of the context that a lower allocation number still holds can become releasable later in this mesh cycle, so that the
slot may be released before the cycle ends: slots that become releasable in one mesh cycle go in ascending order (R301). -/
def Ctx.releasableNow (c : Ctx) (k : Nat) : Bool :=
  c.releasable k && (c.asComplete || !(c.slots.any fun e => e.2.st != 0 && e.2.alloc < (c.slot k).alloc))

/-- A mesh cycle has passed since its ready slots became so. -/
def Ctx.markDue (c : Ctx) : Ctx :=
  { c with slots := c.slots.map fun (e : Nat × CSlot) => (e.1, { e.2 with due := e.2.ready || e.2.bad }) }

/-- The released row's bytes (R298 step 1). -/
def Ctx.rowOut (c : Ctx) (x : CSlot) : List Byte :=
  (List.range c.d).flatMap fun n => natBytes (c.ofmt.width / 8) (readPair c.ofmt .rne (x.pairs.val n (0, 0))).1

/-- The whole destination row's lines, or none where one is unmapped, not writable or approximate. -/
def State.rowLines (s : State) (vdev va n : Nat) : Option (List Nat) :=
  let ls := (List.range (n / 128)).map fun q => va + 128 * q
  let at_ (a : Nat) : Option Nat := match s.pageOf vdev a with
    | some m => if m.w && m.grade == 8 && !isFabric m.pa then some (m.paOf a) else none
    | none => none
  if ls.all fun a => (at_ a).isSome then some (ls.filterMap at_) else none

/-- Perform transition 0 on the DONE object, with the status word as its data; false where it faults (R298 step 4). -/
def State.performDone (s : State) (d vdev va : Nat) (w : Word) : State × Bool :=
  match s.pageOf vdev va with
  | none => (s, false)
  | some m =>
    let pa := lineOf (m.paOf va)
    if !m.w || isFabric pa then (s, false)
    else
      let r : Req := { kind := .store, pa := pa, va := va, ty := .n64, trans := 0, e := w, die := d, clock := (s.die d).clock }
      let s1 := s.applyUpTo (ownerOf pa) r.clock
      match s1.judge r with
      | .done e => if s1.lineBad pa then (s1, false) else ((s1.performStaged r e).walk pa, true)
      | _ => (s1, false)

/-- A DONE transition that fails is logged with the ERR bits of the slot's status word (R298 step 4). -/
def State.combineErrors (s : State) (d x k : Nat) (c : Ctx) (err : Nat) : State :=
  if err / 2 % 2 == 0 then s
  else s.record d { kind := LogKind.combineError, src := srcContext x, detail := err,
                    aux := (s.handle d x c k).toNat % 2 ^ 32, vdev := (s.launch? c.launch).elim 255 fun l => l.vdev }

/-- SLOT_RELEASE (R298). -/
def State.releaseSlot (s : State) (d x k : Nat) (c : Ctx) : State :=
  let y := c.slot k
  let g := y.gate.getD {}
  let bytes := c.rowOut y
  let row := if y.bad || y.gate.isNone then none else s.rowLines g.vdev g.dest bytes.length
  let err := (if y.bad then 4 else if row.isNone then 1 else 0)
  let s1 := match row with
    | none => s
    | some ls => ls.zipIdx.foldl (fun (z : State) (e : Nat × Nat) =>
        z.perform d { pa := e.1, bytes := (bytes.drop (128 * e.2)).take 128 }) s
  let s2 := s1.stampFirst d (s1.die d).unstamped.length
  let z := { y with st := if y.timedOut then 4 else 3, err := err }
  let r := if g.done == 0 then (s2, true) else s2.performDone d g.vdev g.done z.status
  let last := { z with err := if r.2 then err else err + 2 }
  let s3 := if y.bad then r.1.sramEvent d false (srcContext x) 5 k g.vdev else r.1
  ((s3.combineErrors d x k c last.err).modCtx d x fun q => q.freeSlot k last.status)

def execSlotRelease (d x k : Nat) (s : State) : Out :=
  match s.ctx? d x with
  | none => .next s
  | some c => if c.releasableNow k then .next (s.releaseSlot d x k c) else .next s

/-- Release what is releasable of a context, in its order. -/
def State.releaseReady (d x : Nat) : Nat → State → State
  | 0, s => s
  | n + 1, s =>
    match s.ctx? d x with
    | none => s
    | some c =>
      match c.slots.find? fun (e : Nat × CSlot) => c.releasable e.1 with
      | none => s
      | some e => (s.releaseSlot d x e.1 c).releaseReady d x n

/-! ### A mesh cycle of the unit (R296, R299, R301, R302, R307) -/

/-- What a context does by the end of a mesh cycle: it takes in one contribution, its deadlines pass, its slots are released, and
what waits for slots and for pool entries is granted. -/
def State.unitCycle (s : State) (d x : Nat) : State :=
  let s1 := s.intake d x
  let s2 := match s1.ctx? d x with
    | none => s1
    | some c => (c.slots.filter fun (e : Nat × CSlot) => s1.deadlineDue c e.1).foldl (fun (y : State) (e : Nat × CSlot) => y.modCtx d x fun z => z.timeOut e.1) s1
  let s3 := (s2.releaseReady d x ((s2.ctx? d x).elim 0 fun c => c.slots.length)).modCtx d x Ctx.markDue
  (s3.grantSlots d x).grantAll d x (s3.die d).poolQ.length

/-- Every context that has anything to do. -/
def State.unitCycles (s : State) : State :=
  s.dies.foldl (fun (y : State) (e : Nat × Die) =>
    if e.2.ctxs.isEmpty && e.2.poolQ.isEmpty && e.2.input.isEmpty then y
    else (List.range 16).foldl (fun (z : State) x => z.unitCycle e.1 x) y) s

/-! ### The end of a launch's contexts (R306) -/

/-- A context ends: its entries and its region are free, and a lane that still waits for a slot meets no context. -/
def State.endCtx (s : State) (d x : Nat) (c : Ctx) : State :=
  let s1 := s.modDie d fun q => { q with
    ctxs := q.ctxs.del x,
    slotsTaken := q.slotsTaken - c.s,
    regions := q.regions.map fun r => if r.ctx == some x then { r with ctx := none } else r }
  c.waiters.foldl (fun (y : State) (w : Nat × Nat × Nat × Nat) => y.modSheaf w.1 w.2.1 fun sh =>
    if (sh.strand w.2.2.1).park == .slot x then
      (sh.modStrand w.2.2.1 fun st => { st with run := .active, park := .nothing }).raise sh.iss 0 [(w.2.2.1, Cause.combineConfig, 0)]
    else sh) s1

def State.endContexts (s : State) (n : Nat) : State :=
  allDies.foldl (fun (y : State) d =>
    ((s.die d).ctxs.filter fun (e : Nat × Ctx) => e.2.launch == n).foldl (fun (z : State) (e : Nat × Ctx) => z.endCtx d e.1 e.2) y) s

end Sys2Proof.Machine
end

