-- ==== Sys2Proof/Machine/CoreTeam.lean ====
section
/-! DEFINITION. ROLE and its grants (R166 to R169), the barriers (R170, R171), SREAD (R184, R185), PLEVEL, SETGRADE and
PREAD (R251 to R253, R257), forced commits (R178), aging (R174) and the return of a result (R62). -/

namespace Sys2Proof.Machine

/-! ### ROLE (R165 to R169) -/

/-- R169: when every sheaf that is not finished waits to grow, each takes role-deadlock and its request leaves. -/
def State.roleDeadlock (s : State) (t : Nat) : State :=
  match s.team? t with
  | none => s
  | some tm =>
    let left := tm.sheafIdx.filter fun j => !(tm.sheaf j).finished
    if !left.isEmpty && left.all fun j => allLanes.all fun l => ((tm.sheaf j).strand l).run == .parked 3 then
      ((left.foldl (fun x j => x.modSheaf t j fun sh =>
          sh.raise sh.iss 0 (allLanes.map fun l => (l, Cause.roleDeadlock, 0))) s).modCore tm.core fun c =>
        { c with borrow := c.borrow.filter fun b => b.1 != t }).serveBorrow tm.core
    else s

/-- R166's checks. -/
def roleCheck (k : Nat) (i : Iss) : Option Nat :=
  if k > 7 || (i.tm.st.role? k).isNone || (i.batch.any fun l =>
      let st := i.sh.strand l
      st.depth != 0 || st.base != 0 || st.floor != 0) then some Cause.illOperand
  else none

def execRole (c : Ctl) (o : OpS) (s : State) : Out :=
  collective c s (roleCheck o.sel) fun i s1 =>
    match i.tm.st.role? o.sel with
    | none => s1
    | some r =>
      let b := i.tm.toBorrow i.j r
      if b == 0 || ((s1.core i.core).borrow.isEmpty && b ≤ s1.freePool i.core) then (s1.grantRole i.t i.j r).serveBorrow i.core
      else
        ((s1.modSheaf i.t i.j fun sh => sh.modLanes allLanes fun st => st.parkAt 3 .growth).modCore i.core fun q =>
          { q with borrow := q.borrow ++ [(i.t, i.j, o.sel)] }).roleDeadlock i.t

/-- ROLE_GRANT: the head request is granted once the free pool holds its units (R168). -/
def execRoleGrant (core : Nat) (s : State) : Out := .next ((s.grantHead core).getD s)

/-! ### Barriers -/

/-- BAR and BARX: the lanes park, and the completion test follows. -/
def barRun (m : Iss → Option Nat) (i : Iss) (s : State) : State :=
  (s.modSheaf i.t i.j fun sh => sh.modLanes i.batch fun st => st.parkAt 2 (.barrier (m i))).settled i.t

def execBar (c : Ctl) (_o : OpS) (s : State) : Out :=
  issue c s (fun _ => if hasGuard c then some Cause.illOperand else none) (barRun fun _ => none)

/-- The mask of a BARX. -/
def barMask (k : Nat) (i : Iss) : Nat := (i.sh.u k).bits.toNat

def execBarx (c : Ctl) (o : OpS) (s : State) : Out :=
  issue c s
    (fun i => if hasGuard c || !o.b.uni || barMask o.b.idx i ≥ 65536 || !(barMask o.b.idx i).testBit i.j
              then some Cause.illOperand else none)
    (barRun fun i => some (barMask o.b.idx i))

/-! ### SREAD (R184, R185) -/

/-- The value of a special register. -/
def Iss.special (i : Iss) (s : State) (pid : Bool) (reg l : Nat) : Nat :=
  match reg with
  | 0 => l
  | 1 => if pid then i.tm.pid else i.tm.lid
  | 2 => if pid then i.sh.slot else i.j
  | 3 => if pid then i.core else if i.tm.st.phased then i.tm.lid else s.lidCore i.tm.part i.core
  | 4 => if pid then i.die else if i.tm.st.phased then 0 else s.lidDie i.tm.part i.die
  | 5 => i.tm.phase
  | 6 => (i.sh.strand l).item.toNat
  | 7 => s.time
  | 10 => i.tm.grade
  | 11 => i.tm.level
  | _ => 0

/-- What R185 refuses of a selector. -/
def sreadBad (sel : Nat) : Bool :=
  let u := sel ≥ 128
  let pid := sel / 32 % 2 == 1
  let reg := sel % 32
  reg == 8 || reg == 9 || reg ≥ 12 || (pid && !(1 ≤ reg && reg ≤ 4)) || (u && reg == 0) || sel / 64 % 2 == 1

/-- Writes of a system register's value: in every lane whose guard is true, or once. No rule says which lane's item the uniform
form gives: that of the first lane whose guard is true (DESIGN CHOICE, log entry 48). -/
def Iss.specialWrites (i : Iss) (u : Bool) (d : Nat) (val : Nat → Nat) : List Wr :=
  if u then i.wrU d (BitVec.ofNat 64 (val ((i.on.head?).getD 0)), false)
  else i.wrV d i.on fun l => (BitVec.ofNat 64 (val l), false)

/-- SREAD and PREAD: the results, or phased-time in every lane whose guard is true. -/
def Iss.readSpecial (i : Iss) (o : OpS) (phased : Bool) (val : Nat → Nat) (s : State) : State :=
  if phased then i.finish none (i.onFaults Cause.phasedTime 0) s
  else
    let ws := i.specialWrites (o.sel ≥ 128) o.d val
    i.finish (if ws.isEmpty then none else some (i.variable ws)) [] s

def sRange (o : OpS) (i : Iss) : Bool := o.sel < 128 && o.d ≥ i.sh.w

def execSread (c : Ctl) (o : OpS) (s : State) : Out :=
  issuePriv (fun i => i.tm.priv || o.sel / 32 % 2 == 0) c s
    (fun i => firstCause [(sRange o i, Cause.registerRange), (sreadBad o.sel, Cause.illOperand)])
    fun i s1 =>
      i.readSpecial o (i.tm.st.phased && o.sel % 32 == 7) (i.special s1 (o.sel / 32 % 2 == 1) (o.sel % 32)) s1

def preadBad (sel : Nat) : Bool := sel / 32 % 4 != 0 || !(sel % 32 == 8 || sel % 32 == 9)

def execPread (c : Ctl) (o : OpS) (s : State) : Out :=
  issue c s (fun i => firstCause [(sRange o i, Cause.registerRange), (preadBad o.sel, Cause.illOperand)])
    fun i s1 =>
      let k := s1.cluster i.cluster
      i.readSpecial o i.tm.st.phased (fun _ => (if o.sel % 32 == 8 then k.permits else k.stallw).toNat) s1

/-! ### PLEVEL and SETGRADE (R251, R252) -/

/-- A lane whose value lies in a register with an uncorrectable error: it traps, and asks for nothing (R183). -/
def askReads (o : OpS) : List Nat := if o.sel ≥ 128 || o.b.uni then [] else [o.b.idx]

/-- The lanes that ask, and the causes of the others. -/
def Iss.askers (i : Iss) (o : OpS) : List Nat := i.on.filter fun l => !i.poisoned l (askReads o)

def Iss.askFaults (i : Iss) (o : OpS) : List (Nat × Nat × Nat) :=
  (i.on.filter fun l => i.poisoned l (askReads o)).map fun l => (l, Cause.uncorrectable, 0)

/-- The value that a lane asks for. -/
def Iss.asked (i : Iss) (o : OpS) (l : Nat) : Val :=
  if o.sel ≥ 128 then { bits := BitVec.ofNat 64 (o.sel % 16) } else i.slotVal o.b l

/-- R252's condition in some participating lane. -/
def Iss.requestBad (i : Iss) (o : OpS) (top : Nat) : Bool :=
  i.on.any fun l =>
    let v := i.asked o l
    i.aG.contains l || (!i.poisoned l (askReads o) && (decide (v.bits.toNat > top) || v.tag))

def requestCheck (o : OpS) (top : Nat) (i : Iss) : Option Nat :=
  firstCause [(o.sel < 128 && !o.b.uni && o.b.idx ≥ i.sh.w, Cause.registerRange), (i.requestBad o top, Cause.illOperand)]

/-- The predicate in every participating lane. -/
def Iss.okWrites (i : Iss) (o : OpS) (ok : Bool) : List Wr := i.wrP o.d (i.askers o) fun _ => (ok, false)

def execPlevel (c : Ctl) (o : OpS) (s : State) : Out :=
  issue c s (requestCheck o 6) fun i s1 =>
    let faults := i.askFaults o
    let done (p : Option Pending) (x : State) : State := (i.reads (askReads o)).finish p faults x
    if (i.askers o).isEmpty then done none s1
    else
      let r := ((i.askers o).map fun l => (i.asked o l).bits.toNat).foldl max 0
      let ok := levelMv r ≥ (s1.cluster i.cluster).pfloor
      done (some (i.variable (i.okWrites o ok)))
        (if ok then s1.modTeam i.t fun tm => { tm with level := r, levelWait := tm.levelWait ++ [(i.j, i.seq, tm.level)] }
         else s1)

/-- A grade is registered for a team: boundaries count it once its predicate is written (R252, R261). -/
def Team.setGrade (tm : Team) (r j seq : Nat) : Team :=
  { tm with grade := r, gradeWait := tm.gradeWait ++ [(j, seq, tm.grade)] }

def execSetgrade (c : Ctl) (o : OpS) (s : State) : Out :=
  issue c s (requestCheck o 8) fun i s1 =>
    let faults := i.askFaults o
    let done (p : Option Pending) (x : State) : State := (i.reads (askReads o)).finish p faults x
    if (i.askers o).isEmpty then done none s1
    else
      let r := ((i.askers o).map fun l => (i.asked o l).bits.toNat).foldl min 8
      let ok := r == 8 || gradeMv r ≥ (s1.cluster i.cluster).afloor
      if ok && r < s1.effectiveGrade i.cluster && !(s1.cluster i.cluster).serves s1.time r then
        done (some { i.variable (i.okWrites o true) with ready := false })
          ((s1.modTeam i.t fun tm => { tm with gradeReq := tm.gradeReq ++ [(r, i.j, i.seq)] }).retarget i.cluster)
      else
        done (some (i.variable (i.okWrites o ok)))
          (if ok then (s1.modTeam i.t fun tm => tm.setGrade r i.j i.seq).retarget i.cluster else s1)

/-! ### Events of the core -/

/-- ISSUE_AGING: the lowest-slot sheaf ready for 4,096 cycles without issuing is the port's next choice (R174). -/
def execIssueAging (core : Nat) (memPort : Bool) (s : State) : Out :=
  let cands : List (Nat × Nat × Nat) := (s.teamsOn core).flatMap fun tm =>
    (tm.sheafIdx.filter fun j => (if memPort then (tm.sheaf j).readyM else (tm.sheaf j).readyV) ≥ 4096).map fun j =>
      ((tm.sheaf j).slot, tm.key, j)
  match cands.foldl (fun (b : Option (Nat × Nat × Nat)) x => match b with
      | none => some x
      | some y => if x.1 < y.1 then some x else b) none with
  | none => .next s
  | some x => .next (s.modCore core fun q =>
      if memPort then { q with agedM := some (x.2.1, x.2.2) } else { q with agedV := some (x.2.1, x.2.2) })

/-- RESULT_RETURN: a ready variable-latency result is written in the given lanes (R62). -/
def execResultReturn (t j seq : Nat) (lanes : Lanes) (s : State) : Out :=
  .next (s.modSheaf t j fun sh => sh.returnResult seq lanes)

end Sys2Proof.Machine
end

