-- ==== Sys2Proof/Machine/Staged.lean ====
section
/-! DEFINITION. LDT, STT and XTR (R275 to R280) and STBL (R281), with the loading of class tables (R266). -/

namespace Sys2Proof.Machine

/-! ### LDT, STT, XTR -/

/-- The transition of an instruction. -/
def xTrans (o : OpX) : Nat := o.g % 16

/-- What a staged instruction reads beside its address. -/
def stagedReadsE (k : ReqKind) (o : OpX) : Bool := k == .stt || (k == .xtr && xTrans o == 14)

def OpX.unit (k : ReqKind) (o : OpX) : Nat := if k == .xtr then 128 else o.ty.width / 8

/-- Rows 1 to 7 of R276 in a lane. -/
def Iss.judgeStaged (i : Iss) (s : State) (k : ReqKind) (o : OpX) : List Judged :=
  i.on.map fun l =>
    let a := i.xAddr o l
    let e := i.sh.v l o.e
    { lane := l, addr := a,
      acc := if i.poisoned l (xReads o (stagedReadsE k o) false) then .fault Cause.uncorrectable
             else if i.addrTag o.base o.index l then .fault Cause.aAddr
             else if i.aG.contains l then .fault Cause.aGuard
             else if stagedReadsE k o && e.tag then .fault (if k == .stt then Cause.aStore else Cause.aAtomval)
             else if k == .xtr && xTrans o == 14 && e.bits.toNat / 2 ^ 22 != 0 then .fault Cause.illOperand
             else i.globalAcc s (k != .stt) (k != .ldt) true (OpX.unit k o) l a }

def remoteFn : ReqKind → Nat
  | .ldt => 0
  | .stt => 1
  | _ => 2

def Iss.stagedReqs (i : Iss) (k : ReqKind) (o : OpX) (s : State) (js : List Judged) : List (Nat × Req) :=
  (numbered s.ids (js.filter fun x => match x.acc with
    | .go _ _ _ => true
    | _ => false)).filterMap fun x => match x.2.acc with
    | .go m pa g => some (x.2.lane,
        { id := x.1
          kind := k
          src := .lane i.t i.j x.2.lane i.seq
          seq := i.seq
          pa := pa
          va := m.elim 0 fun q => q.va + (pa - q.pa)
          grade := g
          staged := s.preciseCellar pa
          ty := o.ty
          fn := remoteFn k
          trans := xTrans o
          e := if stagedReadsE k o then (i.sh.v x.2.lane o.e).bits else 0
          dst := if k == .stt then .none else .v (i.sh.ring x.2.lane o.d)
          die := i.die
          clock := (s.die i.die).clock
          launch := i.tm.launch })
    | _ => none

/-- The lanes park with WHY = 0 at the instruction until their homes answer (R270). -/
def Iss.parkRequests (i : Iss) (rs : List (Nat × Req)) (s : State) : State :=
  s.modSheaf i.t i.j fun sh => rs.foldl (fun h r =>
    h.modStrand r.1 fun st => { st with pc := i.pc }.parkAt 0 (.request r.2.id)) sh

def stagedInstr (k : ReqKind) (top : Nat) (c : Ctl) (o : OpX) (s : State) : Out :=
  issueCommitted (fun i => i.once) c s
    (fun i => xRange o (k != .stt) (stagedReadsE k o) false i.sh.w <|>
      (if xTrans o > top then some Cause.illOperand else none)) fun i s1 =>
    let js := i.judgeStaged s1 k o
    let ls := js.filterMap fun x => match x.acc with
      | .go _ _ _ => some x.lane
      | _ => none
    let s2 := s1.publishLanes i.die i.t i.j ls
    let rs := i.stagedReqs k o s2 js
    let ws := if k == .stt then [] else i.wrV o.d [] fun _ => (0, false)
    let s3 := i.park (i.accParks false js)
      ((i.reads (xReads o (stagedReadsE k o) false)).finish (if ws.isEmpty then none else some (i.variable ws)) (i.accFaults false js) (fillAll i.core js s2))
    rs.foldl (fun (x : State) r => x.request r.2 3) { (i.parkRequests rs s3) with ids := s3.ids + rs.length }

def execLdt (c : Ctl) (o : OpX) (s : State) : Out := stagedInstr .ldt 13 c o s
def execStt (c : Ctl) (o : OpX) (s : State) : Out := stagedInstr .stt 13 c o s
def execXtr (c : Ctl) (o : OpX) (s : State) : Out := stagedInstr .xtr 14 c o s

/-! ### Loading a class (R266, R281) -/

/-- Class numbers that a partition has loaded on a die. -/
def Die.tablesOf (d : Die) (part : Nat) : Nat := (d.tables.filter fun t => t.1 == part).length

def State.shareOf (s : State) (part d : Nat) : Nat :=
  match s.service.parts.find? fun p => p.part == part with
  | some p => p.shares.val d 0
  | none => 0

/-- Launches that hold a class number of a partition. -/
def State.holdersOf (s : State) (part k : Nat) : List Nat :=
  (s.service.holders.filter fun h => h.1 == part && h.2.1 == k).map fun h => h.2.2

def State.addHolder (s : State) (part k launch : Nat) (only : Bool) : State :=
  { s with service := { s.service with holders :=
      (part, k, launch) :: s.service.holders.filter fun h => !(h.1 == part && h.2.1 == k && (only || h.2.2 == launch)) } }

/-- An accepted launch that is not yet complete holds its class numbers (R266). -/
def State.isRunning (s : State) (n : Nat) : Bool := (s.launch? n).elim false fun l => l.state != 2

/-- Rows 5 and 6 of R281, or the table loaded on every die of the partition. -/
def State.loadClass (s : State) (part launch k : Nat) (im : List (BitVec 16)) : Except Nat State :=
  let ds := s.partDies part
  let cur := s.classImage (ds.headD 0) part k
  if cur == some im then .ok (if k < 4 then s else s.addHolder part k launch false)
  else if cur.isSome && (k < 4 || ((s.holdersOf part k).any fun n => n != launch && s.isRunning n) ||
      ds.any fun d => liveOf (s.die d).live part k != 0) then .error Cause.classBusy
  else if cur.isNone && ds.any fun d => (s.die d).tablesOf part ≥ s.shareOf part d then .error Cause.tableFull
  else
    .ok ((ds.foldl (fun (x : State) d => x.modDie d fun q =>
      { q with tables := (part, k, im) :: q.tables.filter fun t => !(t.1 == part && t.2.1 == k) }) s).addHolder part k launch true)

/-- A class number that no running launch holds and that has no live object is unloaded (R266). -/
def State.unloadClasses (s : State) (part : Nat) : State :=
  let ds := s.partDies part
  let ks := ((s.die (ds.headD 0)).tables.filter fun t => t.1 == part).map fun t => t.2.1
  (ks.filter fun k => !((s.holdersOf part k).any s.isRunning) && ds.all fun d => liveOf (s.die d).live part k == 0).foldl
    (fun (x : State) k => ds.foldl (fun (y : State) d => y.modDie d fun q =>
      { q with tables := q.tables.filter fun t => !(t.1 == part && t.2.1 == k) }) x) s

/-- The 512 bytes of an image as its 256 entries. -/
def imageOf (bs : List Byte) : List (BitVec 16) :=
  (List.range 256).map fun k => BitVec.ofNat 16 (bytesNat ((bs.drop (2 * k)).take 2))

/-! ### STBL -/

/-- The same cause in every lane whose guard is true; the other lanes pass. -/
def Iss.onTrap (i : Iss) (cause addr : Nat) (s : State) : State := i.finish none (i.onFaults cause addr) s

/-- A miss parks every lane whose guard is true (R281). -/
def Iss.onPark (i : Iss) (va : Nat) (s : State) : State :=
  i.park (i.on.map fun l => (l, va)) (i.finish none [] s)

/-- What the four lines of an image meet: each is translated for itself. -/
inductive ImageAcc where
  | fault (cause va : Nat)
  | park (va : Nat)
  | ok (lines : List (Mapping × Nat))
deriving DecidableEq, Repr

/-- Join what a line meets with what the later ones meet: the first fault, else the first miss. -/
def ImageAcc.cons (va : Nat) (a : Access) (r : ImageAcc) : ImageAcc :=
  match a, r with
  | .fault c, _ => .fault c va
  | _, .fault c v => .fault c v
  | .park, _ => .park va
  | _, .park v => .park v
  | .ok m pa, .ok l => .ok ((m, pa) :: l)

/-- Rows 5 to 7 of R276 for a read of each of the image's lines (R281). -/
def Iss.imageLines (i : Iss) (s : State) (a : Nat) : ImageAcc :=
  [a, a + 128, a + 256, a + 384].foldr (fun va r =>
    ImageAcc.cons va (s.access i.core i.tm.vdev (i.sh.strand (i.on.headD 0)).refused true false false 128 va) r) (.ok [])

def execStbl (c : Ctl) (o : OpX) (s : State) : Out :=
  issueCommitted (fun i => i.once) c s
    (fun _ => if o.base.isNone || o.index.isSome then some Cause.illOperand else none) fun i s1 =>
    if i.on.isEmpty then i.finish none [] s1
    else
      let b := i.sh.u (o.base.getD 0)
      let e := i.sh.u o.e
      let a := b.bits.toNat
      if b.tag || e.tag then i.onTrap Cause.aAddr a s1
      else if e.bits.toNat ≥ 64 then i.onTrap Cause.illOperand 0 s1
      else
        match i.imageLines s1 a with
        | .fault cause va => i.onTrap cause va s1
        | .park va => i.onPark va s1
        | .ok ms =>
          let im := imageOf (ms.flatMap fun x =>
            (List.range 128).map fun k => s1.byteAt i.die (s1.ownWrites i.tm i.j (maskOf i.on)) (x.2 + k))
          let s2 := ms.foldl (fun (x : State) y => x.fill i.core y.1) s1
          match ms.find? fun x => s2.poisonAt x.2 128 with
          | some x => i.onTrap Cause.uncorrectable a (s2.cellarErrorAt x.2 128 i.tm.vdev)
          | none =>
          if (ms.any fun x => x.1.grade != 8) || imageBad im then i.onTrap Cause.illOperand a s2
          else
            match s2.loadClass i.tm.part i.tm.launch e.bits.toNat im with
            | .error cause => i.onTrap cause 0 s2
            | .ok s3 => i.finish (some (i.variable [])) [] s3

end Sys2Proof.Machine
end

