-- ==== Sys2Proof/Machine/Engine.lean ====
section
/-! DEFINITION. Engine jobs: descriptors and footprints (R215 to R217), the job table (R212 to R214), their running
(R218 to R223), waits and queries (R224), the decoder (R225, R226) and registrations (R272). -/

namespace Sys2Proof.Machine

/-! ### Descriptors (R215) -/

def Job.src (j : Job) : Nat := j.d0.toNat
def Job.dst (j : Job) : Nat := j.d1.toNat
def Job.ssp (j : Job) : Nat := j.d3.toNat % 16
def Job.dsp (j : Job) : Nat := j.d3.toNat / 16 % 16
def Job.tiles (j : Job) : Nat := j.d2.toNat / 2 ^ 32 % 65536
def Job.rows (j : Job) : Nat := j.d2.toNat % 65536
def Job.rowBytes (j : Job) : Nat := 8 * (j.d2.toNat / 65536 % 65536)
def Job.idx (j : Job) : Nat := j.d3.toNat / 2 ^ 32
def Job.len (j : Job) : Nat := j.d2.toNat % 2 ^ 32

/-- Bytes of the source region (R216). -/
def Job.srcLen (j : Job) : Nat :=
  match j.kind with
  | .cpos => j.d2.toNat / 2 ^ 32
  | .dtab => 256
  | _ => j.len

/-- Size of the written region (R216, R219). -/
def Job.size (j : Job) : Nat :=
  match j.kind with
  | .cpy | .cpyr => j.len
  | .cpos => j.rowBytes * j.rows
  | .dtab => 0
  | .dec => 8192 * j.tiles

/-- UNIT of a job (R213). -/
def Job.unit (j : Job) : Nat := if j.kind == .dtab || j.kind == .dec then 1 else 0

/-- A field outside R215, and the other conditions of R217 row 4 on the descriptor. -/
def Job.descriptorBad (j : Job) : Bool :=
  let d2 := j.d2.toNat
  let d3 := j.d3.toNat
  j.src % 8 != 0 || j.dst % 8 != 0 || j.ssp > 2 || d3 / 256 % 2 ^ 24 != 0 || (j.kind != .cpos && j.idx != 0) ||
  (match j.kind with
   | .cpy => j.dsp > 3 || d2 / 2 ^ 32 != 0 || j.len % 8 != 0
   | .cpyr => j.dsp > 2 || d2 / 2 ^ 32 != 0 || j.len % 8 != 0
   | .cpos => j.dsp > 3 || j.rowBytes == 0 || j.srcLen % 8 != 0 || j.idx % 4 != 0
   | .dtab => j.dsp != 0 || j.dst != 0 || d2 != 0
   | .dec => j.dsp != 3 || j.dst % 8192 != 0 || d2 / 2 ^ 48 != 0 || j.tiles == 0 || j.tiles > 3072 || j.len < 256 * j.tiles)

/-! ### Footprints (R216) -/

/-- A region: space, start, length. -/
structure Region3 where
  space : Nat
  start : Nat
  len : Nat
deriving DecidableEq, Repr

/-- Regions overlap: in one space, by their addresses. Regions named in two spaces, a cellar window's offset and the global address of
the same bytes, or by two global addresses of one page, make no edge: R216 compares the regions that its table gives and does not say
what of two names of one byte (DESIGN CHOICE, log entry 45). -/
def Region3.meets (a b : Region3) : Bool := a.space == b.space && rangesMeet (a.start, a.len) (b.start, b.len)

def Job.reads (j : Job) : List Region3 :=
  [⟨j.ssp, j.src, j.srcLen⟩] ++
  (match j.kind with
   | .cpyr => [⟨j.dsp, j.dst, j.size⟩]
   | .cpos => [⟨1, j.idx, 4 * j.rows⟩]
   | _ => [])

def Job.writesTo (j : Job) : List Region3 := if j.kind == .dtab then [] else [⟨j.dsp, j.dst, j.size⟩]

/-- Job `j` must wait for job `i` (R216). -/
def Job.dependsOn (j i : Job) : Bool :=
  (j.reads.any fun a => i.writesTo.any fun b => a.meets b) || (j.writesTo.any fun a => i.reads.any fun b => a.meets b) ||
  (j.writesTo.any fun a => i.writesTo.any fun b => a.meets b)

def Job.inFlight (j : Job) : Bool := j.state < 2

/-- A region of the larder, the cellar window or the attic extends past the team's allocation (R217 row 5). -/
def State.regionPast (s : State) (tm : Team) (r : Region3) : Bool :=
  if r.len == 0 then false
  else
    match r.space with
    | 1 => r.start + r.len > tm.larderSize
    | 2 =>
      r.start + r.len > Config.cellarBytes ||
      (List.range ((r.start % 1048576 + r.len + 1048575) / 1048576)).any fun k =>
        match s.region? (cellarPa tm.die ((r.start / 1048576 + k) * 1048576)) with
        | some g => g.launch != some tm.launch || g.ctx.isSome
        | none => true
    | 3 => r.start + r.len > s.atticSize tm
    | _ => false

/-! ### Issue (R217, R222) -/

def Iss.jobOf (i : Iss) (k : JobKind) (o : OpE) : Job :=
  let d (n : Nat) : Word := (i.sh.u (o.sd + n)).bits
  { kind := k, chan := o.chan, d0 := d 0, d1 := d 1, d2 := d 2, d3 := d 3, x := o.x, ty := o.ty, sheaf := i.j, lanes := maskOf i.on }

/-- What row 4 of R217 judges on the word alone, whatever the guards hold (R57): the descriptor's uniforms, an so that SN says is
not there, and a decoder job's slot. -/
def jobWordBad (k : JobKind) (o : OpE) : Bool :=
  o.sd > 60 || (o.sn && o.so != 0) || ((k == .dtab || k == .dec) && o.chan > 3)

/-- Rows 2 to 5 of R217. -/
def Iss.jobCause (i : Iss) (s : State) (k : JobKind) (o : OpE) : Option Nat :=
  let j := i.jobOf k o
  firstCause [
    ((List.range 4).any fun n => o.sd + n < 64 && (i.sh.u (o.sd + n)).tag, Cause.aFootprint),
    (!o.sn && (i.sh.u o.so).tag, Cause.aAddr),
    (jobWordBad k o || j.descriptorBad || (j.writesTo.any fun w => w.meets ⟨j.ssp, j.src, j.srcLen⟩), Cause.descriptor),
    ((j.reads ++ j.writesTo).any (s.regionPast i.tm), Cause.spaceRange)]

/-- The number that a job's ticket shows (R213). -/
def jobNumber (seq : Nat) : Nat := (seq - 1) % (2 ^ 32 - 1) + 1

def Job.ticket (j : Job) : Word := BitVec.ofNat 64 (j.unit * 2 ^ 36 + j.chan % 16 * 2 ^ 32 + jobNumber j.seq)

/-- An engine arrival of a job (R220, R329): every write of the die so far is stamped before it is sent. -/
def State.sendArrival (s : State) (t : Nat) (j : Job) : State :=
  match s.team? t, j.so with
  | some tm, some pa =>
    let s1 := s.stampFirst tm.die (s.die tm.die).unstamped.length
    ({ s1 with ids := s1.ids + 1 }.send
      { id := s1.ids, kind := .arrival, src := .job t j.seq, pa := pa, va := j.soVa, trans := 15, die := tm.die,
        clock := (s1.die tm.die).clock, launch := tm.launch }).modTeam t fun x => x.modJob j.seq fun q => { q with asked := true }
  | _, _ => s

/-- A job that has ended makes its arrival, after its writes have left the team's share (R177, R218, R220). -/
def State.jobArrives (s : State) (t seq : Nat) : State :=
  match s.team? t with
  | none => s
  | some tm =>
    match tm.job? seq with
    | none => s
    | some j =>
      let held := tm.guarded.elim false fun g => !g.share.isEmpty || s.shareOut t
      if j.state ≥ 2 && j.so.isSome && !j.asked && !held then s.sendArrival t j else s

/-- A job enters the table and gets its ticket; it is a release of its batch's stores and of those that the batch has seen (R212, R213,
R220). A job of no bytes
completes at issue (R219). -/
def State.enterJob (s : State) (t j iss ticket : Nat) (batch : Lanes) (job : Job) : State :=
  match s.team? t with
  | none => s
  | some tm =>
    let seq := tm.nextSeq
    let q : Job := { job with seq := seq, order := s.ids, entries := tm.matrix.nextId,
                              state := if job.kind != .dtab && job.size == 0 then 2 else 0 }
    let s1 := ({ s with ids := s.ids + 1 }.flush fun w => ofLanes t j batch w || w.visibleTo (sheafId t j) tm.core).modTeam t fun x =>
      { x with nextSeq := seq + 1, jobs := (x.jobs.filter fun (y : Job) => y.seq + 64 > seq) ++ [q] }
    ((s1.modSheaf t j fun sh => sh.push { seq := iss, writes := [Wr.uniform ticket q.ticket] }).jobArrives t seq)

/-- Send the registration of a completion object; the sheaf is held (R272). -/
def Iss.register (i : Iss) (o : OpE) (job : Job) (pa va : Nat) (s : State) : State :=
  let id := s.ids
  let w : JobWait := { id := id, job := { job with so := some pa, soVa := va }, j := i.j, iss := i.seq, ticket := o.st,
                       batch := maskOf i.batch, on := maskOf i.on, so := va }
  ((({ s with ids := id + 1 }.modTeam i.t fun tm => { tm with jobWait := tm.jobWait ++ [w] }).modSheaf i.t i.j fun sh =>
    { sh with hold := .home [id] }).send
    { id := id, kind := .registration, src := .lane i.t i.j 0 i.seq, seq := i.seq, pa := pa, va := va, trans := 15,
      die := i.die, clock := (s.die i.die).clock, launch := i.tm.launch })

def jobInstr (k : JobKind) (commits : Bool) (c : Ctl) (o : OpE) (s : State) : Out :=
  issueCommitted (fun i => commits && i.once) c s
    (fun i => firstCause [(k == .cpyr && o.x % 4 == 3, Cause.illOperand), (!i.aG.isEmpty, Cause.aGuard)]) fun i s1 =>
    if i.on.isEmpty then (if jobWordBad k o then i.batchRaise Cause.descriptor 0 s1 else i.finish none [] s1)
    else
      match i.jobCause s1 k o with
      | some cause => i.batchRaise cause 0 s1
      | none =>
        let job := i.jobOf k o
        if o.sn then (i.finish none [] s1).enterJob i.t i.j i.seq o.st (maskOf i.batch) job
        else
          let va := (i.sh.u o.so).bits.toNat
          match s1.access i.core i.tm.vdev (i.sh.strand (i.on.headD 0)).refused false false false 1 va with
          | .fault _ => i.onTrap Cause.notStaged va s1
          | .park => i.onPark va s1
          | .ok m pa => i.register o job pa va (s1.fill i.core m)

def execCpy (c : Ctl) (o : OpE) (s : State) : Out := jobInstr .cpy true c o s
def execCpyr (c : Ctl) (o : OpE) (s : State) : Out := jobInstr .cpyr true c o s
def execCpos (c : Ctl) (o : OpE) (s : State) : Out := jobInstr .cpos true c o s
def execDtab (c : Ctl) (o : OpE) (s : State) : Out := jobInstr .dtab false c o s
def execDec (c : Ctl) (o : OpE) (s : State) : Out := jobInstr .dec false c o s

/-- What a registration meets: an uncorrectable error of its queue entry, of the line or of its metadata (R247, R276), or one of
R272's two refusals. -/
def State.registrationCause (s : State) (r : Req) : Option Nat :=
  let o := s.metaOf r.pa
  if r.bad then some Cause.uncorrectable
  else if !s.preciseCellar r.pa then some Cause.notStaged
  else if s.lineBad r.pa then some Cause.uncorrectable
  else if !o.stg || o.pend ≥ 65535 then some Cause.notStaged
  else none

/-- The record of an error that a request's home meets: of its queue entry, or of its line (R247, R263). -/
def State.homeError (s : State) (r : Req) : State := if r.bad then s.entryErrorAt r else s.cellarError r

/-- COMPLETION_REGISTRATION: the home adds an arrival to the object's PEND, and the job is issued; or it refuses (R272). -/
def execCompletionRegistration (k : Nat) (s : State) : Out :=
  match s.headOf k fun q => q == .registration with
  | none => .next s
  | some (r, s1) =>
    match r.src with
    | .lane t j _ _ =>
      match s1.team? t with
      | none => .next s1
      | some tm =>
        match tm.jobWait.find? fun w => w.id == r.id with
        | none => .next s1
        | some w =>
          let s2 := (s1.applyUpTo (ownerOf r.pa) r.clock).modTeam t fun x =>
            (({ x with jobWait := x.jobWait.filter fun y => y.id != r.id }).modSheaf j fun sh =>
              { sh with hold := sh.hold.without r.id })
          let o := s2.metaOf r.pa
          let skip (ls : List Nat) (x : State) : State :=
            x.modSheaf t j fun sh => sh.modLanes ls fun st => { st with pc := st.pc + 8 }
          match s2.registrationCause r with
          | none =>
            .next (((skip (lanesOf w.batch) (s2.setMeta r.pa { o with pend := o.pend + 1 })).enterJob t j w.iss w.ticket
              w.batch w.job).walk (lineOf r.pa))
          | some cause =>
            .next ((skip (lanesOf (w.batch &&& ~~~w.on)) (if cause == Cause.uncorrectable then s2.homeError r else s2)).modSheaf t j fun sh =>
              sh.raise w.iss 0 ((lanesOf w.on).map fun l => (l, cause, w.so)))
    | _ => .next s1

/-! ### Tickets, waits and queries (R213, R214, R224) -/

/-- The job that a ticket names; none where R213 raises ticket. -/
def Team.jobOfTicket (tm : Team) (v : Word) : Option Job :=
  if v.toNat / 2 ^ 37 != 0 then none
  else tm.jobs.find? fun j => jobNumber j.seq == v.toNat % 2 ^ 32 && j.unit == v.toNat / 2 ^ 36 && j.chan == v.toNat / 2 ^ 32 % 16

/-- The status word (R214). -/
def Job.status (j : Job) : Word :=
  BitVec.ofNat 64 (j.state * 2 ^ 61 + (if j.state == 3 then j.cause % 4096 else 0) * 2 ^ 48 + j.wp % 2 ^ 32)

/-- How a wait on a job ends now: it goes on, takes a cause, or parks; `n` is a CWAIT's count. -/
inductive WaitEnd where
  | go
  | fail
  | park
deriving DecidableEq, Repr

def Job.waitEnd (j : Job) (n : Option Nat) : WaitEnd :=
  let reached := match n with
    | some k => decide (j.wp ≥ k)
    | none => false
  if reached || j.state == 2 then .go else if j.state == 3 then .fail else .park

def waitInstr (count : Bool) (c : Ctl) (o : OpE) (s : State) : Out :=
  issue c s ok1 fun i s1 =>
    if i.on.isEmpty then i.finish none [] s1
    else
      let tk := i.sh.u o.st
      let n := i.sh.u o.sd
      if tk.tag || (count && n.tag) then i.onTrap Cause.aAddr 0 s1
      else
        match i.tm.jobOfTicket tk.bits with
        | none => i.batchRaise Cause.ticket 0 s1
        | some j =>
          let cnt := if count then some n.bits.toNat else none
          match j.waitEnd cnt with
          | .go => (i.finish none [] s1).acquire i.die i.t i.j (maskOf i.on)
          | .fail => i.finish none (i.onFaults j.cause j.addr) s1
          | .park => i.lanes i.on (fun st => { st with pc := i.pc }.parkAt 4 (.job j.seq cnt)) (i.finish none [] s1)

def execCwait (c : Ctl) (o : OpE) (s : State) : Out := waitInstr true c o s
def execEwait (c : Ctl) (o : OpE) (s : State) : Out := waitInstr false c o s

def execEqry (c : Ctl) (o : OpE) (s : State) : Out :=
  issue c s ok1 fun i s1 =>
    if i.on.isEmpty then
      let ws := i.wrU o.sd (0, false)
      i.finish (if ws.isEmpty then none else some (i.variable ws)) [] s1
    else
      let tk := i.sh.u o.st
      if tk.tag then i.onTrap Cause.aAddr 0 s1
      else
        match i.tm.jobOfTicket tk.bits with
        | none => i.batchRaise Cause.ticket 0 s1
        | some j => i.finish (some (i.variable (i.wrU o.sd (j.status, false)))) [] s1

/-- Lanes that wait on a job go on, an acquire of what their die has performed by now, or take its cause (R224). -/
def Sheaf.releaseWaits (sh : Sheaf) (j : Job) (now : Nat) : Sheaf :=
  allLanes.foldl (fun h l =>
    let st := h.strand l
    if !isParked st.run then h
    else match st.park with
      | .job seq n =>
        if seq != j.seq then h
        else match j.waitEnd n with
          | .go => h.modStrand l fun x => { x.go with acq := now }
          | .fail => (h.modStrand l fun x => { x with run := .active, park := .nothing }).raise h.iss 0 [(l, j.cause, j.addr)]
          | .park => h
      | _ => h) sh

def State.releaseWaits (s : State) (t seq : Nat) : State :=
  s.modTeam t fun tm =>
    match tm.job? seq with
    | none => tm
    | some j => { tm with sheaves := tm.sheaves.map fun sh => sh.releaseWaits j (s.die tm.die).performed }

/-! ### Accesses of a running job (R218, R271) -/

/-- What an access of a job meets. -/
inductive JobAcc where
  | ok (bs : List Byte) (apx : Bool) (width : Nat)
  | stall (va : Nat)
  | fail (cause addr : Nat)
  | remote (pa va : Nat)
  | home (pa va : Nat)
deriving DecidableEq, Repr

/-- The physical address of a global or cellar-window access, or why there is none. -/
def State.jobPa (s : State) (tm : Team) (space a : Nat) (r w : Bool) : JobAcc ⊕ (Nat × Nat) :=
  if space = 2 then .inr (cellarPa tm.die a, (s.region? (cellarPa tm.die a)).elim 8 fun g => g.grade)
  else if a ≥ 2 ^ 52 then .inl (.fail Cause.unmapped a)
  else
    match s.lookup tm.core tm.vdev a with
    | none => .inl (.stall a)
    | some m =>
      let pa := m.paOf a
      if (r && !m.r) || (w && !m.w) then .inl (.fail Cause.permission a)
      else if isFabric pa then .inl (.remote pa a)
      else if (s.region? pa).elim false fun g => g.ctx.isSome then .inl (.fail Cause.permission a)
      else .inr (pa, m.grade)

/-- Bytes of a word of the decoder's source that a home has answered. -/
def Job.heldBytes (j : Job) (a n : Nat) : Option (List Byte) :=
  (j.got.find? fun w => w.1 == a / 8 * 8).map fun w => (w.2.drop (a % 8)).take n

/-- An uncorrectable error of a larder word that a job meets is logged with its word (R183, R316). -/
def State.larderErrorAt (s : State) (tm : Team) (a n : Nat) : State :=
  (tm.larderBadWord a n).elim s fun w => s.sramEvent tm.die false (srcCore tm.core) 1 (w / 8) tm.vdev

/-- A job's access that the page tables translate fills its core's TLBs (R334, R335). -/
def State.jobFill (s : State) (tm : Team) (space a : Nat) : State :=
  if space = 2 || decide (a ≥ 2 ^ 52) then s else (s.lookup tm.core tm.vdev a).elim s fun m => s.fill tm.core m

/-- Read n bytes of a unit (R218): a line of a precise cellar is its home's to read (R271). A decoder job is no remote copy
(R371), so a page that leads to another package forbids its reads. Bytes of precise storage have the storage width 32 that a
line has where nothing has set one: R48 records a width for approximate lines only (DESIGN CHOICE, log entry 45). -/
def State.jobRead (s0 : State) (tm : Team) (j : Job) (space a n : Nat) : State × JobAcc :=
  let s := if space = 1 then s0 else s0.jobFill tm space a
  let s1 := { s with free := s.free + 1 }
  if space = 1 then
    if tm.larderError a n then (s.larderErrorAt tm a n, .fail Cause.uncorrectable a)
    else (s1, .ok (tm.readLarder s.free 0 a n) (tm.larderGrade a != 8) (tm.larderW.val (lineOf a) 32))
  else
    match s.jobPa tm space a true false with
    | .inl (.remote pa va) => (s, if j.unit == 1 then .fail Cause.permission a else .remote pa va)
    | .inl x => (s, x)
    | .inr (pa, grade) =>
      if s.preciseCellar pa then (s, (j.heldBytes a n).elim (.home pa a) fun bs => .ok bs false 32)
      else if s.poisonAt pa n then (s.cellarErrorAt pa n tm.vdev, .fail Cause.uncorrectable a)
      else (s1, .ok (s.readGlobal tm.die tm.shareWrites grade s.free 0 pa n) (grade != 8) (s.widthAt tm.die tm.shareWrites pa))

/-- Attic bytes of a launch and stage on a core; a word written whole is sound again. -/
def State.writeAttic (s : State) (tm : Team) (a : Nat) (bs : List Byte) : State :=
  let put (m : SMap Byte) : SMap Byte := bs.zipIdx.foldl (fun x b => x.store 0 (a + b.2) b.1) m
  s.modCore tm.core fun c => { c with
    attic := c.attic.map fun x => if x.1 == tm.launch && x.2.1 == tm.stage then (x.1, x.2.1, put x.2.2) else x,
    atticBad := c.atticBad.filter fun x =>
      !(x.1 == tm.launch && x.2.1 == tm.stage && decide (a ≤ x.2.2) && decide (x.2.2 + 8 ≤ a + bs.length)) }

/-- Write a unit's bytes (R218): A data stops at a precise line. A guarded team's writes of global memory, wherever the line lies,
enter its share (R177); another's write of a line of a precise cellar is its home's (R271). -/
def State.jobWrite (s : State) (tm : Team) (j : Job) (a : Nat) (bs : List Byte) (apx : Bool) (width : Nat) : State × JobAcc :=
  let done : JobAcc := .ok [] false 0
  match j.dsp with
  | 1 =>
    if apx && tm.larderGrade a == 8 then (s, .fail Cause.aStore a)
    else (s.modTeam tm.key fun x => x.writeLarder a width bs, done)
  | 3 => if apx then (s, .fail Cause.aStore a) else (s.writeAttic tm a bs, done)
  | sp =>
    let s := s.jobFill tm sp a
    match s.jobPa tm sp a false true with
    | .inl (.remote pa va) =>
      if apx then (s, .fail Cause.aStore a)
      else if tm.guarded.isSome then (s.storeGlobal tm 0 0 pa bs width 8, done)
      else (s, .remote pa va)
    | .inl x => (s, x)
    | .inr (pa, grade) =>
      if apx && grade == 8 then (s, .fail Cause.aStore a)
      else if tm.guarded.isSome then (s.storeGlobal tm 0 0 pa bs width grade, done)
      else if s.preciseCellar pa then (s, .home pa a)
      else (s.perform tm.die { pa := pa, bytes := bs, width := if grade = 8 then 0 else width }, done)

/-! ### Units (R219, R223) -/

/-- CPYR's operation on one element. -/
def cpyrOp (x : Nat) (ty : Ty) (a b : Nat) : Nat :=
  let w := ty.width
  if ty.float then (fpOp (if x = 0 then .add else if x = 1 then .min else .max) (FFmt.of ty) .rne a b 0 0).1
  else
    let less := decide (toInt ty.signed w b < toInt ty.signed w a)
    match x with
    | 0 => (a + b) % 2 ^ w
    | 1 => if less then b else a
    | _ => if less then a else b

/-- Bytes of a copy job's unit. -/
def Job.unitBytes (j : Job) : Nat := if j.kind == .cpyr then j.ty.width / 8 else 8

/-- Read row k's index at larder address a. -/
def State.readIndex (s : State) (tm : Team) (j : Job) (k a : Nat) : (Nat × Nat) ⊕ (Nat × Nat) :=
  if tm.larderError a 4 then .inl (Cause.uncorrectable, a)
  else
    let r := bytesNat (tm.readLarder s.free 1 a 4)
    if j.rowBytes * (r + 1) > j.srcLen then .inl (Cause.spaceRange, a) else .inr (k, r)

/-- The row of a CPOS under way and its index, read once for the row (R223), or the cause and address of its failure: the index
word holds an uncorrectable error, or the row does not fit. An index word of the larder's approximate part is read with exposure
and chooses the row all the same: R217 judges the descriptor's tags only, and the spec does not say whether the word's own tag is
an address sink (R50); DESIGN CHOICE, log entry 45. -/
def State.unitRow (s : State) (tm : Team) (j : Job) : (Nat × Nat) ⊕ (Nat × Nat) :=
  let k := j.wp / j.rowBytes
  let a := j.idx + 4 * k
  match j.row with
  | some x => if x.1 == k then .inr x else s.readIndex tm j k a
  | none => s.readIndex tm j k a

def State.setJob (s : State) (t seq : Nat) (f : Job → Job) : State := s.modTeam t fun tm => tm.modJob seq f

/-- Which bytes a remote message of a job carries: 0 the source's, 1 the destination's, 2 a write. -/
def State.sendCopy (s : State) (tm : Team) (j : Job) (which pa va n : Nat) (bs : List Byte) : State :=
  match s.window? pa with
  | none => s.setJob tm.key j.seq fun q => { q with fail := some (Cause.unmapped, va) }
  | some w =>
    let tag := s.fabric.nextTag
    let m : Msg := { op := if which == 2 then 7 else 5, srcPod := s.ownPod, srcDie := tm.die, tag := tag, key := w.2.1,
                     vdev := w.2.2.1, va := w.2.2.2, lo := n, data := bs, clock := s.cover tm.die w.1 }
    let s1 := { s with fabric := { s.fabric with nextTag := tag + 1, copies := s.fabric.copies ++ [(tag, tm.key, j.seq, which, pa)] } }
    ((s1.post w.1 false m).setJob tm.key j.seq fun q => { q with waiting := true, remoteVa := va }).modTeam tm.key fun x =>
      { x with remoteOut := x.remoteOut ++ [tag] }

/-- Ask the home of a line of a precise cellar for a read or write (R271). -/
def State.askHome (s : State) (tm : Team) (j : Job) (which : Nat) (kind : ReqKind) (pa va n : Nat) (bs : List Byte) : State :=
  ({ s with ids := s.ids + 1 }.send
    { id := s.ids, kind := kind, src := .job tm.key j.seq, seq := which, pa := pa, va := va, staged := true, ty := bitsType n,
      trans := 15, e := BitVec.ofNat 64 (bytesNat bs), die := tm.die, clock := (s.die tm.die).clock,
      launch := tm.launch }).setJob tm.key j.seq fun q => { q with waiting := true }

/-- An access that does not answer with bytes: the job stalls, fails, or asks a home for a word of its source. -/
def State.jobStop (s : State) (tm : Team) (j : Job) (a : JobAcc) : State :=
  match a with
  | .stall va =>
    (s.modDie tm.die fun d => { d with walks := addWalkJob d.walks tm.vdev (pageKey va) (tm.key, j.seq) }).setJob tm.key j.seq
      fun q => { q with stalled := some va }
  | .home pa va => s.askHome tm j 2 .load (pa / 8 * 8) (va / 8 * 8) 8 []
  | .fail cause addr => s.setJob tm.key j.seq fun q => { q with fail := some (cause, addr) }
  | _ => s

/-- The write-pointer passes a unit; lanes that waited for it go on (R224). -/
def State.advanceWp (s : State) (t seq n : Nat) : State :=
  (s.setJob t seq fun q => { q with wp := q.wp + n, source := none, target := none, acked := false }).releaseWaits t seq

/-- Bytes that another package has answered, under what the team's own share holds for them (R177). -/
def State.underShare (s : State) (tm : Team) (space a : Nat) (bs : List Byte) : List Byte :=
  match s.jobPa tm space a true false with
  | .inl (.remote pa _) => bs.mapIdx fun k b => overlay tm.shareWrites (pa + k) b
  | _ => bs

/-- The bytes of one side of a unit: what a home or another package has answered, or a read now. -/
def State.sideBytes (s : State) (tm : Team) (j : Job) (got : Option (List Byte)) (space a n : Nat) : State × JobAcc :=
  match got with
  | some bs => (s, .ok (s.underShare tm space a bs) false 32)
  | none => s.jobRead tm j space a n

/-- The unit that completes a whole line of the destination replaces the line, and its poison leaves it (R313); a guarded team's line
is replaced as its share is performed (R176). -/
def State.lineDone (s : State) (tm : Team) (j : Job) (n : Nat) : State :=
  let e := j.dst + j.wp + n
  if tm.guarded.isNone && j.kind != .cpyr && e % 128 == 0 && j.wp + n ≥ 128 && (j.dsp == 0 || j.dsp == 2) then
    match s.jobPa tm j.dsp (e - 128) false true with
    | .inr (pa, _) => s.modDie (ownerOf pa) fun d => { d with poison := d.poison.filter fun x => x.1 < pa || pa + 128 ≤ x.1 }
    | .inl _ => s
  else s

/-- A unit's bytes are written: the write-pointer passes it. -/
def State.unitDone (s : State) (tm : Team) (j : Job) : State := (s.lineDone tm j j.unitBytes).advanceWp tm.key j.seq j.unitBytes

/-- Write a unit's result. -/
def State.putUnit (s : State) (tm : Team) (j : Job) (bs : List Byte) (apx : Bool) (width : Nat) : State :=
  match s.jobWrite tm j (j.dst + j.wp) bs apx width with
  | (s1, .ok _ _ _) => s1.unitDone ((s1.team? tm.key).getD tm) j
  | (s1, .remote pa va) => s1.sendCopy tm j 2 pa va j.unitBytes bs
  | (s1, .home pa va) => s1.askHome tm j 0 .store pa va j.unitBytes bs
  | (s1, x) => s1.jobStop tm j x

/-- Read a side of a unit, `which` 0 its source and 1 a CPYR's destination, and go on with the bytes. -/
def State.withSide (s : State) (tm : Team) (j : Job) (which space a : Nat) (go : State → List Byte → Bool → Nat → State) : State :=
  match s.sideBytes tm j (if which == 0 then j.source else j.target) space a j.unitBytes with
  | (s1, .ok bs apx width) => go s1 bs apx width
  | (s1, .remote pa va) => s1.sendCopy tm j which pa va j.unitBytes []
  | (s1, .home pa va) => s1.askHome tm j which .load pa va j.unitBytes []
  | (s1, x) => s1.jobStop tm j x

/-- One unit of a copy job, its source at `a` (R223). -/
def State.copyFrom (s : State) (tm : Team) (j : Job) (a : Nat) : State :=
  s.withSide tm j 0 j.ssp a fun s1 ys apx width =>
    if j.kind == .cpyr then
      s1.withSide tm j 1 j.dsp (j.dst + j.wp) fun s2 xs apx' _ =>
        s2.putUnit tm j (natBytes j.unitBytes (cpyrOp (j.x % 4) j.ty (bytesNat xs) (bytesNat ys))) (apx || apx') j.ty.width
    else s1.putUnit tm j ys apx width

/-- One unit of a copy job (R223): a write that a home has performed ends it. -/
def State.copyUnit (s : State) (tm : Team) (j : Job) : State :=
  if j.acked then s.unitDone tm j
  else if j.kind == .cpos then
    match s.unitRow tm j with
    | .inl f => ((if f.1 == Cause.uncorrectable then s.larderErrorAt tm f.2 4 else s)).setJob tm.key j.seq fun q => { q with fail := some f }
    | .inr x => (s.setJob tm.key j.seq fun q => { q with row := some x }).copyFrom tm j (j.src + j.rowBytes * x.2 + j.wp % j.rowBytes)
  else s.copyFrom tm j (j.src + j.wp)

/-! ### The decoder (R225, R226) -/

/-- A table that R225 refuses. -/
def tableBad (ls : List Nat) : Bool :=
  let used := ls.filter fun l => l != 0
  ls.any (fun l => l > 16) || used.isEmpty ||
  (if used.length == 1 then used != [1] else used.foldl (fun n l => n + 2 ^ (16 - l)) 0 != 65536)

/-- The codes that a table assigns: symbol, length, code (R225). -/
def assignCodes (ls : List Nat) : List (Nat × Nat × Nat) :=
  ((List.range 16).foldl (fun (x : List (Nat × Nat × Nat) × Nat) k =>
    let len := k + 1
    let y := ls.zipIdx.foldl (fun (z : List (Nat × Nat × Nat) × Nat) e =>
      if e.1 == len then (z.1 ++ [(e.2, len, z.2)], z.2 + 1) else z) x
    (y.1, y.2 * 2)) ([], 0)).1

/-- Progress of decoding one column: position in the stream, the code read so far, the symbols, the current byte. -/
structure Decoding where
  pos : Nat := 0
  code : Nat := 0
  len : Nat := 0
  syms : List Nat := []
  byte : Option Nat := none
deriving DecidableEq, Repr

/-- Read bits until 64 symbols are decoded. -/
def State.decodeBits (tm : Team) (j : Job) (codes : List (Nat × Nat × Nat)) : Nat → Decoding → State → State × Except JobAcc Decoding
  | 0, _, s => (s, .error (.fail Cause.codeTable j.src))
  | fuel + 1, d, s =>
    if d.syms.length ≥ 64 then (s, .ok d)
    else
      let at_ := 256 * j.tiles + d.pos / 8
      if at_ ≥ j.len then (s, .error (.fail Cause.codeTable (j.src + at_)))
      else
        let got : State × JobAcc := match d.byte with
          | some b => (s, .ok (natBytes 1 b) false 32)
          | none => s.jobRead tm j j.ssp (j.src + at_) 1
        match got with
        | (s1, .ok bs apx _) =>
          if apx then (s1, .error (.fail Cause.aStore (j.dst + j.wp)))
          else
            let b := bytesNat bs
            let code := d.code * 2 + b / 2 ^ (7 - d.pos % 8) % 2
            let len := d.len + 1
            let nb := if d.pos % 8 == 7 then none else some b
            match codes.find? fun c => c.2.1 == len && c.2.2 == code with
            | some c => State.decodeBits tm j codes fuel { pos := d.pos + 1, code := 0, len := 0, syms := d.syms ++ [c.1], byte := nb } s1
            | none =>
              if codes.any fun c => c.2.1 > len && c.2.2 / 2 ^ (c.2.1 - len) == code then
                State.decodeBits tm j codes fuel { d with pos := d.pos + 1, code := code, len := len, byte := nb } s1
              else (s1, .error (.fail Cause.codeTable (j.src + at_)))
        | (s1, x) => (s1, .error x)

/-- Nonzero padding after a tile's last code. -/
def Decoding.paddingBad (d : Decoding) : Bool :=
  match d.byte with
  | some b => b % 2 ^ (8 - d.pos % 8) != 0
  | none => false

/-- One record of a DEC: 64 codes of a column and its exponents (R226). -/
def State.decodeRecord (s : State) (tm : Team) (j : Job) : State :=
  match tm.decoder.find j.chan with
  | none => s.jobStop tm j (.fail Cause.codeTable j.src)
  | some ls =>
    let t := j.wp / 8192
    let n := j.wp % 8192 / 128
    let d0 : Decoding := { pos := j.bitPos }
    match s.jobRead tm j j.ssp (j.src + 256 * t + 4 * n) 4 with
    | (s1, .ok ex apx _) =>
      let start : State × Except JobAcc Decoding :=
        if apx then (s1, .error (.fail Cause.aStore (j.dst + j.wp)))
        else if j.bitPos % 8 == 0 then State.decodeBits tm j (assignCodes ls) 1100 d0 s1
        else match s1.jobRead tm j j.ssp (j.src + 256 * j.tiles + j.bitPos / 8) 1 with
          | (s2, .ok bs _ _) => State.decodeBits tm j (assignCodes ls) 1100 { d0 with byte := some (bytesNat bs) } s2
          | (s2, x) => (s2, .error x)
      match start with
      | (s2, .error x) => s2.jobStop tm j x
      | (s2, .ok d) =>
        if n == 63 && d.paddingBad then s2.jobStop tm j (.fail Cause.codeTable (j.src + 256 * j.tiles + d.pos / 8))
        else
          let bs := (d.syms.map fun x => BitVec.ofNat 8 x) ++ ex ++ List.replicate 60 0
          let pos := if n == 63 then (d.pos + 7) / 8 * 8 else d.pos
          ((s2.writeAttic tm (j.dst + j.wp) bs).setJob tm.key j.seq fun q =>
            { q with bitPos := pos, got := if (j.wp + 128) % 4096 == 0 then [] else q.got }).advanceWp tm.key j.seq 128
    | (s1, x) => s1.jobStop tm j x

/-! ### Events of jobs -/

/-- A channel runs its jobs one at a time in issue order; the decoder one at a time among the core's teams (R212, R226). -/
def State.unitFree (s : State) (tm : Team) (j : Job) : Bool :=
  if j.unit == 0 then
    tm.jobs.all fun i => !(i.inFlight && i.unit == 0 && i.chan == j.chan && i.seq < j.seq)
  else
    (s.teams.filter fun (e : Nat × Team) => e.2.core == tm.core).all fun e =>
      e.2.jobs.all fun i => !(i.inFlight && i.unit == 1 && i.order < j.order)

/-- No earlier job or queued WLD holds the job back (R216). -/
def Team.jobClear (tm : Team) (j : Job) : Bool :=
  (tm.jobs.all fun i => !(i.inFlight && i.seq < j.seq && j.dependsOn i)) &&
  tm.matrix.queue.all fun e => !(e.id < j.entries && rangesMeet j.attic e.attic)

/-- JOB_START. -/
def execJobStart (t seq : Nat) (s : State) : Out :=
  match s.team? t with
  | none => .next s
  | some tm =>
    match tm.job? seq with
    | none => .next s
    | some j =>
      if j.state == 0 && !tm.waitsRail && s.unitFree tm j && tm.jobClear j then .next (s.setJob t seq fun q => { q with state := 1 }) else .next s

/-- Nothing of the job's next unit has been read or written yet. -/
def Job.fresh (j : Job) : Bool := j.source.isNone && j.target.isNone && !j.acked && j.got.isEmpty

/-- A running job stands where a decision stops it: at a multiple of 4,096 or at its end (R221). -/
def Job.stops (j : Job) : Bool := !j.waiting && j.fail.isNone && j.fresh && (j.wp % 4096 == 0 || decide (j.wp ≥ j.size))

/-- The job runs and nothing holds its next unit; the jobs of a restored team whose rail does not stand yet wait too (R253). -/
def Job.moves (j : Job) : Bool := j.state == 1 && j.fail.isNone && j.stalled.isNone && !j.waiting

/-- WRITE_POINTER_ADVANCE: the next unit of a running job; a job that a decision stops at a multiple of 4,096 waits there
(R221). -/
def execWritePointerAdvance (t seq : Nat) (s : State) : Out :=
  match s.team? t with
  | none => .next s
  | some tm =>
    match tm.job? seq with
    | none => .next s
    | some j =>
      if !j.moves || tm.waitsRail || j.wp ≥ j.size || (tm.preempt != .none && j.stops) || !s.unitFree tm j || tm.unitHeld j then .next s
      else .next ((if j.kind == .dec then s.decodeRecord tm j else s.copyUnit tm j).settled t)

/-- A job ends: waiting lanes go on or take its cause, and its arrival is made. -/
def State.endJob (s : State) (t seq : Nat) (f : Job → Job) : State :=
  (((s.setJob t seq f).releaseWaits t seq).jobArrives t seq).settled t

/-- DTAB's work: 256 code lengths (R225). A slot holds no tag: of a table read from approximate storage the spec says nothing
beyond the exposure of R48, and DEC writes precise bytes by it (R53); DESIGN CHOICE, log entry 45. -/
def State.loadTable (s : State) (tm : Team) (j : Job) : State :=
  let rd := (List.range 32).foldl (fun (x : State × Except JobAcc (List Byte)) k =>
    match x.2 with
    | .error _ => x
    | .ok bs =>
      match x.1.jobRead tm j j.ssp (j.src + 8 * k) 8 with
      | (s1, .ok b _ _) => (s1, .ok (bs ++ b))
      | (s1, y) => (s1, .error y)) (s, .ok [])
  match rd with
  | (s1, .error y) => s1.jobStop tm j y
  | (s1, .ok bs) =>
    let ls := bs.map fun b => b.toNat
    if tableBad ls then
      (s1.modTeam tm.key fun x => { x with decoder := x.decoder.del j.chan }).jobStop tm j (.fail Cause.codeTable j.src)
    else
      (s1.modTeam tm.key fun x => { x with decoder := x.decoder.put j.chan ls }).endJob tm.key j.seq fun q => { q with state := 2 }

/-- JOB_COMPLETE: WP has reached the written region's size, or a DTAB reads its table; an arrival that waited for a commit
is made. -/
def execJobComplete (t seq : Nat) (s : State) : Out :=
  match s.team? t with
  | none => .next s
  | some tm =>
    match tm.job? seq with
    | none => .next s
    | some j =>
      if j.state ≥ 2 then .next (s.jobArrives t seq)
      else if !j.moves || tm.waitsRail || !s.unitFree tm j then .next s
      else if j.kind == .dtab then .next (s.loadTable tm j)
      else if j.wp ≥ j.size then .next (s.endJob t seq fun q => { q with state := 2 })
      else .next s

/-- JOB_FAIL: a job that has met a failure ends with its cause and address (R218). -/
def execJobFail (t seq : Nat) (s : State) : Out :=
  match s.team? t with
  | none => .next s
  | some tm =>
    match tm.job? seq with
    | none => .next s
    | some j =>
      match j.fail with
      | none => .next s
      | some f => if j.state == 1 then .next (s.endJob t seq fun q => { q with state := 3, cause := f.1, addr := f.2 }) else .next s

end Sys2Proof.Machine
end

