-- ==== Sys2Proof/Machine/Package.lean ====
section
/-! DEFINITION. The package: settles (R332), CODESYNC (R333), translation and its service (R334, R335, R394), TLBINV and
MAPCTL (R337 to R341), stamping and application as events (R324 to R326). -/

namespace Sys2Proof.Machine

/-! ### Instructions that act once per issue -/

/-- What is left of an instruction with no true guard: a uniform destination becomes A under a guard tagged A (R49). -/
def Iss.idle (i : Iss) (d : Option Nat) : Option Pending :=
  match d with
  | some k => if i.aG.isEmpty then none else some (i.variable [Wr.u k 0 0 (some true)])
  | none => none

/-- A privileged instruction that acts once per issue, before which nothing commits; `d` is its uniform destination. -/
def onceInstr (d : Option Nat) (c : Ctl) (s : State) (check : Iss → Option Nat) (run : Iss → State → State) : Out :=
  issuePriv (fun i => i.tm.priv) c s check fun i s1 => if i.on.isEmpty then i.finish (i.idle d) [] s1 else run i s1

/-- The write of a once-acting instruction's uniform: the entry makes it precise, and R49's row for a uniform destination
makes it A under a guard tagged A in any lane of the batch. -/
def Iss.onceWr (i : Iss) (d : Nat) (v : Word) : Wr := .u d allOnes v (some (!i.aG.isEmpty))

/-- Its result, written to uniform d once the operation completes. -/
def Iss.later (i : Iss) (d : Nat) (v : Word) : Pending := { i.awaited with writes := [i.onceWr d v] }

/-- Its result, written to uniform d as soon as it returns. -/
def Iss.now (i : Iss) (d : Nat) (v : Word) : Pending := i.variable [i.onceWr d v]

/-! ### SETTLE (R332, R373) -/

/-- Packages that the issuing lanes' earlier remote requests and completed remote copies reached (R373). -/
def Iss.reached (i : Iss) : List Nat := (i.on.flatMap fun l => (i.sh.strand l).pkgs).dedup

/-- Remote settles of a .system SETTLE, one to each package. -/
def State.remoteSettles (s : State) (t d : Nat) : List Nat → State × List Nat
  | [] => (s, [])
  | p :: r =>
    let tag := s.fabric.nextTag
    let s1 := ({ s with fabric := { s.fabric with nextTag := tag + 1 } }).post p true
      { op := 12, srcPod := s.ownPod, srcDie := d, tag := tag, key := s.keyFor p, clock := s.cover d p }
    let x := s1.remoteSettles t d r
    (x.1, tag :: x.2)

def execSettle (c : Ctl) (o : OpS) (s : State) : Out :=
  issueCommitted (fun i => i.once) c s ok1 fun i s1 =>
    if i.on.isEmpty then i.finish none [] s1
    else
      let s2 := s1.publishLanes i.die i.t i.j i.on
      let cover := clockMax s2.settleCover (s2.die i.die).clock
      let n := s2.settleN + 1
      let x := s2.remoteSettles i.t i.die (if o.scope == .system then i.reached else [])
      let m : Settle := { n := n, cover := cover, t := i.t, j := i.j, seq := i.seq, remote := x.2 }
      i.finish (some i.awaited) [] { x.1 with settleN := n, settleCover := cover, settles := x.1.settles ++ [m] }

/-- SETTLE_COMPLETE: every die has applied its cover, every lower number is complete, and its remote settles are
answered. -/
def execSettleComplete (n : Nat) (s : State) : Out :=
  match s.settles.find? fun m => m.n == n with
  | none => .next s
  | some m =>
    if (s.settles.any fun x => x.n < n) || !s.allApplied m.cover || !m.remote.isEmpty then .next s
    else .next ({ s with settles := s.settles.filter fun x => x.n != n }.complete m.t m.j m.seq [])

/-! ### CODESYNC (R333) -/

def inScope (sc : Scope) (core c : Nat) : Bool :=
  match sc with
  | .core => c == core
  | .cluster => clusterOfCore c == clusterOfCore core
  | .die => dieOfCore c == dieOfCore core
  | _ => true

/-- Every core within the scope drops its fetched words. -/
def State.dropFetched (s : State) (sc : Scope) (core : Nat) : State :=
  { s with cores := s.cores.map fun (e : Nat × Core) => if inScope sc core e.1 then (e.1, { e.2 with ibuf := [] }) else e }

def execCodesync (c : Ctl) (o : OpS) (s : State) : Out :=
  issueCommitted (fun i => i.once) c s ok1 fun i s1 =>
    if i.on.isEmpty then i.finish none [] s1
    else
      let s2 := s1.publishLanes i.die i.t i.j i.on
      if o.scope == .package then
        let f : Finish := { cover := (s2.die i.die).clock, t := i.t, j := i.j, seq := i.seq, sync := some (o.scope, i.core) }
        i.finish (some i.awaited) [] { s2 with finishes := s2.finishes ++ [f] }
      else i.finish (some (i.variable [])) [] (s2.dropFetched o.scope i.core)

/-! ### Pages that become mapped (R335) -/

def Mapping.hasPage (m : Mapping) (w : Walk) : Bool := m.vdev == w.vdev && m.va ≤ w.page * 65536 && w.page * 65536 < m.va + m.size

/-- The lanes and jobs of a walk go on: lanes are active at the instruction they stand at. -/
def State.resumeWalk (s : State) (w : Walk) (refused : Bool) : State :=
  let s1 := w.lanes.foldl (fun (x : State) (e : Nat × Nat × Nat) => x.modSheaf e.1 e.2.1 fun sh =>
    sh.modStrand e.2.2 fun st =>
      match st.park with
      | .page v a =>
        if st.run == .parked 5 && v == w.vdev && pageKey a == w.page then
          { st with run := .active, park := .nothing, refused := if refused then some w.page else none }
        else st
      | _ => st) s
  w.jobs.foldl (fun (x : State) (e : Nat × Nat) => x.modTeam e.1 fun tm => tm.modJob e.2 fun j =>
    match j.stalled with
    | some a => if pageKey a == w.page then
        { j with stalled := none, fail := if refused then some (Cause.unmapped, a) else j.fail } else j
    | none => j) s1

/-- Cores of the lanes and the jobs that waited for a walk. -/
def State.walkCores (s : State) (w : Walk) : List Nat :=
  (((w.lanes.map fun e => e.1) ++ w.jobs.map fun e => e.1).filterMap fun t => (s.team? t).map fun tm => tm.core).dedup

/-- Every walk of the mapping's pages ends: the TLBs fill, and what waited goes on. -/
def State.resumePages (s : State) (m : Mapping) : State :=
  allDies.foldl (fun (x : State) d =>
    let ws := (x.die d).walks.filter m.hasPage
    ws.foldl (fun (y : State) w => (((x.walkCores w).foldl (fun (z : State) k => z.fill k m) y).resumeWalk w false))
      (x.modDie d fun q => { q with walks := q.walks.filter fun w => !m.hasPage w })) s

/-- Install a translation. -/
def State.install (s : State) (m : Mapping) : State :=
  let s1 := { s with pages := s.pages.filter (fun (x : Mapping) => !(x.vdev == m.vdev && x.va == m.va)) ++ [m] }
  let keep := s.service.unmapped.filter fun (x : Mapping) => !(x.vdev == m.vdev && x.va == m.va && x.size == m.size)
  { s1 with service := { s1.service with unmapped := keep } }.resumePages m

/-! ### Zeroing and copying pages (R340, R341) -/

/-- The owning die zeroes a page: poison and storage widths with it, and stamps the write. -/
def State.zeroPage (s : State) (pa size : Nat) : State :=
  let d := ownerOf pa
  let w : Write := { pa := pa, zeros := size }
  (s.perform d w).stampThrough d fun x => { x with no := w.no } == w

/-- A page's bytes as its old owner reads them: of precise storage the listed ones, of approximate storage every one. -/
def State.pageBytes (s : State) (m : Mapping) : List (Nat × Byte) :=
  let d := ownerOf m.pa
  if m.grade == 8 then ((s.die d).view.filter fun c => m.pa ≤ c.1 && c.1 < m.pa + m.size).map fun c => (c.1 - m.pa, c.2)
  else (List.range (m.size / 128)).flatMap fun k =>
    ((s.readGlobal d [] m.grade s.free 0 (m.pa + 128 * k) 128).zipIdx).map fun b => (128 * k + b.2, b.1)

/-- The copy's writes take their place at the new address on the old owning die and are stamped there, each line's storage width
with its first byte; poison goes with it (R313, R48). -/
def State.copyPage (s : State) (m n : Mapping) : State :=
  let d := ownerOf m.pa
  let bytes := s.pageBytes m
  let widths := (s.die d).lineW.filter fun (e : Nat × Nat) => m.pa ≤ e.1 && e.1 < m.pa + m.size
  let widthOf (o : Nat) : Nat := if o % 128 == 0 then (widths.find? fun e => e.1 == m.pa + o).elim 0 fun e => e.2 else 0
  let ws : List Write := { pa := n.pa, zeros := m.size } :: bytes.map fun b => { pa := n.pa + b.1, bytes := [b.2], width := widthOf b.1 }
  let bad := ((s.die d).poison.filter fun (e : Nat × Unit) => m.pa ≤ e.1 && e.1 < m.pa + m.size).map fun e => e.1 - m.pa
  let s1 := s.modDie d fun q =>
    let v := bytes.foldl (fun (x : Mem) b => x.set (n.pa + b.1) b.2) (q.view.zero n.pa m.size)
    let lw := widths.foldl (fun (x : SMap Nat) e => x.store 32 (n.pa + (e.1 - m.pa)) e.2)
      (q.lineW.filter fun (e : Nat × Nat) => e.1 < n.pa || n.pa + m.size ≤ e.1)
    { q with view := v, lineW := lw }
  let s2 := { s1 with free := s1.free + 1 }.stampWrites d ws
  s2.modDie (ownerOf n.pa) fun q =>
    let kept := q.poison.filter fun (e : Nat × Unit) => e.1 < n.pa || n.pa + m.size ≤ e.1
    { q with poison := bad.foldl (fun (x : SMap Unit) a => x.put (n.pa + a) ()) kept }

/-! ### Operations that complete when every die has applied a cover -/

/-- A guarded team's share holds a store to the range: it is translated, and performed at the team's next commit (R177; log entry
16). -/
def Team.shareMeets (tm : Team) (inR : Nat → Bool) : Bool := tm.guarded.elim false fun g => g.share.any fun e => inR e.pa

/-- No store, no request and no remote copy's read or write translated to the range is still to be performed. -/
def State.drained (s : State) (r : Nat × Nat) : Bool :=
  let inR (pa : Nat) : Bool := r.1 ≤ pa && pa < r.1 + r.2
  !(s.teams.any fun (e : Nat × Team) => e.2.shareMeets inR) &&
  !(s.outstanding.any fun q => inR q.pa) && !(s.fabric.copies.any fun c => inR c.2.2.2.2) && !(s.loads.any fun l => inR l.pa) && !(s.stores.any fun x => !x.2.isMark && inR x.2.pa) &&
  !(s.dies.any fun (e : Nat × Die) => e.2.parkq.any fun (q : Nat × List Req) => q.2.any fun r => inR r.pa)

/-- The old owning die of a migrating page has every write of the page, of whatever die: none is still to be stamped, and none is on
its way there (R341: no write is lost). -/
def State.gathered (s : State) (m : Mapping) : Bool :=
  let meets (w : Write) : Bool := w.pa < m.pa + m.size && m.pa < w.pa + w.size
  !(s.dies.any fun (e : Nat × Die) => e.2.unstamped.any meets) && !((s.die (ownerOf m.pa)).inbox.any fun x => x.writes.any meets)

/-- One step of an operation under way: done, or what it waits for now. -/
def State.finishStep (s : State) (f : Finish) : State × Option Finish :=
  if !f.drain.all s.drained || !(f.copy.elim true fun c => s.gathered c.1) then (s, some f)
  else
    match f.copy with
    | some c =>
      let s1 := s.copyPage c.1 c.2
      (s1, some { f with drain := [], copy := none, map := some c.2, cover := (s1.die (ownerOf c.1.pa)).clock })
    | none =>
      if !s.allApplied f.cover then (s, some { f with drain := [] })
      else
        let s1 := match f.map with
          | some m => s.install m
          | none => s
        let s2 := match f.sync with
          | some x => s1.dropFetched x.1 x.2
          | none => s1
        let s3 := match f.busy with
          | some b => { s2 with service := { s2.service with mapBusy := s2.service.mapBusy.erase b } }
          | none => s2
        (s3.complete f.t f.j f.seq [], none)

def State.runFinishes (s : State) : State :=
  s.finishes.foldl (fun (x : State) f =>
    let r := { x with finishes := x.finishes.erase f }.finishStep f
    match r.2 with
    | some g => { r.1 with finishes := r.1.finishes ++ [g] }
    | none => r.1) s

/-! ### TLBINV (R338) -/

def dVdev (w : Word) : Nat := w.toNat / 2 ^ 58
def dSize (w : Word) : Nat := w.toNat / 2 ^ 56 % 4
def dVa (w : Word) : Nat := w.toNat % 2 ^ 52
def pageSize (k : Nat) : Nat := if k = 0 then 65536 else if k = 1 then 2097152 else 1073741824

/-- A descriptor word outside R338: reserved bits, alignment, and VA under SIZE 3. -/
def tlbBad (w : Word) : Bool :=
  w.toNat / 2 ^ 52 % 16 != 0 || (if dSize w == 3 then dVa w != 0 else dVa w % pageSize (dSize w) != 0)

/-- The translations that the operand names: those that meet its page. -/
def tlbNames (w : Word) (m : Mapping) : Bool :=
  m.vdev == dVdev w && (dSize w == 3 || (m.va < dVa w + pageSize (dSize w) && dVa w < m.va + m.size))

def execTlbinv (c : Ctl) (o : OpS) (s : State) : Out :=
  onceInstr none c s (fun _ => if !o.b.uni then some Cause.illOperand else none) fun i s1 =>
    let w := i.sh.u o.b.idx
    if w.tag then i.batchRaise Cause.aAddr 0 s1
    else if tlbBad w.bits then i.batchRaise Cause.illOperand 0 s1
    else
      let pas := (s1.pages.filter (tlbNames w.bits)).map fun m => (m.pa, m.size)
      let s2 := if o.scope == .die then s1.shoot i.die (tlbNames w.bits) else s1.shootAll (tlbNames w.bits)
      let f : Finish := { t := i.t, j := i.j, seq := i.seq, drain := pas }
      i.finish (some i.awaited) [] { s2 with finishes := s2.finishes ++ [f] }

/-! ### MAPCTL (R339 to R341) -/

inductive PageOp where
  | map | unmap | protect | migrate
deriving DecidableEq, Repr

def PageOp.sel : PageOp → Nat
  | .map => 0
  | .unmap => 1
  | .protect => 2
  | .migrate => 3

/-- A descriptor field outside the table. -/
def mapBad (op : PageOp) (w0 w1 w2 : Word) : Bool :=
  tlbBad w0 || dSize w0 == 3 || w1.toNat / 2 ^ 52 != 0 || w2.toNat / 512 != 0 || w2.getLsbD 4 || w2.toNat % 16 > 8 ||
  (if op == .map || op == .migrate then w1.toNat % pageSize (dSize w0) != 0 else w1 != 0) ||
  (op == .map && isFabric w1.toNat && w2.toNat % 16 != 8)

/-- A physical page that the layout holds, or a fabric page (R309, R370). -/
def paExists (pa size : Nat) : Bool :=
  if isFabric pa then pa / 2 ^ 42 % 512 == 0 && pa < 2 ^ 52
  else (ownerDie pa).isSome && ownerDie pa == ownerDie (pa + size - 1)

/-- The range meets what the service holds back of a die's stacks (R312, R314). -/
def heldBack (pa size : Nat) : Bool :=
  pa < 2 ^ 44 && decide (pa % 2 ^ 40 + size > Config.serviceBase)

/-- The physical page meets no mapped page, no page that an operation under way installs, and nothing that the service holds back. -/
def State.paFree (s : State) (pa size : Nat) : Bool :=
  let meets (m : Mapping) : Bool := m.pa < pa + size && pa < m.pa + m.size
  !heldBack pa size && !(s.pages.any meets) && !(s.finishes.any fun f => f.map.elim false meets || f.copy.elim false fun c => meets c.2)

/-- AFADD.o contributions buffered for a page. -/
def State.buffered (s : State) (m : Mapping) : Bool :=
  s.clusters.any fun (e : Nat × Cluster) => e.2.reorder.any fun q => m.pa ≤ q.pa && q.pa < m.pa + m.size

/-- The page holds a staged object or a combine context. -/
def State.pageHeld (s : State) (m : Mapping) : Bool :=
  let d := s.die (ownerOf m.pa)
  !isFabric m.pa && ((d.metas.any fun (e : Nat × Meta) => e.2.stg && m.pa ≤ e.1 && e.1 < m.pa + m.size) ||
    (d.regions.any fun r => r.ctx.isSome && r.pa < m.pa + m.size && m.pa < r.pa + r.bytes))

/-- Pages of a device that overlap. -/
def pagesMeet (a b : Nat × Nat × Nat) : Bool := a.1 == b.1 && rangesMeet a.2 b.2

/-- A page operation on a page that overlaps it is under way. -/
def State.pageBusy (s : State) (p : Nat × Nat × Nat) : Bool := s.service.mapBusy.any (pagesMeet p)

/-- The status that refuses an operation, in ascending order; none when it is done. R339's status 5 is restricted to no operation: a
new permission of a page that holds a staged object is refused as its removal is, and so is an alias of one. -/
def State.mapRefuses (s : State) (op : PageOp) (w0 w1 w2 : Word) : Option Nat :=
  let size := pageSize (dSize w0)
  let old := s.pages.find? fun m => m.vdev == dVdev w0 && m.va == dVa w0 && m.size == size
  let taken := s.pages.any fun m => m.vdev == dVdev w0 && m.va < dVa w0 + size && dVa w0 < m.va + m.size
  let alias_ := w2.getLsbD 8
  let g := w2.toNat % 16
  firstCause [
    (s.pageBusy (dVdev w0, dVa w0, size), 1),
    (old.elim false s.buffered, 1),
    (op != .map && old.isNone, 2),
    (op == .map && taken, 3),
    (op == .map && alias_ && !(s.pages.any fun m => m.pa ≤ w1.toNat && w1.toNat + size ≤ m.pa + m.size), 4),
    ((op == .migrate || (op == .map && !alias_)) &&
      (!paExists w1.toNat size || (!isFabric w1.toNat && !s.paFree w1.toNat size) || (op == .migrate && isFabric w1.toNat)), 4),
    (if op == .map then alias_ && s.pageHeld { pa := w1.toNat, size := size } else old.elim false s.pageHeld, 5),
    ((op == .protect || op == .migrate) && old.elim false fun m => m.grade != g, 6),
    (op == .map && alias_ && s.pages.any fun m => m.pa ≤ w1.toNat && w1.toNat < m.pa + m.size && m.grade != g, 6)]

/-- The operation begins: its state, and what is still to come before it completes. -/
def State.beginMap (s : State) (op : PageOp) (w0 w1 w2 : Word) : State × Finish :=
  let size := pageSize (dSize w0)
  let n : Mapping := { vdev := dVdev w0, va := dVa w0, size := size, pa := w1.toNat, r := w2.getLsbD 5, w := w2.getLsbD 6,
                       x := w2.getLsbD 7, grade := w2.toNat % 16 }
  let same (m : Mapping) : Bool := m.vdev == n.vdev && m.va == n.va
  let old := (s.pages.find? same).getD n
  let gone (x : State) : State := x.shootAll (tlbNames w0)
  let busy := (n.vdev, n.va, size)
  let s1 := { s with service := { s.service with mapBusy := busy :: s.service.mapBusy } }
  match op with
  | .map =>
    if w2.getLsbD 8 || isFabric n.pa then (s1, { map := some n, busy := some busy })
    else
      let s2 := s1.zeroPage n.pa size
      (s2, { cover := (s2.die (ownerOf n.pa)).clock, map := some n, busy := some busy })
  | .unmap =>
    let s2 := gone { s1 with pages := s1.pages.filter fun m => !same m }
    ({ s2 with service := { s2.service with unmapped := s2.service.unmapped ++ [old] } },
      { drain := [(old.pa, size)], busy := some busy })
  | .protect =>
    let m := { old with r := n.r, w := n.w, x := n.x }
    (gone { s1 with pages := s1.pages.map fun q => if same q then m else q }, { busy := some busy })
  | .migrate =>
    let s2 := gone { s1 with pages := s1.pages.map fun q => if same q then { q with migrating := true } else q }
    (s2, { drain := [(old.pa, size)], copy := some (old, { old with pa := n.pa }), busy := some busy })

def mapctl (op : PageOp) (c : Ctl) (o : OpS) (s : State) : Out :=
  onceInstr (some o.d) c s (fun _ => if !o.b.uni || o.b.idx > 61 || o.sel != op.sel then some Cause.illOperand else none) fun i s1 =>
    let w (k : Nat) : Val := i.sh.u (o.b.idx + k)
    if (w 0).tag || (w 1).tag || (w 2).tag then i.batchRaise Cause.aAddr 0 s1
    else if mapBad op (w 0).bits (w 1).bits (w 2).bits then i.batchRaise Cause.illOperand 0 s1
    else
      match s1.mapRefuses op (w 0).bits (w 1).bits (w 2).bits with
      | some st => i.finish (some (i.now o.d (BitVec.ofNat 64 st))) [] s1
      | none =>
        let r := s1.beginMap op (w 0).bits (w 1).bits (w 2).bits
        (i.finish (some (i.later o.d 0)) [] { r.1 with finishes := r.1.finishes ++
          [{ r.2 with t := i.t, j := i.j, seq := i.seq }] }).runFinishes

def execMapctlMap (c : Ctl) (o : OpS) (s : State) : Out := mapctl .map c o s
def execMapctlUnmap (c : Ctl) (o : OpS) (s : State) : Out := mapctl .unmap c o s
def execMapctlProtect (c : Ctl) (o : OpS) (s : State) : Out := mapctl .protect c o s
def execMapctlMigrate (c : Ctl) (o : OpS) (s : State) : Out := mapctl .migrate c o s

/-! ### Walks (R335, R394) -/

/-- The walk is one of the pool's 64, or has made its fault request (R335): walks begin in the order of their first miss. -/
def Die.walking (d : Die) (w : Walk) : Bool := w.asked || ((d.walks.filter fun x => !x.asked).take 64).contains w

/-- WALK_COMPLETE: a mapping found fills the TLBs and what waited goes on; one that is absent is asked of the service; a
migrating page's walk waits (R341). A walk that is still queued does neither. -/
def execWalkComplete (d vdev page : Nat) (s0 : State) : Out :=
  let s := s0.runFinishes
  match (s.die d).walks.find? fun w => w.vdev == vdev && w.page == page with
  | none => .next s
  | some w =>
    if !(s.die d).walking w then .next s
    else match s.pages.find? fun m => m.hasPage w with
    | none => .next (s.modDie d fun q => { q with walks := q.walks.map fun x => if x == w then { x with asked := true } else x })
    | some m =>
      if m.migrating then .next s
      else
        let s1 := s.modDie d fun q => { q with walks := q.walks.erase w }
        .next (((s.walkCores w).foldl (fun (x : State) k => x.fill k m) s1).resumeWalk w false)

/-- Ranges of stacks that are not free though no page maps them: unmapped pages that keep their bytes (R394), and the scheduler's
context records. -/
def State.keptRanges (s : State) : List (Nat × Nat) :=
  (s.service.unmapped.map fun m => (m.pa, m.size)) ++
  ((s.saved.filter fun v => !v.bySavectx).map fun v => (v.record, v.size))

/-- Lowest address of a die's stacks from which `n` bytes are free, in whole pages of 64 KiB; none where there is no such range
(DESIGN CHOICE, log entry 17). -/
def State.takeSpan (s : State) (d n : Nat) : Option Nat :=
  let ends := (s.pages.map fun m => m.pa + m.size) ++ (s.keptRanges.map fun r => r.1 + r.2) ++
    (s.finishes.filterMap fun f => f.map.map fun m => m.pa + m.size) ++ (s.finishes.filterMap fun f => f.copy.map fun c => c.2.pa + c.2.size)
  let starts := (d * 2 ^ 40) :: (ends.filter fun e => decide (e / 2 ^ 40 = d)).map fun e => (e + 65535) / 65536 * 65536
  (starts.filter fun a => s.paFree a n && !(s.keptRanges.any fun r => decide (r.1 < a + n) && decide (a < r.1 + r.2))).foldl
    (fun b a => some (b.elim a (min a))) none

/-- A free 64 KiB page of a die's stacks. -/
def State.takeFrame (s : State) (d : Nat) : Option Nat := s.takeSpan d 65536

/-- What the service maps again of a page of the region that has been mapped and is not now (R394): the page last taken off the
faulting one, whole where it lies in the region and meets no other page, else its 64 KiB there; none where its bytes are not free. -/
def State.keptPage (s : State) (g : GRegion) (vdev va : Nat) : Option Mapping :=
  match s.service.unmapped.reverse.find? fun m => m.covers vdev va with
  | none => none
  | some m =>
    let whole : Bool := g.va ≤ m.va && decide (m.va + m.size ≤ g.va + (g.bytes + 65535) / 65536 * 65536) &&
      !s.pageBusy (vdev, m.va, m.size) && !(s.pages.any fun q => pagesMeet (vdev, m.va, m.size) (q.vdev, q.va, q.size))
    let piece : Mapping := { m with va := va, size := 65536, pa := m.paOf va }
    if whole && s.paFree m.pa m.size then some m else if s.paFree piece.pa piece.size then some piece else none

/-- FAULT_SERVICE: a page of a region that ALLOC or an .alloc line allocated to the VDEV is mapped, zeroed when it has never been
mapped; every other page is refused. While the die has no free frame, or an operation on an overlapping page is under way, the
request waits. -/
def execFaultService (d vdev page : Nat) (s0 : State) : Out :=
  let s := s0.runFinishes
  let va := page * 65536
  match (s.die d).walks.find? fun w => w.vdev == vdev && w.page == page && w.asked with
  | none => .next s
  | some w =>
    if s.pageBusy (vdev, va, 65536) || s.pages.any fun m => m.hasPage w then .next s
    else
      match s.service.regions.find? fun g => g.asked && g.vdev == vdev && g.va ≤ va && va < g.va + g.bytes with
      | none => .next ((s.modDie d fun q => { q with walks := q.walks.erase w }).resumeWalk w true)
      | some g =>
        match s.keptPage g vdev va with
        | some m => .next (s.install m)
        | none =>
          match s.takeFrame g.die with
          | none => .next s
          | some pa =>
          let n : Mapping := { vdev := vdev, va := va, size := 65536, pa := pa, r := true, w := true, x := false, grade := g.grade }
          let s1 := s.zeroPage n.pa 65536
          .next { s1 with
            finishes := s1.finishes ++ [{ cover := (s1.die (ownerOf n.pa)).clock, map := some n, busy := some (vdev, va, 65536) }],
            service := { s1.service with mapBusy := (vdev, va, 65536) :: s1.service.mapBusy } }

/-! ### Stamps (R324 to R326) -/

/-- WRITE_STAMP: the n-th write of a die becomes globally visible. -/
def execWriteStamp (d n : Nat) (s : State) : Out := .next (s.stampAt d n)

/-- WRITE_APPLY: a die applies the next write of another die when its turn has come. -/
def execWriteApply (d src : Nat) (s : State) : Out := .next ((s.modDie d fun x => x.applyFrom src).runFinishes)

end Sys2Proof.Machine
end

