-- ==== Sys2Proof/Machine/Power.lean ====
section
/-! DEFINITION. Rails, levels and permits (R248 to R261, R392): what a boundary settles, the clock's and the rail's moves,
droops, and issue quotas. -/

namespace Sys2Proof.Machine

/-! ### Targets (R250) -/

/-- A registration's predicate has been written: its result is no longer outstanding. -/
def Team.written (tm : Team) (w : Nat × Nat × Nat) : Bool := !((tm.sheaf w.1).pend.any fun p => p.seq == w.2.1)

/-- The value that a team counts with at a boundary: its last registration whose predicate has been written (R261). Each waiting
one names the value before it. -/
def Team.counted (tm : Team) (waits : List (Nat × Nat × Nat)) (now : Nat) : Nat :=
  match waits with
  | [] => now
  | w :: r => ((w :: r).zip (r.map (fun x => x.2.2) ++ [now])).foldl (fun b x => if tm.written x.1 then x.2 else b) w.2.2

def Team.levelNow (tm : Team) : Nat := tm.counted tm.levelWait tm.level
def Team.gradeNow (tm : Team) : Nat := tm.counted tm.gradeWait tm.grade

/-- The effective grade that a boundary reports (R257, R261). -/
def State.boundaryGrade (s : State) (k : Nat) : Nat := (s.placedOn k).foldl (fun b tm => min b tm.gradeNow) 8

/-- Target of a cluster: D4 while its trip holds (R359). -/
def State.target (s : State) (k : Nat) : Nat :=
  let c := s.cluster k
  let low := lowestLevel c.pfloor
  if c.hot then low
  else
    let rs := s.placedOn k
    if rs.isEmpty then max low 4 else max low (min c.cap ((rs.map Team.levelNow).foldl max 0))

/-! ### Permits (R255, R256, R260) -/

/-- An idle interval refills half a permit. -/
def Cluster.refill (c : Cluster) : Cluster :=
  if c.busy then c
  else if c.half then { c with half := false, bal := min 64 (c.bal + 1) } else { c with half := true }

/-- The cluster runs a level, or the lowest one that its precise floor admits: it never runs below it (R249). A level that the
floor alone requires costs no permit (DESIGN CHOICE, log entry 40). -/
def Cluster.runAt (c : Cluster) (l : Nat) : Cluster := { c with nextLevel := max l (lowestLevel c.pfloor) }

/-- The B1 branch and the one below it. -/
def Cluster.runBelow (c : Cluster) (t : Nat) : Cluster :=
  if t ≥ 5 && c.bal ≥ 1 then { c with bal := c.bal - 1, b2g := false }.runAt 5
  else { c with b2g := false }.runAt (min t 4)

/-- The first pass of R260 on one cluster: the cluster after it, and whether it contends for a grant. -/
def Cluster.settle (c : Cluster) (t : Nat) : Cluster × Bool :=
  if c.fall then ({ c with fall := false }.runAt (min t 4), false)
  else if c.nextLevel == 6 && t == 6 && c.bal < 2 then ({ c with fall := true, b2g := false }.runAt 5, false)
  else if t == 6 && c.bal ≥ 2 then
    if c.b2g then ({ c with nextLevel := 6, bal := c.bal - 2 }, false) else (c, true)
  else (c.runBelow t, false)

/-- WinsB2 in the die's rotating order: free grants, the pointer and the clusters. -/
def winsB2 (d : Nat) (cands : List Nat) (s : State) : State :=
  let held := ((List.range 12).filter fun q => (s.cluster (12 * d + q)).b2g).length
  let p := (s.die d).pointer
  let order := (List.range 12).map fun q => (p + q) % 12
  let r := (order.filter fun q => cands.contains q).foldl (fun (x : State × Nat) q =>
    if x.2 > 0 then
      ((x.1.modCluster (12 * d + q) fun c => { c with nextLevel := 6, bal := c.bal - 2, b2g := true }).modDie d fun y =>
        { y with pointer := (q + 1) % 12 }, x.2 - 1)
    else (x.1.modCluster (12 * d + q) fun c => c.runBelow 6, 0)) (s, 2 - held)
  r.1

/-- The permits word (R257). -/
def permitsWord (c : Cluster) (grade : Nat) : Word :=
  BitVec.ofNat 64 (grade * 2 ^ 36 + c.nextLevel * 2 ^ 32 + bit c.fall * 2 ^ 23 + bit c.b2g * 2 ^ 22 + bit c.half * 2 ^ 21 + c.bal)

/-- C and S of R257 in the interval that ends: 8 times the cluster's cycles, which are those of the core that has counted most of
them, and the core-cycles in which a core held a team and issued on neither port. -/
def State.stalls (s : State) (k : Nat) : Nat × Nat :=
  let cs := (List.range 8).map fun q => s.core (8 * k + q)
  (8 * cs.foldl (fun n c => max n (c.cycle - c.cycles0)) 0, cs.foldl (fun n c => n + c.stall) 0)

/-- The stall word: its DROOP field saturates at 65,535, the count goes on in 32 bits (R257, R316). -/
def stallWord (s : State) (k : Nat) : Word :=
  let r := s.stalls k
  let ratio := if r.1 = 0 then 0 else min 4095 (4096 * r.2 / r.1)
  BitVec.ofNat 64 (min (s.cluster k).droops 65535 * 2 ^ 48 + ((s.time / 20000 - 1) % 2 ^ 20) * 4096 + ratio)

/-- What a boundary settles on a die. -/
def State.powerDie (s : State) (d : Nat) : State :=
  let ks := List.range 12
  let r := ks.foldl (fun (x : State × List Nat) q =>
    let k := 12 * d + q
    let y := ((x.1.cluster k).refill).settle (x.1.target k)
    (x.1.modCluster k fun _ => { y.1 with busy := false, fresh := false, stallw := stallWord x.1 k },
      if y.2 then x.2 ++ [q] else x.2)) (s, [])
  let s1 := winsB2 d r.2 r.1
  ks.foldl (fun (x : State) q =>
    let k := 12 * d + q
    x.modCluster k fun c => { c with permits := permitsWord c (x.boundaryGrade k) }) s1

/-- PLEVELs and SETGRADEs whose predicates have all been written count from now on. -/
def Team.dropWaits (tm : Team) : Team :=
  { tm with levelWait := tm.levelWait.dropWhile tm.written, gradeWait := tm.gradeWait.dropWhile tm.written }

/-- Every die at once; the cores' counts of the interval begin again. -/
def State.powerBoundary (s : State) : State :=
  let s1 := allDies.foldl (fun (x : State) d => x.powerDie d) s
  { s1 with lastBoundary := some s.time,
            cores := s1.cores.map fun (e : Nat × Core) => (e.1, { e.2 with stall := 0, cycles0 := e.2.cycle }),
            teams := s1.teams.map fun (e : Nat × Team) => (e.1, e.2.dropWaits) }

/-! ### Moves of the rails (R254, R392) -/

/-- LEVEL_CLOCK_SWITCH: the clock takes the interval's level; a rise waits for the rail. -/
def execLevelClockSwitch (k : Nat) (s : State) : Out :=
  let c := s.cluster k
  let since := s.lastBoundary.getD 0
  if c.level == c.nextLevel then .next s
  else if levelMv c.nextLevel > c.rail && s.time < since + railTime c.rail (levelMv c.nextLevel) then .next s
  else .next (s.modCluster k fun x => { x with level := x.nextLevel, rail := levelMv x.nextLevel })

/-- Requests of a team that the rail now serves (R252, R253). -/
def State.serveGrades (s : State) (t : Nat) (c : Cluster) : State :=
  match s.team? t with
  | none => s
  | some tm =>
    let now := tm.gradeReq.filter fun r => c.serves s.time r.1
    (now.foldl (fun (x : State) r =>
      (x.modTeam t fun y => y.setGrade r.1 r.2.1 r.2.2).complete t r.2.1 r.2.2 []) s).modTeam t fun y =>
        { y with gradeReq := y.gradeReq.filter (fun r => !c.serves s.time r.1) }

/-- A team whose rail stands is placed: its residence begins, and a RESTCTX that waits for it answers 0 (R253, R358, R392). -/
def State.railStands (s : State) (t : Nat) (c : Cluster) : State :=
  match s.team? t with
  | none => s
  | some tm =>
    if tm.waitsRail && c.serves s.time tm.railNeed then
      let s1 := s.modTeam t fun y => { y with waitsRail := false, since := s.time, railAnswer := none }
      tm.railAnswer.elim s1 fun w => s1.complete w.1 w.2.1 w.2.2 []
    else s

/-- GRADE_REACHED: the approximate rail stands at its target; waiting predicates, placements and restores follow. -/
def execGradeReached (k : Nat) (s : State) : Out :=
  let c := s.cluster k
  if !c.railSettled s.time then .next s
  else
    let s1 := s.modCluster k fun x => { x with agrade := x.atarget }
    .next (((s.residents k).foldl (fun (x : State) tm => (x.serveGrades tm.key c).railStands tm.key c) s1).retarget k)

/-! ### Droops (R258) -/

/-- Mesh cycles of the 1 µs window before `now` in which the switch was connected. -/
def Cluster.injectedIn (c : Cluster) (now : Nat) : Nat :=
  let cur : List (Nat × Nat) := match c.injecting with
    | some (t, true) => [(t, now)]
    | _ => []
  (cur ++ c.injected).foldl (fun n e => n + (min e.2 now - max e.1 (now - 2000))) 0

/-- A droop that is not injected, or no longer: the clock skips cycles until it clears; it is counted and logged. -/
def State.refuseDroop (s : State) (k : Nat) : State :=
  (s.modCluster k fun x => { x with
      injecting := some (s.time, false),
      injected := match x.injecting with
        | some (t, true) => (t, s.time) :: x.injected
        | _ => x.injected
      droops := min (x.droops + 1) 4294967295 }).record
    (dieOfCluster k) { kind := LogKind.droopRefused, src := srcCluster k }

/-- DROOP: met by charge injection while its allowance of 125 mesh cycles in any 2,000 is not spent, else refused. The allowance
alone decides, whatever the event asks for. -/
def execDroop (k : Nat) (_inject : Bool) (s : State) : Out :=
  let c := s.cluster k
  if c.injecting.isSome then .next s
  else if c.injectedIn s.time < 125 then .next (s.modCluster k fun x => { x with injecting := some (s.time, true) })
  else .next (s.refuseDroop k)

/-- The allowance of a connection that lasts runs out: the switch opens, and the droop goes on as a refused one (DESIGN CHOICE,
log entry 40). -/
def State.cutDroop (s : State) (k : Nat) : State :=
  match (s.cluster k).injecting with
  | some (_, true) => if (s.cluster k).injectedIn s.time ≥ 125 then s.refuseDroop k else s
  | _ => s

/-- DROOP_CLEARS. -/
def execDroopClears (k : Nat) (s : State) : Out :=
  .next (s.modCluster k fun x =>
    match x.injecting with
    | some (t, true) => { x with injecting := none, injected := ((t, s.time) :: x.injected).filter fun e => e.2 + 2000 > s.time }
    | _ => { x with injecting := none })

/-- The cluster's clock skips (R258). -/
def Cluster.skips (c : Cluster) : Bool :=
  match c.injecting with
  | some (_, false) => true
  | _ => false

/-! ### Issue quotas (R259) -/

/-- QUOTA_ROTATION: at each multiple of 100,000 every unparked set advances by its quota. -/
def execQuotaRotation (s : State) : Out :=
  if s.time % 100000 == 0 && s.lastRotation != some s.time then
    .next { s with lastRotation := some s.time,
                   clusters := s.clusters.map fun (e : Nat × Cluster) => (e.1, { e.2 with rotate := e.2.rotate + e.2.quota }) }
  else .next s

def insertNat (n : Nat) : List Nat → List Nat
  | [] => [n]
  | m :: r => if n ≤ m then n :: m :: r else m :: insertNat n r

/-- Slots of a core's resident sheaves, ascending. -/
def State.slotsOn (s : State) (core : Nat) : List Nat :=
  (s.teamsOn core).foldl (fun l tm => tm.sheaves.foldl (fun q sh => insertNat sh.slot q) l) []

/-- A sheaf outside the unparked set, unless a decision needs it (R259). -/
def State.powerParked (s : State) (tm : Team) (j : Nat) : Bool :=
  let c := s.cluster (clusterOfCore tm.core)
  let l := s.slotsOn tm.core
  let n := l.length
  if n ≤ c.quota || tm.deciding then false
  else
    let at_ := l.findIdx fun x => x == (tm.sheaf j).slot
    decide ((at_ + n - c.rotate % n) % n ≥ c.quota)

end Sys2Proof.Machine
end

