-- ==== Sys2Proof/Machine/Place.lean ====
section
/-! DEFINITION. Placement (R165, R172, R186, R347, R348): what a team takes of a core, which stages want teams, where a team
goes, and the restoring of a saved team onto a core (R352, R353, R358). -/

namespace Sys2Proof.Machine

/-! ### What a team takes of a core (R165, R172, R175, R180, R186, R191) -/

structure Need where
  slots : Nat := 0
  units : Nat := 0
  larderA : Nat := 0          -- granules of 16 KiB
  larderP : Nat := 0          -- and of the undo log
  bins : Nat := 0
  share : Nat := 0
deriving DecidableEq, Repr

def granules (n : Nat) : Nat := (n + 16383) / 16384

def Stage.copies (st : Stage) : Nat := if st.mode == 2 then 2 else 1

/-- What a stage's team takes at placement; a paired team's bins count twice (R197). -/
def Stage.need (st : Stage) : Need where
  slots := st.copies * st.sheaves
  units := st.copies * st.sheaves * (((st.role? 0).getD {}).regs / 8)
  larderA := granules st.larderA
  larderP := granules st.larderP + (if st.mode == 0 then 0 else 32)
  bins := st.copies * st.bins
  share := if st.mode == 0 then 0 else 1

/-- What a resident or saved team takes: the units it holds when they are more. -/
def Team.need (tm : Team) : Need := { tm.st.need with units := tm.unitsUsed }

def Need.add (a b : Need) : Need where
  slots := a.slots + b.slots
  units := a.units + b.units
  larderA := a.larderA + b.larderA
  larderP := a.larderP + b.larderP
  bins := a.bins + b.bins
  share := a.share + b.share

/-! The larder's 256 granules: 32 in each of eight groups, of which 6 and 7 hold either kind, one at a time (R172). -/

def groupOf (g : Nat) : Nat := g / 32

/-- Free granules for an approximate part: those of groups 6 and 7 where no precise one lies, of a group in approximate use
first. -/
def roomA (a p : List Nat) : List Nat :=
  let free := (List.range 256).filter fun g =>
    groupOf g ≥ 6 && !a.contains g && !p.any fun x => groupOf x == groupOf g
  let used (g : Nat) : Bool := a.any fun x => groupOf x == groupOf g
  (free.filter used) ++ free.filter fun g => !used g

/-- Free granules for a precise part: those of groups 0 to 5, then of a group that holds no approximate one. -/
def roomP (a p : List Nat) : List Nat :=
  (List.range 256).filter fun g => !p.contains g && !a.contains g && !a.any fun x => groupOf x == groupOf g

/-- Granules for a team beside those in use; none where they do not fit. -/
def grantLarder (a p : List Nat) (n : Need) : Option (List Nat × List Nat) :=
  let ga := (roomA a p).take n.larderA
  let gp := (roomP (a ++ ga) p).take n.larderP
  if ga.length == n.larderA && gp.length == n.larderP then some (ga, gp) else none

/-- A core has room for all of it together but the larder. -/
def Need.fits (n : Need) : Bool := n.slots ≤ 16 && n.units ≤ 256 && n.bins ≤ 16 && n.share ≤ 4

/-- Granules in use by some teams. -/
def granulesA (ts : List Team) : List Nat := ts.flatMap fun tm => tm.granA
def granulesP (ts : List Team) : List Nat := ts.flatMap fun tm => tm.granP

/-- Attic bytes held on a core, without the regions of some stages. -/
def State.atticHeld (s : State) (core : Nat) (but : List (Nat × Nat)) : Nat :=
  ((s.core core).attic.filter fun a => !but.contains (a.1, a.2.1)).foldl (fun n a => n +
    (match s.stageRun? a.1 a.2.1 with
     | some g => g.st.attic
     | none => 0)) 0

/-- A stage's region fits beside the others, or is there already. -/
def State.atticFits (s : State) (core : Nat) (but : List (Nat × Nat)) (launch stage bytes : Nat) : Bool :=
  ((s.core core).attic.any fun a => a.1 == launch && a.2.1 == stage) || decide (s.atticHeld core but + bytes ≤ 25165824)

/-- The attic region that leaves a core with a team: its stage's, when it is the last of the stage there (R355). -/
def State.atticLeaves (s : State) (tm : Team) : List (Nat × Nat) :=
  if (s.teamsOn tm.core).any fun x => x.key != tm.key && x.launch == tm.launch && x.stage == tm.stage then []
  else [(tm.launch, tm.stage)]

/-- A core takes a team, without the teams named in `but`. At most one matrix team is resident (R186). -/
def State.roomFor (s : State) (core : Nat) (but : List Nat) (n : Need) : Bool :=
  let ts := (s.teamsOn core).filter fun tm => !but.contains tm.key
  (ts.foldl (fun x tm => x.add tm.need) n).fits && (grantLarder (granulesA ts) (granulesP ts) n).isSome &&
  (n.bins == 0 || ts.all fun tm => tm.st.bins == 0)

/-! ### Cores that a stage may use -/

def dieAllowed (dies d : Nat) : Bool := dies == 0 || dies.testBit d

/-- Cores of a partition on allowed dies, in logical order; a cluster that a resize gave waits for its boundary (R361). -/
def State.allowedCores (s : State) (part dies : Nat) : List Nat :=
  ((s.partClusters part).filter fun k => dieAllowed dies (dieOfCluster k) && !(s.cluster k).fresh).flatMap fun k =>
    (List.range 8).map fun c => 8 * k + c

/-- Cores that accept a team. -/
def State.accepting (s : State) (l : Launch) (k : Nat) (g : StageRun) (n : Need) : List Nat :=
  (s.allowedCores l.part g.dies).filter fun c => s.roomFor c [] n && s.atticFits c [] l.n k g.st.attic

/-- Teams of a stage on a die. -/
def State.stageTeamsOn (s : State) (launch stage d : Nat) : Nat :=
  (s.teams.filter fun (e : Nat × Team) => e.2.launch == launch && e.2.stage == stage && e.2.die == d).length

/-- Order among accepting cores: teams of the stage on the die, teams on the core; the first of the least. -/
def State.choose (s : State) (launch stage : Nat) (cs : List Nat) : Option Nat :=
  let key (c : Nat) : Nat × Nat := (s.stageTeamsOn launch stage (dieOfCore c), (s.teamsOn c).length)
  let die := cs.foldl (fun (b : Option Nat) c => match b with
    | none => some c
    | some x => if (key c).1 < (key x).1 then some c else b) none
  match die with
  | none => none
  | some d =>
    (cs.filter fun c => dieOfCore c == dieOfCore d).foldl (fun (b : Option Nat) c => match b with
      | none => some c
      | some x => if (key c).2 < (key x).2 then some c else b) none

/-! ### Stages that want teams (R348, R362) -/

/-- The cellar region at a global address of a device, on whichever die. -/
def State.regionAt (s : State) (vdev va : Nat) : Option Region :=
  (allDies.flatMap fun d => (s.die d).regions).find? fun r => r.vdev == vdev && r.va == va

def State.fed (s : State) (vdev : Nat) (g : StageRun) : Bool :=
  !g.st.hasIn || (s.regionAt vdev g.inq).elim false fun r => decide ((s.queueCounts r).1 ≥ 1)

def State.blocked (s : State) (vdev : Nat) (g : StageRun) : Bool :=
  g.st.hasOut && (s.regionAt vdev g.outq).elim false fun r => decide ((s.queueCounts r).2 ≥ r.bytes / 128 - 1)

/-- Teams of a phase: PHASEW, or all (R362). -/
def StageRun.width (g : StageRun) : Nat := if g.phaseW == 0 then g.teams else g.phaseW

/-- One past the last lid.team that the phase lets start. -/
def Launch.teamLimit (l : Launch) (g : StageRun) : Nat := if l.phased then min g.teams ((l.phase + 1) * g.width) else g.teams

/-- Teams of a stage that the scheduler itself saved, in the order they were saved. -/
def State.schedSaved (s : State) (launch stage : Nat) : List Saved :=
  s.saved.filter fun v => !v.bySavectx && v.team.launch == launch && v.team.stage == stage

def State.wanting (s : State) (l : Launch) (k : Nat) (g : StageRun) : Bool :=
  l.state == 1 && (g.nextLid < l.teamLimit g || !(s.schedSaved l.n k).isEmpty) && s.fed l.vdev g && !s.blocked l.vdev g

/-- Wanting stages: launch, index, entry. -/
def State.wantingStages (s : State) : List (Launch × Nat × StageRun) :=
  s.launches.flatMap fun l => (l.stages.zipIdx.filter fun g => s.wanting l g.2 g.1).map fun g => (l, g.2, g.1)

/-- Highest PRI first; then lower launch, then lower stage. -/
def stageBefore (a b : Launch × Nat × StageRun) : Bool :=
  a.2.2.st.pri > b.2.2.st.pri || (a.2.2.st.pri == b.2.2.st.pri && (a.1.n < b.1.n || (a.1.n == b.1.n && a.2.1 < b.2.1)))

def insertStage (a : Launch × Nat × StageRun) : List (Launch × Nat × StageRun) → List (Launch × Nat × StageRun)
  | [] => [a]
  | b :: r => if stageBefore b a then b :: insertStage a r else a :: b :: r

def sortStages (l : List (Launch × Nat × StageRun)) : List (Launch × Nat × StageRun) := l.foldr insertStage []

/-! ### Taking a core -/

/-- Slots of a core that no resident sheaf or shadow holds, ascending. -/
def State.freeSlots (s : State) (core : Nat) : List Nat :=
  let used := (s.teamsOn core).flatMap fun tm => tm.sheaves.flatMap fun sh => sh.slot :: sh.shadow.toList
  (List.range 16).filter fun k => !used.contains k

/-- The stage's attic region stands on the core: a restored team's own, else the one that is there, zeroed when it is new (R191, R355,
R365). -/
def State.takeAttic (s : State) (core launch stage bytes : Nat) (with_ : Option (SMap Byte)) : State :=
  if bytes == 0 then s
  else
    let mine (a : Nat × Nat × SMap Byte) : Bool := a.1 == launch && a.2.1 == stage
    if with_.isNone && (s.core core).attic.any mine then s
    else s.modCore core fun c => { c with attic := c.attic.filter (fun a => !mine a) ++ [(launch, stage, with_.getD [])] }

/-- The team enters the core: its slots, its granules, its die, its time, and whether it waits for the rail (R253). -/
def State.enterCore (s : State) (tm : Team) (core : Nat) : State :=
  let n := tm.sheaves.length
  let fs := s.freeSlots core
  let sheaves := tm.sheaves.mapIdx fun j sh =>
    { sh with slot := fs.getD j 0, shadow := if tm.st.mode == 2 then some (fs.getD (n + j) 0) else none }
  let k := clusterOfCore core
  let wait := !(s.cluster k).serves s.time tm.railNeed
  let now := s.time
  let gs := (grantLarder (granulesA (s.teamsOn core)) (granulesP (s.teamsOn core)) tm.need).getD ([], [])
  let tm1 := { tm with core := core, die := dieOfCore core, sheaves := sheaves, since := now, waitsRail := wait, preempt := .none,
                       granA := gs.1, granP := gs.2 }
  (s.setTeam tm1).retarget k

/-! ### Placing a new team (R347) -/

/-- S0 to S63 from the argument block; what no page maps reads as zero. -/
def State.argWords (s : State) (d vdev args : Nat) : List Word :=
  (List.range 64).map fun k =>
    if args == 0 then 0
    else match s.pageOf vdev (args + 8 * k) with
      | none => 0
      | some m => BitVec.ofNat 64 (bytesNat (s.readGlobal d [] m.grade s.free 0 (m.paOf (args + 8 * k)) 8))

/-- A sheaf at placement: role 0, its uniforms, no strand. -/
def newSheaf (r : RoleRow) (entry : Pc) (us : List Word) : Sheaf :=
  let ur := us.zipIdx.foldl (fun (m : SMap Val) w => m.store {} w.2 { bits := w.1 }) []
  { role := r.k, allot := r.regs, cls := r.cls, entry := entry, ureg := ur, strands := List.replicate 32 {} }

/-- Spill region of a team within its launch's (R84, R345). -/
def Launch.spillOf (l : Launch) (k lid : Nat) : Nat :=
  let before := (l.stages.take k).foldl (fun n g => n + g.teams * g.st.sheaves) 0
  l.spill + 524288 * (before + lid * ((l.stages.map fun g => g.st.sheaves).getD k 0))

/-- Items of a phased launch's team: t·B to min(ITEMS, (t + 1)·B) - 1. -/
def itemBlock (items teams lid : Nat) : Nat × Nat :=
  let b := (items + teams - 1) / teams
  (min items (lid * b), min items ((lid + 1) * b))

/-- The team before it runs. In a phased launch every stage is phased (R362, R363). -/
def Launch.newTeam (l : Launch) (k lid : Nat) (g : StageRun) (code : Nat) (codeSize : Nat) (us : List Word) : Team :=
  let st := { g.st with phased := l.phased }
  let r := (st.role? 0).getD {}
  let sh := newSheaf r (BitVec.ofNat 48 (code + r.entry)) us
  let items := if l.phased then itemBlock st.items g.teams lid else (0, 0)
  let team : Team := { key := teamKey l.n k lid, launch := l.n, stage := k, lid := lid, vdev := l.vdev, part := l.part }
  { team with
    priv := l.priv
    debug := l.debug
    st := st
    code := code
    codeSize := codeSize
    sheaves := List.replicate st.sheaves sh
    grade := st.grade
    level := st.level
    phase := l.phase
    itemNext := items.1
    itemEnd := items.2
    spill := l.spillOf k lid
    guarded := if st.mode == 0 then none else some {} }

def State.placeTeam (s : State) (l : Launch) (k : Nat) (g : StageRun) (core : Nat) : State :=
  let d := dieOfCore core
  let lid := g.nextLid
  let s1 := (s.applyUpTo d l.clock).takeAttic core l.n k g.st.attic none
  match s1.service.codes.find? fun o => o.addr == l.code && o.vdev == l.vdev with
  | none => s
  | some o =>
    let tm := l.newTeam k lid g o.code o.size (s1.argWords d l.vdev g.args)
    let s2 := (({ s1 with free := s1.free + 1 }.enterCore tm core).modStage l.n k fun x => { x with nextLid := lid + 1 })
    let s3 := (List.range g.st.sheaves).foldl (fun (x : State) j => x.refillSheaf tm.key j) s2
    (s3.modTeam tm.key Team.checkpoint).settled tm.key

/-! ### Restoring a saved team (R352, R353, R358) -/

/-- A saved team enters a core. Its jobs go on from their WP, behind the decoder jobs that the core's teams have issued (R226), its
sequencer from its entries' steps. -/
def State.resumeTeam (s : State) (v : Saved) (core : Nat) : State :=
  let l := clockMax v.clock ((s.launch? v.team.launch).elim [] fun x => x.clock)
  let s1 := ((s.applyUpTo (dieOfCore core) l).takeAttic core v.team.launch v.team.stage v.team.st.attic v.attic)
  let tm := { v.team with resuming := v.team.matrix.nextId, jobs := v.team.jobs.mapIdx fun k (j : Job) => { j with order := s1.ids + k } }
  let s2 := { s1 with
    ids := s1.ids + tm.jobs.length, saved := s1.saved.filter fun x => x.team.key != v.team.key }.enterCore tm core
  let s3 := (tm.jobs.map fun j => j.seq).foldl (fun (x : State) n => x.releaseWaits tm.key n) s2
  (s3.modTeam tm.key Team.checkpoint).settled tm.key

/-- A restored member of a chain that an entry of the team belongs to holds the chain's cluster (R246). -/
def State.mateCluster (s : State) (tm : Team) : Option Nat :=
  let keys := (tm.matrix.queue.filter fun e => e.op == .chain).map fun e => chainKey e.desc
  let mate (x : Team) : Bool := x.launch == tm.launch && x.key != tm.key &&
    x.matrix.queue.any fun e => e.op == .chain && e.id < x.resuming && keys.contains (chainKey e.desc)
  (s.teams.find? fun (e : Nat × Team) => mate e.2).map fun e => clusterOfCore e.2.core

/-- The core can take the saved team's attic region, which no resident team of the stage holds there, and its chain's cluster
(R246, R358). -/
def State.takesSaved (s : State) (v : Saved) (core : Nat) : Bool :=
  (v.attic.isNone || !((s.teamsOn core).any fun x => x.launch == v.team.launch && x.stage == v.team.stage)) &&
  (s.mateCluster v.team).elim true fun k => clusterOfCore core == k

/-- Keys of the chains that a saved team's entries belong to. -/
def Team.chainKeys (tm : Team) : List Nat := ((tm.matrix.queue.filter fun e => e.op == .chain).map fun e => chainKey e.desc).dedup

/-- Saved teams of the given teams' chains, and those of theirs. -/
def State.savedMates (s : State) (vs : List Saved) : List Saved :=
  let step (xs : List Saved) : List Saved := xs ++ s.saved.filter fun v => !v.bySavectx && !(xs.any fun x => x.team.key == v.team.key) &&
    xs.any fun x => x.team.launch == v.team.launch && x.team.chainKeys.any v.team.chainKeys.contains
  (List.range 8).foldl (fun xs _ => step xs) vs

/-- Restore teams of one chain, each on a core of the cluster that accepts it; none where one finds no core. -/
def State.restoreOn (k : Nat) : List Saved → State → Option State
  | [], s => some s
  | v :: rest, s =>
    match (s.launch? v.team.launch).bind fun l => (l.stages[v.team.stage]?).map fun g => (l, g) with
    | none => none
    | some (l, g) =>
      let cs := (s.accepting l v.team.stage g v.team.need).filter fun c => clusterOfCore c == k && s.takesSaved v c
      (s.choose l.n v.team.stage cs).bind fun c => restoreOn k rest (s.resumeTeam v c)

/-- Restore a saved team on a core, with the saved members of its chains on the core's cluster (R246). -/
def State.restoreWith (s : State) (v : Saved) (core : Nat) : Option State :=
  restoreOn (clusterOfCore core) ((s.savedMates [v]).drop 1) (s.resumeTeam v core)

/-! ### PLACEMENT (R348) -/

/-- Place or restore one team of a stage, if some core accepts it: saved teams first. -/
def State.placeOne (s : State) (l : Launch) (k : Nat) (g : StageRun) : Option State :=
  let try1 (b : Option State) (v : Saved) : Option State :=
    match b with
    | some x => some x
    | none =>
      let cs := (s.accepting l k g v.team.need).filter fun c => s.takesSaved v c && (s.restoreWith v c).isSome
      (s.choose l.n k cs).bind fun c => s.restoreWith v c
  match (s.schedSaved l.n k).foldl try1 none with
  | some x => some x
  | none =>
    if g.nextLid < l.teamLimit g then
      (s.choose l.n k (s.accepting l k g g.st.need)).map fun c => s.placeTeam l k g c
    else none

/-- One team of the first wanting stage for which some core accepts one. -/
def State.placeNext (s : State) : Option State :=
  (sortStages s.wantingStages).foldl (fun (b : Option State) w => match b with
    | some x => some x
    | none => s.placeOne w.1 w.2.1 w.2.2) none

/-- What a core has free: slots, units, granules of either kind, bins, shares, attic bytes, and its matrix team's place. -/
def State.roomOf (s : State) (core : Nat) : List Nat :=
  let ts := s.teamsOn core
  let used : Need := ts.foldl (fun x tm => x.add tm.need) {}
  [(s.freeSlots core).length, s.freePool core, (roomA (granulesA ts) (granulesP ts)).length,
   (roomP (granulesA ts) (granulesP ts)).length, 16 - used.bins, 4 - used.share, 25165824 - s.atticHeld core [],
   if ts.any fun tm => tm.st.bins != 0 then 0 else 1]

/-- What an empty core has free. -/
def emptyRoom : List Nat := [16, 256, (roomA [] []).length, (roomP [] []).length, 16, 4, 25165824, 1]

/-- Resources of some core have freed since the last mesh cycle, of whatever kind. -/
def State.roomGrew (s : State) : Bool := s.cores.any fun (e : Nat × Core) =>
  ((if e.2.room.isEmpty then emptyRoom else e.2.room).zip (s.roomOf e.1)).any fun x => decide (x.1 < x.2)

/-- The scheduler places teams whenever a core's resources free, and at every interval boundary. -/
def State.mayPlace (s : State) : Bool := s.time % 20000 == 0 || s.roomGrew

/-- A mesh cycle has passed: every core's room is what the next one starts from. -/
def State.noteRoom (s : State) : State :=
  ((s.teams.map fun (e : Nat × Team) => e.2.core) ++ s.cores.map Prod.fst).dedup.foldl (fun (x : State) k =>
    x.modCore k fun c => { c with room := s.roomOf k }) s

/-- Place up to `n` teams. -/
def placeUpTo : Nat → State → State
  | 0, s => s
  | n + 1, s =>
    match s.placeNext with
    | some x => placeUpTo n x
    | none => s

/-- Place every team that wants a core and finds one. -/
def State.placeWaiting (s : State) : State :=
  placeUpTo (s.launches.foldl (fun n l => n + l.stages.foldl (fun m g => m + (g.teams - g.nextLid)) 0) s.saved.length) s

/-- PLACEMENT: one team of a wanting stage. -/
def execPlacement (s : State) : Out := .next (if s.mayPlace then s.placeNext.getD s else s)

end Sys2Proof.Machine
end

