-- ==== Sys2Proof/Machine/Launch.lean ====
section
/-! DEFINITION. Launches (R343 to R346, R362): the record and its checks, acceptance, LNCH, running, phases, completion. -/

namespace Sys2Proof.Machine

/-! ### Fields of bytes -/

def field (bs : List Byte) (off n : Nat) : Nat := bytesNat ((bs.drop off).take n)

def zeroAt (bs : List Byte) (off n : Nat) : Bool := ((bs.drop off).take n).all fun b => b == 0

/-! ### Regions and pages that pass to an owner (R262, R365) -/

/-- The translations of a range are gone, in the tables and in every TLB. -/
def State.unmapRange (s : State) (vdev va bytes : Nat) : State :=
  let inR (m : Mapping) : Bool := m.vdev == vdev && va ≤ m.va && m.va < va + bytes
  let s1 := { s with pages := s.pages.filter (fun m => !inR m) }
  { s1 with service := { s1.service with unmapped := s1.service.unmapped.filter fun m => !inR m } }.shootAll inR

/-- A cellar region's objects retire and its bytes and metadata are zeroed. -/
def State.zeroRegion (s : State) (r : Region) : State := (s.retireRegion r).zeroPage r.pa r.bytes

/-- A cellar region goes back to the cache. -/
def State.freeRegion (s : State) (r : Region) : State :=
  ((s.retireRegion r).unmapRange r.vdev r.va ((r.bytes + 1048575) / 1048576 * 1048576)).modDie (ownerOf r.pa) fun d =>
    { d with regions := d.regions.filter fun x => x.pa != r.pa }

/-- Granules of a die that regions hold. -/
def Die.granulesHeld (d : Die) : List Nat :=
  d.regions.flatMap fun r => (List.range ((r.bytes + 1048575) / 1048576)).map fun k => (r.pa - 2 ^ 44) % 2 ^ 28 / 1048576 + k

/-- The highest run of free granules, when 32 stay for the cache. -/
def Die.findRun (d : Die) (n : Nat) : Option Nat :=
  let held := d.granulesHeld
  if n == 0 || held.length + n + 32 > 168 then none
  else ((List.range (169 - n)).map fun k => 192 - n - k).find? fun g => (List.range n).all fun k => !held.contains (g + k)

/-- A cellar region comes into being on a die: its granules leave the cache and are zeroed (R262, R263, R365). -/
def State.openRegion (s : State) (d : Nat) (r : Region) : State :=
  let n := (r.bytes + 1048575) / 1048576 * 1048576
  (s.modDie d fun q =>
    { q with regions := q.regions ++ [r], metas := q.metas.filter fun e => e.1 < r.pa || r.pa + n ≤ e.1 }.cacheIn []).zeroPage r.pa n

/-- A region moves to another die's cellar with its bytes and keeps its address; none where that cellar has no run of granules for it
(R366; log entry 36). -/
def State.moveRegion (s : State) (d : Nat) (r : Region) : Option State :=
  let n := (r.bytes + 1048575) / 1048576
  ((s.die d).findRun n).map fun g =>
    let home : Region := { r with pa := cellarPa d (g * 1048576) }
    let inR (m : Mapping) : Bool := r.pa ≤ m.pa && m.pa < r.pa + n * 1048576
    let moved (m : Mapping) : Mapping := { m with pa := home.pa + (m.pa - r.pa) }
    let s1 := (s.retireRegion r).openRegion d home
    let s2 := (s1.pages.filter inR).foldl (fun (x : State) m => x.copyPage m (moved m)) s1
    ({ s2 with pages := s2.pages.map fun m => if inR m then moved m else m }.shootAll inR).modDie (ownerOf r.pa) fun q =>
      { q with regions := q.regions.filter fun x => x.pa != r.pa }

/-- A region that no launch owns, or whose launch is complete. -/
def State.unowned (s : State) (r : Region) : Bool :=
  match r.launch with
  | none => true
  | some n => (s.launch? n).elim true fun l => l.state == 2

/-- Regions that a launch takes: the unowned ones of its device, of its code object or of none. What another launch held
is zeroed. -/
def State.takeRegions (s : State) (n vdev code : Nat) : State :=
  let rs := (allDies.flatMap fun d => (s.die d).regions).filter fun r =>
    r.vdev == vdev && s.unowned r && (r.code.isNone || r.code == some code)
  rs.foldl (fun (x : State) r =>
    (if r.launch.isSome then x.zeroRegion r else x).modDie (ownerOf r.pa) fun d =>
      { d with regions := d.regions.map fun q => if q.pa == r.pa then { q with launch := some n } else q }) s

/-- A code object's regions whose die no line names come from the die of lid.die 0 of the launch's partition: those that lie elsewhere
move there (R366). -/
def State.bringRegions (s : State) (vdev code d : Nat) : Option State :=
  let rs := (allDies.flatMap fun k => (s.die k).regions).filter fun r =>
    !r.named && r.vdev == vdev && r.code == some code && s.unowned r && ownerOf r.pa != d
  rs.foldl (fun (x : Option State) r => x.bind fun y => y.moveRegion d r) (some s)

/-- The lowest multiple of 1 GiB from which `n` bytes of every device's addresses meet no region and no page; none where there is no
such run below the guests' error queues (DESIGN CHOICE, log entry 36). -/
def State.freshVa (s : State) (n : Nat) : Option Nat :=
  let taken := (s.service.regions.map fun g => (g.va, max 1 g.bytes)) ++ (s.pages.map fun m => (m.va, m.size)) ++
    s.service.unmapped.map fun m => (m.va, m.size)
  let starts := s.service.nextVa :: taken.map fun r => (r.1 + r.2 + 1073741823) / 1073741824 * 1073741824
  (starts.filter fun a => s.service.nextVa ≤ a && a + n ≤ Config.queueVa && !(taken.any fun r => rangesMeet (a, max 1 n) r)).foldl
    (fun b a => some (b.elim a (min a))) none

/-! ### The launch record (R343) -/

/-- The header breaks R343. -/
def recordBad (bs : List Byte) : Bool :=
  field bs 8 1 < 1 || field bs 8 1 > 8 || field bs 9 1 > 63 || field bs 10 1 > 191 || field bs 11 1 > 1 || !zeroAt bs 12 4 ||
  field bs 0x10 8 % 16 != 0 || !zeroAt bs 0x40 64 || !zeroAt bs (0x80 + 64 * field bs 8 1) (64 * (8 - field bs 8 1))

/-- Stage entry k, as the launch runs it. -/
def stageOf (bs : List Byte) (k : Nat) (st : Stage) : StageRun :=
  let o := 0x80 + 64 * k
  { st := st, teams := field bs o 4, phaseW := field bs (o + 4) 4, inq := field bs (o + 8) 8, outq := field bs (o + 16) 8,
    args := field bs (o + 24) 8, dies := field bs (o + 32) 2 }

/-- A stage queue (R284). -/
def queueOk (r : Region) : Bool := r.grade == 8 && r.bytes % 128 == 0 && 2 ≤ r.bytes / 128 && r.bytes / 128 ≤ 65536

/-- A stage entry's own fields break R343, whatever the stage. -/
def entryFieldsBad (bs : List Byte) (k : Nat) : Bool :=
  let g := stageOf bs k {}
  decide (g.teams > 65535) || g.args % 128 != 0 || !zeroAt bs (0x80 + 64 * k + 34) 30

/-- The stage entry breaks R343 beside its stage record. -/
def State.entryBad (s : State) (vdev : Nat) (g : StageRun) : Bool :=
  let q (has : Bool) (a : Nat) : Bool := if has then !((s.regionAt vdev a).elim false queueOk) else a != 0
  (!g.st.phased && g.phaseW != 0) || q g.st.hasIn g.inq || q g.st.hasOut g.outq

/-! ### Acceptance (R344, R345) -/

/-- The header and slots of a stage queue (R284). -/
def State.makeQueue (s : State) (r : Region) : State :=
  let n := r.bytes / 128 - 1
  let d := ownerOf r.pa
  let head : Write := { pa := r.pa, bytes := zeros 16 ++ natBytes 4 n ++ zeros 108 }
  let s1 := s.homeWrite d head
  (List.range n).foldl (fun (x : State) k =>
    let pa := r.pa + 128 * (k + 1)
    let y := if (x.metaOf pa).stg then x else x.modDie d fun q => q.countLive (x.partOfLine pa) 1 true
    y.setMeta pa { stg := true, cls := 1 }) s1

/-- Load a launch's classes, numbered from 4; the first failure ends it. -/
def loadClasses (part n : Nat) (ims : List (List (BitVec 16))) (s : State) : Except Nat State :=
  ims.zipIdx.foldl (fun (r : Except Nat State) im =>
    match r with
    | .error c => .error c
    | .ok x => if im.2 ≥ 60 || imageBad im.1 then .error Cause.illOperand else x.loadClass part n (4 + im.2) im.1) (.ok s)

/-- Some allowed core of the partition takes a team when the partition is empty (R344 reason 4). -/
def State.stageFits (s : State) (part : Nat) (g : StageRun) : Bool :=
  g.st.need.fits && (grantLarder [] [] g.st.need).isSome && g.st.attic ≤ 25165824 && (s.partClusters part).any fun k => dieAllowed g.dies (dieOfCluster k)

/-- Addresses of a launch's team spill regions, from the launch's base, with their sizes: 512 KiB for each sheaf (R84, R345). -/
def spillSpans (gs : List StageRun) : List Nat := gs.flatMap fun g => List.replicate g.teams (g.st.sheaves * 524288)

/-- A team's spill region: zeroed precise pages on free frames of the first of some dies that has room, mapped; no walk waits for
addresses that no one has held. -/
def State.mapSpill (s : State) (vdev va n : Nat) (dies : List Nat) : Option State :=
  (dies.findSome? fun d => s.takeSpan d n).map fun pa =>
    let s1 := s.zeroPage pa n
    { s1 with pages := s1.pages ++ (List.range (n / 65536)).map fun k => { vdev := vdev, va := va + 65536 * k, pa := pa + 65536 * k } }

/-- A launch's spill regions, one after another from `va`; none where the frames do not suffice. -/
def State.mapSpills (vdev : Nat) (dies : List Nat) : List Nat → Nat → State → Option State
  | [], _, s => some s
  | n :: r, va, s => (s.mapSpill vdev va n dies).bind (State.mapSpills vdev dies r (va + n))

/-- What a launch needs before it is accepted: its spill regions, from the base answered with their bytes in all, and its code
object's regions on their die. None where addresses, frames or granules do not suffice: the launch is refused with REASON 4 (DESIGN
CHOICE, log entry 36). -/
def State.makeRoom (s : State) (vdev code : Nat) (dies : List Nat) (gs : List StageRun) : Option (State × Nat × Nat) :=
  let spans := spillSpans gs
  let size := spans.foldl (fun k n => k + n) 0
  (s.freshVa size).bind fun va =>
    ((State.mapSpills vdev (dies ++ allDies.filter fun d => !dies.contains d) spans va s).bind fun s1 =>
      s1.bringRegions vdev code (dies.headD 0)).map fun s2 => (s2, va, size)

/-- What the teams' acquire covers (R345): the issuer's writes, and what the service has written for the launch at any die. -/
def State.acceptClock (s : State) (die n : Nat) : List Nat :=
  match s.launch? n with
  | none => (s.die die).clock
  | some l =>
    let inL (m : Mapping) : Bool := m.vdev == l.vdev && l.spill ≤ m.va && m.va < l.spill + (spillSpans l.stages).foldl (fun k n => k + n) 0
    let ds := (s.pages.filter inL).map (fun m => ownerOf m.pa) ++ allDies.filter fun d => (s.die d).regions.any fun r => r.launch == some n
    ds.dedup.foldl (fun c d => clockMax c (s.die d).clock) (s.die die).clock

def refused (reason cause : Nat) : Word := BitVec.ofNat 64 (2 ^ 63 + reason * 2 ^ 32 + cause)

/-- Judge a launch record that a die's issuer submits, and accept it: the state and d. -/
def State.tryLaunch (s : State) (die issuer : Nat) (holds : Nat → Bool) (bs : List Byte) : State × Word :=
  let vdev := field bs 9 1
  let part := field bs 10 1
  let n := s.service.nextLaunch
  let code := s.service.codes.find? fun o => o.addr == field bs 0 8 && o.vdev == vdev
  let sts := code.elim [] fun o => o.stages
  let gs := sts.zipIdx.map fun st => stageOf bs st.2 st.1
  let after := ((List.range 4).map fun k => field bs (0x20 + 8 * k) 8).filter fun a => a != 0
  let bad := recordBad bs || (code.isSome && sts.length != field bs 8 1) || (List.range (field bs 8 1)).any (entryFieldsBad bs) ||
    gs.any (s.entryBad vdev)
  let p := s.service.parts.find? fun x => x.part == part
  let dies := s.partDies part
  let outside := gs.any fun g => allDies.any fun d => g.dies.testBit d && !dies.contains d
  if bad then (s, refused 1 0)
  else
    match code with
    | none => (s, refused 2 0)
    | some o =>
      if !holds part || p.elim true (fun x => x.vdev != vdev) || outside || o.dies.any (fun d => !dies.contains d) then (s, refused 3 0)
      else if gs.any fun g => !s.stageFits part g then (s, refused 4 0)
      else
      match s.makeRoom vdev o.addr dies gs with
      | none => (s, refused 4 0)
      | some (s0, spill, size) =>
      if after.any fun a => decide (a ≥ n) then (s, refused 6 0)
      else
        let l : Launch := { n := n, vdev := vdev, part := part, debug := field bs 11 1 == 1, code := o.addr }
        let l1 := { l with
          compl := field bs 0x10 8
          signal := field bs 0x18 8
          after := after
          stages := gs
          phased := gs.any fun g => g.st.phased
          classes := (List.range o.classes.length).map fun k => k + 4
          issuer := issuer
          spill := spill }
        let home : GRegion := { vdev := vdev, va := spill, bytes := size, grade := 8, die := dies.headD 0, asked := false }
        let s1 := { s0 with
          service := { s0.service with nextLaunch := n + 1, regions := s0.service.regions ++ [home] },
          launches := s0.launches ++ [l1] }
        match loadClasses part n o.classes (s1.takeRegions n vdev o.addr) with
        | .error c => (s, refused 5 c)
        | .ok s2 =>
          let qs := ((gs.flatMap fun g => (if g.st.hasIn then [g.inq] else []) ++ (if g.st.hasOut then [g.outq] else [])).dedup)
          let s3 := (qs.filterMap fun a => s2.regionAt vdev a).foldl (fun (x : State) r => x.makeQueue r) s2
          (s3.modLaunch n fun x => { x with clock := s3.acceptClock die n }, BitVec.ofNat 64 n)

/-! ### LNCH (R344) -/

/-- Rows 2 to 4 and 7 of R153 on the record's 64-bit words. -/
def Iss.recordWords (i : Iss) (s : State) (a n : Nat) : List Access :=
  (List.range n).map fun k =>
    match s.access i.core i.tm.vdev (i.sh.strand (i.on.headD 0)).refused true false false 8 (a + 8 * k) with
    | .ok m pa => if s.poisonAt pa 8 then .fault Cause.uncorrectable else .ok m pa
    | x => x

def Iss.recordByte (i : Iss) (s : State) (xs : List Access) (k : Nat) : Byte :=
  match xs[k / 8]? with
  | some (.ok _ pa) => s.byteAt i.die (s.ownWrites i.tm i.j (maskOf i.on)) (pa + k % 8)
  | _ => 0

/-- The first access that does not pass. -/
def firstBad (xs : List Access) : Option (Nat × Access) :=
  match xs.findIdx? fun x => match x with | .ok _ _ => false | _ => true with
  | some k => xs[k]?.map fun x => (k, x)
  | none => none

def execLnch (c : Ctl) (o : OpS) (s : State) : Out :=
  onceInstr (some o.d) c s (fun _ => if !o.b.uni then some Cause.illOperand else none) fun i s1 =>
    let w := i.sh.u o.b.idx
    let a := w.bits.toNat
    if w.tag then i.batchRaise Cause.aAddr a s1
    else
      let xs := i.recordWords s1 a 80
      match firstBad xs with
      | some (k, .fault cause) => i.onTrap cause (a + 8 * k) s1
      | some (k, _) => i.onPark (a + 8 * k) s1
      | none =>
        let fits := a % 128 == 0 && xs.all fun x => match x with | .ok m _ => m.grade == 8 | _ => false
        let bs := (List.range 640).map (i.recordByte s1 xs)
        let s2 := s1.publishLanes i.die i.t i.j i.on
        let r := if fits then s2.tryLaunch i.die 0 (fun _ => true) bs else (s2, refused 1 0)
        i.finish (some (i.now o.d r.2)) [] r.1

/-! ### Running (R345) -/

/-- LAUNCH_RUN: every launch named in AFTER is complete. -/
def execLaunchRun (n : Nat) (s : State) : Out :=
  match s.launch? n with
  | none => .next s
  | some l =>
    if l.state == 0 && l.after.all fun a => (s.launch? a).elim true fun x => x.state == 2 then
      .next (s.modLaunch n fun x => { x with state := 1 })
    else .next s

/-! ### Ends of phases and of launches (R239, R305, R306, R346, R362) -/

/-- Contexts of a launch: die and number. -/
def State.ctxsOf (s : State) (n : Nat) : List (Nat × Nat) :=
  allDies.flatMap fun d => ((s.die d).ctxs.filter fun (e : Nat × Ctx) => e.2.launch == n).map fun e => (d, e.1)

/-- No accepted contribution of the launch's contexts is still to be taken in. -/
def State.inputsDone (s : State) (n : Nat) : Bool :=
  (s.ctxsOf n).all fun x => !((s.die x.1).input.any fun q => hCtx q.handle == x.2)

/-- A phase's end times out what is not ready of its gated slots. -/
def State.phaseTimeOut (s : State) (n phase : Nat) : State :=
  (s.ctxsOf n).foldl (fun (x : State) e => x.modCtx e.1 e.2 fun c =>
    (c.slots.filter fun (y : Nat × CSlot) => y.2.gate.elim false fun g => g.phase == phase).foldl
      (fun (z : Ctx) y => z.timeOut y.1) c) s

/-- What is ready of a launch's contexts is released, those made ready by the end of a phase too. -/
def State.releaseAll (s : State) (n : Nat) : State :=
  (s.ctxsOf n).foldl (fun (x : State) e =>
    (x.modCtx e.1 e.2 Ctx.markDue).releaseReady e.1 e.2 ((x.ctx? e.1 e.2).elim 0 fun c => c.slots.length)) s

/-- Every write so far of every die is performed and stamped. -/
def State.stampAll (s : State) (p : Write → Bool) : State :=
  allDies.foldl (fun (x : State) d => x.stampFirst d (x.die d).unstamped.length) (s.flush p)

/-- Every die applies every stamped write. -/
def State.applyAll (s : State) : State :=
  let c := s.allClocks
  allDies.foldl (fun (x : State) d => x.applyUpTo d c) s

/-- Stores of a launch's strands. -/
def ofLaunch (n : Nat) (w : Write) : Bool := w.sheaf / 2 ^ 24 == n && w.lanes != 0

/-- Ended teams of a stage below a bound. -/
def StageRun.endedBelow (g : StageRun) (k : Nat) : Nat := (g.ended.filter fun x => x < k).length

/-- Every team that may have started has ended, and none is left; what their lanes have asked of homes that writes is performed. -/
def State.launchIdle (s : State) (l : Launch) : Bool :=
  (l.stages.all fun g => decide (g.endedBelow (l.teamLimit g) ≥ l.teamLimit g)) &&
  !(s.teams.any fun (e : Nat × Team) => e.2.launch == l.n) && !(s.saved.any fun v => v.team.launch == l.n) && s.inputsDone l.n &&
  !(s.outstanding.any fun r => (r.kind == .atomic || r.kind == .store) && r.launch == l.n)

/-- PHASE_ADVANCE: the flush of the phase's end, and the next phase's teams may be placed; each begins with an acquire of
what the phase wrote. -/
def execPhaseAdvance (n : Nat) (s : State) : Out :=
  match s.launch? n with
  | none => .next s
  | some l =>
    if l.phased && l.state == 1 && s.launchIdle l && (l.stages.any fun g => l.teamLimit g < g.teams) then
      let s1 := ((s.stampAll (ofLaunch n)).flushLaunch n).phaseTimeOut n l.phase
      let s2 := (s1.releaseAll n).stampAll (ofLaunch n)
      .next (s2.modLaunch n fun x => { x with phase := x.phase + 1, clock := s2.allClocks })
    else .next s

/-- The service's physical place of a byte of a device, mapping a page of an allocated region on demand. -/
def State.servicePa (s : State) (vdev va : Nat) : State × Option (Nat × Bool) :=
  match s.pageOf vdev va with
  | some m => (s, if isFabric (m.paOf va) then none else some (m.paOf va, m.grade == 8))
  | none =>
    match s.service.regions.find? fun g => g.asked && g.vdev == vdev && g.va ≤ va && va < g.va + g.bytes with
    | none => (s, none)
    | some g =>
      match s.takeFrame g.die with
      | none => (s, none)
      | some pa =>
        let m : Mapping := { vdev := vdev, va := va / 65536 * 65536, pa := pa, grade := g.grade }
        ((s.zeroPage m.pa 65536).install m, some (m.paOf va, m.grade == 8))

/-- The completion record (R343). -/
def Launch.record (l : Launch) : List Byte := natBytes 4 l.done ++ natBytes 4 l.killed ++ natBytes 2 l.cause ++ zeros 6

/-- The service writes bytes of a device's memory. They are performed and stamped at the page's owning die, so that they come after
the page's zeroing in every byte's coherence order (R340, R390). Where the page is not mapped and no frame is free for it, or it leads
to another package, the bytes are dropped and what asked for them goes on, a LOAD or ALLOC with status 0: the spec does not say what
becomes of a .data image then (DESIGN CHOICE, log entries 17 and 36). -/
def State.serviceWrite (s : State) (vdev va : Nat) (bs : List Byte) : State :=
  match s.servicePa vdev va with
  | (s1, none) => s1
  | (s1, some p) => s1.homeWrite (ownerOf p.1) { pa := p.1, bytes := bs, width := if p.2 then 0 else 32 }

/-- The clock of the die that owns a byte of a device. -/
def State.ownerClock (s : State) (vdev va : Nat) : List Nat :=
  (s.pageOf vdev va).elim [] fun m => if isFabric (m.paOf va) then [] else (s.die (ownerOf (m.paOf va))).clock

/-- SIGNAL: transition 0 on the object, the record into its bytes 0 to 15. Its release side covers what the service has written, the
completion record at the die that owns it with it. -/
def State.signal (s : State) (vdev va : Nat) (clock : List Nat) (bs : List Byte) : State :=
  if va == 0 then s
  else
    match s.pageOf vdev va with
    | none => s
    | some m =>
      let pa := lineOf (m.paOf va)
      let r : Req := { kind := .store, pa := pa, va := va, ty := .n64, trans := 0, e := BitVec.ofNat 64 (field bs 0 8) }
      let s1 := s.applyUpTo (ownerOf pa) (clockMax (s.die 0).clock clock)
      match s1.judge r with
      | .done e =>
        if s1.lineBad pa then s1
        else ((s1.homeWrite (ownerOf pa) { pa := pa + 8, bytes := (bs.drop 8).take 8 }).performStaged r e).walk pa
      | _ => s1

/-- LAUNCH_COMPLETE, in R346's order. -/
def execLaunchComplete (n : Nat) (s : State) : Out :=
  match s.launch? n with
  | none => .next s
  | some l =>
    if l.state == 1 && s.launchIdle l && l.stages.all fun g => decide (l.teamLimit g ≥ g.teams) then
      let s1 := (s.stampAll (ofLaunch n)).flushLaunch n
      let s2 := (if l.phased then s1.phaseTimeOut n l.phase else s1).releaseAll n
      let rs := (allDies.flatMap fun d => (s2.die d).regions).filter fun r => r.launch == some n
      let s3 := (rs.filter fun r => r.ctx.isSome).foldl (fun (x : State) r => x.freeRegion r)
        (rs.foldl (fun (x : State) r => x.retireRegion r) (s2.endContexts n))
      let s4 := (s3.stampAll (ofLaunch n)).applyAll
      let l1 := (s4.launch? n).getD l
      let sw := s4.serviceWrite l.vdev l.compl l1.record
      let s5 := sw.signal l.vdev l.signal (sw.ownerClock l.vdev l.compl) l1.record
      let size := l.stages.foldl (fun k g => k + g.teams * g.st.sheaves * 524288) 0
      let s6 := (s5.modLaunch n fun x => { x with state := 2 }).unmapRange l.vdev l.spill size
      let s7 := { s6 with
        service := { s6.service with regions := s6.service.regions.filter fun g => !(g.vdev == l.vdev && g.va == l.spill) },
        cores := s6.cores.map fun (e : Nat × Core) => (e.1, { e.2 with attic := e.2.attic.filter fun a => a.1 != n }) }
      .next (s7.unloadClasses l.part)
    else .next s

end Sys2Proof.Machine
end

