-- ==== Sys2Proof/Machine/Preempt.lean ====
section
/-! DEFINITION. Pre-emption (R349, R351 to R353, R246, R357, R359, R361): the decision, what stands in the way of a capture,
the live state that a context keeps, and the capture. -/

namespace Sys2Proof.Machine

/-! ### The decision -/

/-- Teams of the formed chains of the given teams. -/
def State.matesStep (s : State) (ts : List Nat) : List Nat :=
  (ts ++ s.clusters.flatMap fun (e : Nat × Cluster) =>
    (e.2.chains.filter fun g => g.formed && g.members.any fun m => ts.contains m.2.1).flatMap fun g =>
      g.members.map fun m => m.2.1).dedup

/-- A team and those bound to it by formed chains: they are pre-empted together (R246). -/
def State.mates (s : State) (t : Nat) : List Nat := (List.range 8).foldl (fun ts _ => s.matesStep ts) [t]

/-- A CHAIN that waits to form is withdrawn: its entry leaves, and the lanes stand at it (R246). -/
def State.withdrawChain (s : State) (t j : Nat) : State :=
  match s.team? t with
  | none => s
  | some tm =>
    if (tm.sheaf j).hold != .chain then s
    else
      match tm.matrix.queue.find? fun e => e.op == .chain && e.sheaf == j && !e.formed with
      | none => s
      | some e =>
        let drop (g : ChainGroup) : ChainGroup := { g with members := g.members.filter fun m => !(m.2.1 == t && m.2.2 == e.id) }
        let s1 := s.modCluster (clusterOfCore tm.core) fun c =>
          { c with chains := (c.chains.map fun g => if g.formed then g else drop g).filter fun g => !g.members.isEmpty }
        ((s1.modMatrix t fun m => { m with queue := m.queue.filter fun q => q.id != e.id }).modTeam t Team.reissue).modSheaf t j fun sh =>
          { sh with hold := .none, pend := sh.pend.filter fun p => p.seq != e.seq, safeAt := BitVec.allOnes 32 }

def State.withdrawChains (s : State) (t : Nat) : State :=
  match s.team? t with
  | none => s
  | some tm => tm.sheafIdx.foldl (fun (x : State) j => x.withdrawChain t j) s

/-- The decision on a team that none holds yet: what parks from now on is seen, and begun entries run past the row they are on. -/
def Team.chosenFor (tm : Team) (p : Preempt) : Team :=
  if tm.preempt != .none then tm
  else
    let mark (e : SeqEntry) : SeqEntry := if e.started then { e with base := e.step } else e
    { tm with
      sheaves := tm.sheaves.map fun sh => { sh with heldAt := 0 },
      matrix := { tm.matrix with queue := tm.matrix.queue.map mark },
      preempt := p }

/-- Decide the pre-emption of a team and of its chains' members, which go with it whatever it is for; a member that waits to form is
withdrawn at the decision (R246). -/
def State.choosePreempt (s : State) (t why record : Nat) (sheaf : Nat × Nat × Nat) : State :=
  (s.mates t).foldl (fun (x : State) m =>
    let p : Preempt := if m == t then .decided s.time why record sheaf else .decided s.time (if why == 2 then 2 else 0) 0 (0, 0, 0)
    ((x.modTeam m fun tm => tm.chosenFor p).withdrawChains m).markSafe m) s

def outState (o : Out) (s : State) : State :=
  match o with
  | .next x => x
  | _ => s

/-! ### Withdrawals (R352) -/

/-- A parked lane in the capture cycle (R352): where its release condition holds by now it is recorded as satisfied, active at PC + 8
with its result; else a staged request, a CSLOT.p, a growth and a CPUT are withdrawn, and the lane stands at its instruction. -/
def State.withdrawLane (s : State) (t j l : Nat) : State :=
  match s.team? t with
  | none => s
  | some tm =>
    let st := (tm.sheaf j).strand l
    if !isParked st.run then s
    else
      match st.park with
      | .request _ => s.withdraw t j l
      | .slot x =>
        let s1 := s.grantSlots tm.die x
        (match s1.team? t with
         | some y => if ((y.sheaf j).strand l).park == .slot x then s1.withdrawCslot t j l x else s1
         | none => s1)
      | .growth =>
        let s1 := s.serveBorrow tm.core
        (match s1.team? t with
         | some y =>
           if ((y.sheaf j).strand l).park == .growth then
             ((s1.modCore tm.core fun c => { c with borrow := c.borrow.filter fun b => !(b.1 == t && b.2.1 == j) }).modSheaf t j
               fun sh => allLanes.foldl (fun (h : Sheaf) k => h.unpark k) sh).serveBorrow tm.core
           else s1
         | none => s1)
      | .pool iss _ => if (tm.sheaf j).putReady iss then s.finishCput t j iss else s.withdrawCput t j iss
      | _ => s

/-- So for every lane of a team, with its CHAINs that wait to form (R246, R352). -/
def State.withdrawAll (s : State) (t : Nat) : State :=
  match s.team? t with
  | none => s
  | some tm => tm.sheafIdx.foldl (fun (x : State) j => allLanes.foldl (fun (y : State) l => y.withdrawLane t j l) x)
      (s.withdrawChains t)

/-! ### The capture cycle (R351, R194, R221) -/

/-- A lane that keeps its run state, stands at its safe point, or is saved at its instruction. -/
def Sheaf.laneStands (sh : Sheaf) (l : Nat) : Bool :=
  let st := sh.strand l
  st.run == .vacant || isWaiting st.run || (isParked st.run && (match st.park with
    | .barrier _ | .job _ _ | .page _ _ => true
    | _ => false)) || sh.safeAt.getLsbD l

/-- Every lane stands and nothing is outstanding but sequencer work. A sheaf held for a breakpoint stands (R396). -/
def Team.sheafStands (tm : Team) (j : Nat) : Bool :=
  let sh := tm.sheaf j
  (sh.pend.all fun p => tm.matrix.queue.any fun e => e.sheaf == j && e.seq == p.seq) && sh.traps.isEmpty &&
  (sh.hold == .debug || (sh.hold == .none && allLanes.all sh.laneStands))

/-- Running jobs have stopped at a multiple of 4,096 or at their end (R221). Begun entries have run past the step at which the
decision found them, to an interruption point, and those without rows have finished (R194). -/
def Team.enginesStand (tm : Team) : Bool :=
  tm.jobWait.isEmpty && (tm.jobs.all fun j => j.state != 1 || j.stops) &&
  (tm.matrix.queue.all fun e => !e.started || tm.entryHeld e) && (tm.guarded.isNone || tm.mayCommit)

def Team.stands (tm : Team) : Bool := tm.enginesStand && tm.sheafIdx.all tm.sheafStands

/-- The sheaf stands, or its lanes are parked where the capture withdraws them: so the capture cycle has come, and what its
withdrawals and records make of the lanes happens in it (R351, R352). -/
def Team.sheafMayStand (tm : Team) (j : Nat) : Bool :=
  let sh := tm.sheaf j
  (sh.pend.all fun p => tm.matrix.queue.any fun e => e.sheaf == j && e.seq == p.seq) && sh.traps.isEmpty &&
  (sh.hold == .debug || sh.hold == .chain ||
    (sh.hold == .none && allLanes.all fun l => sh.laneStands l || isParked (sh.strand l).run))

def Team.mayStand (tm : Team) : Bool := tm.enginesStand && tm.sheafIdx.all tm.sheafMayStand

/-! ### Windows (R87) -/

/-- Spill what a lane still holds below BASE, by R85's procedure: an entry above 1,983 is spill-overflow, and a range that is
not empty counts as a window-spill. A miss starts a walk, and a refusal names the lane. -/
def State.spillLane (s : State) (t j l : Nat) : State :=
  match s.team? t with
  | none => s
  | some tm =>
    let st := (tm.sheaf j).strand l
    if st.run == .vacant || st.floor ≥ st.base then s
    else if st.base - 1 > 1983 then s.modSheaf t j fun sh => sh.raise sh.iss 0 [(l, Cause.spillOverflow, 0)]
    else
      let es := span st.floor st.base
      let r := s.spill st.refused t j l es
      match (r.1.shadowToo t j fun x => (x.spill none t j l es).1, r.2) with
      | (s1, .ok) => s1.modSheaf t j fun sh =>
          { (sh.modStrand l fun x => { x with floor := x.base, refused := none }) with spills := sh.spills + 1 }
      | (s1, .park va) => s1.modDie tm.die fun d =>
          if d.walks.any fun w => w.vdev == tm.vdev && w.page == pageKey va then d
          else { d with walks := d.walks ++ [{ vdev := tm.vdev, page := pageKey va }] }
      | (s1, .fault c va) => s1.modSheaf t j fun sh => sh.raise sh.iss 0 [(l, c, va)]

def State.spillAll (s : State) (t : Nat) : State :=
  match s.team? t with
  | none => s
  | some tm => tm.sheafIdx.foldl (fun (x : State) j => allLanes.foldl (fun (y : State) l => y.spillLane t j l) x) s

def Team.spilled (tm : Team) : Bool :=
  tm.sheaves.all fun sh => allLanes.all fun l => (sh.strand l).run == .vacant || (sh.strand l).floor ≥ (sh.strand l).base

/-! ### Live state (R74, R76, R336, R355) -/

structure Live where
  v : BitVec 128 := 0
  s : Word := 0
  z : BitVec 16 := 0
  m : BitVec 12 := 0
deriving DecidableEq, Repr

def Live.all : Live where
  v := BitVec.allOnes 128
  s := BitVec.allOnes 64
  z := BitVec.allOnes 16
  m := BitVec.allOnes 12

def Live.or (a b : Live) : Live where
  v := a.v ||| b.v
  s := a.s ||| b.s
  z := a.z ||| b.z
  m := a.m ||| b.m

/-- The live sets of a lane: its address's entry; every bit for a lane on a page or without an entry. -/
def State.liveOfLane (s : State) (tm : Team) (st : Strand) : Live :=
  if st.run == .vacant then ({} : Live)
  else if st.run == .parked 5 then Live.all
  else
    match s.codeOf tm with
    | none => Live.all
    | some o =>
      match o.safe.find? fun e => tm.code + e.offset == st.pc.toNat with
      | none => Live.all
      | some e => { v := e.vlive, s := e.slive, z := e.zlive, m := e.mlive }

def State.liveOfSheaf (s : State) (tm : Team) (sh : Sheaf) : Live :=
  allLanes.foldl (fun (a : Live) l => a.or (s.liveOfLane tm (sh.strand l))) {}

/-- What the context keeps of a sheaf: its live registers, and its strands. A lane at BAR, BARX, CWAIT or EWAIT, or waiting at WAITM,
keeps its run state with its mark (barrier mask, ticket and count, mask); a lane on a page is saved at its instruction (R336, R352). -/
def Sheaf.context (sh : Sheaf) (a : Live) : Sheaf :=
  let keepV (k : Nat) : Bool :=
    let l := k / 2048
    let off := (k % 2048 + sh.allot - (sh.strand l).base % sh.allot) % sh.allot
    (sh.strand l).run != .vacant && off < sh.w && a.v.getLsbD off
  { sh with
    vreg := sh.vreg.filter fun e => keepV e.1,
    ureg := sh.ureg.filter fun e => a.s.getLsbD e.1,
    masks := sh.masks.filter fun e => a.m.getLsbD e.1,
    strands := sh.strands.map fun st => if st.run == .parked 5 then { st with run := .active, park := .nothing } else st,
    pend := [],
    poison := [],
    marked := false,
    nextAt := 0,
    cleared := false,
    lastV := 0,
    lastM := 0,
    readyV := 0,
    readyM := 0,
    safeAt := 0,
    heldAt := 0 }

/-- What the context keeps of a team: the bins of ZLIVE, and the sequencer record; a chain re-forms (R194, R246). R355's entry of a job
has no place for the row of a CPOS stopped within it, so its index is read from the larder again after the restore (DEDUCED, log entry
23). -/
def Team.context (tm : Team) (ls : List Live) (now : Nat) : Team :=
  let z := ls.foldl (fun (a : BitVec 16) x => a ||| x.z) 0
  let m := tm.matrix
  let queue := m.queue.map fun (e : SeqEntry) => { e with started := false, formed := false, base := e.step }
  let job (j : Job) : Job := { j with stalled := none, row := none }
  let bins := m.bins.filter fun (e : Nat × Nat × Nat) => z.getLsbD (e.1 / 4096)
  { tm with
    sheaves := List.zipWith Sheaf.context tm.sheaves ls,
    matrix := { m with bins := bins, shadow := if tm.st.mode == 2 then bins else [], queue := queue, bad := none },
    jobs := tm.jobs.map job,
    larderBad := [],
    levelWait := [],
    gradeWait := [],
    guarded := tm.guarded.map (fun _ => ({} : Guarded)),
    preempt := .none,
    resident := tm.resident + (now - tm.since) }

/-! ### Leaving the core -/

/-- The attic region goes with the stage's last team on the core (R355). -/
def State.takenAttic (s : State) (tm : Team) : Option (SMap Byte) :=
  if (s.teamsOn tm.core).any fun x => x.key != tm.key && x.launch == tm.launch && x.stage == tm.stage then none
  else ((s.core tm.core).attic.find? fun a => a.1 == tm.launch && a.2.1 == tm.stage).map fun a => a.2.2

/-- A team leaves its core as a saved team. -/
def State.saveTeam (s : State) (tm : Team) (saved : Team) (bySavectx : Bool) (record size : Nat) : State :=
  let at_ := s.takenAttic tm
  let s1 := s.publish tm.die (ofTeam tm.key)
  let v : Saved := { team := saved, bySavectx := bySavectx, record := record, size := size, at_ := s.time, clock := (s1.die tm.die).clock,
                     attic := at_ }
  let quit (w : Walk) : Walk := { w with lanes := w.lanes.filter (fun x => x.1 != tm.key), jobs := w.jobs.filter fun x => x.1 != tm.key }
  let s2 := { s1 with
    teams := s1.teams.del tm.key,
    saved := s1.saved ++ [v],
    dies := s1.dies.map fun (e : Nat × Die) => (e.1, { e.2 with walks := e.2.walks.map quit }) }
  let s3 := s2.modCore tm.core fun c => { c with
    attic := if at_.isSome then c.attic.filter (fun a => !(a.1 == tm.launch && a.2.1 == tm.stage)) else c.attic,
    borrow := c.borrow.filter (fun b => b.1 != tm.key) }
  ((s3.modCluster (clusterOfCore tm.core) fun c => { c with
    chains := c.chains.filter fun g => !(g.members.any fun m => m.2.1 == tm.key) }).retarget (clusterOfCore tm.core)).serveBorrow
    tm.core

/-! ### Forced commits (R178) -/

/-- A sheaf of a team that needs a forced commit stands: the asking sheaf at its instruction, with nothing outstanding and no lane
parked on a request that is to be withdrawn; the others at safe points. -/
def Team.commitStands (tm : Team) (j : Nat) : Bool :=
  let sh := tm.sheaf j
  if sh.hold == .commit then
    sh.quiet && sh.traps.isEmpty && allLanes.all fun l => !isParked (sh.strand l).run || sh.laneStands l
  else sh.quiet && tm.sheafStands j

/-- The same before the parked requests are withdrawn. -/
def Team.commitMayStand (tm : Team) (j : Nat) : Bool :=
  let sh := tm.sheaf j
  if sh.hold == .commit then sh.quiet && sh.traps.isEmpty else (sh.quiet || sh.hold == .chain) && tm.sheafMayStand j

/-- FORCED_COMMIT: the team's parked requests are withdrawn and its lanes run to safe points as at pre-emption; when every sheaf
stands and every shadow has issued what its leader has, the team commits, and what was held goes on when all of its share has been
performed (R176, R178 to R182). -/
def execForcedCommit (t : Nat) (s : State) : Out :=
  match s.team? t with
  | none => .next s
  | some tm =>
    if !tm.commitAsked then .next s
    else
      let s0 := s.markSafe t
      let s1 := if (s0.team? t).elim false fun x => x.mayCommit && x.sheafIdx.all x.commitMayStand then s0.withdrawAll t else s0
      match s1.team? t with
      | none => .next s1
      | some x =>
        if x.mayCommit && x.sheafIdx.all x.commitStands then
          let go (sh : Sheaf) : Sheaf := if sh.hold == .commit then { sh with hold := .none, cleared := true } else sh
          .next (s1.commitThen t fun y => { y with sheaves := y.sheaves.map go })
        else .next s1

end Sys2Proof.Machine
end

