-- ==== Sys2Proof/Machine/Context.lean ====
section
/-! DEFINITION. Context records (R354, R355): their bytes and what is read back; the capture (R351), SAVECTX and RESTCTX (R356
to R358), withdrawn decisions and resize kills (R351, R361). Sublayouts that the spec does not give are the model's own (log
entry 19). -/

namespace Sys2Proof.Machine

def pad128 (bs : List Byte) : List Byte := bs ++ zeros ((128 - bs.length % 128) % 128)

/-! ### Sections as bytes (R355) -/

/-- Window registers that a live set names, ascending. -/
def liveKs (w : Nat) (v : BitVec 128) : List Nat := (List.range w).filter fun k => v.getLsbD k

def laneRecord (st : Strand) : List Byte :=
  natBytes 8 st.pc.toNat ++ natBytes 8 st.item.toNat ++ natBytes 4 st.seqIdx.toNat ++ natBytes 4 st.pw.toNat ++
  natBytes 2 st.base ++ natBytes 2 st.floor ++ natBytes 1 st.depth ++ natBytes 1 st.hdepth ++ natBytes 1 st.run.code ++
  natBytes 1 st.flags.toNat

def tagBits (f : Nat → Bool) (n : Nat) : Nat := (List.range n).foldl (fun x k => x + (if f k then 2 ^ k else 0)) 0

def Sheaf.section (sh : Sheaf) (a : Live) : List Byte :=
  pad128 (((List.range 12).flatMap fun k => natBytes 4 (sh.mask k).toNat) ++ natBytes 4 sh.hmask.toNat ++ natBytes 2 sh.allot ++
    natBytes 1 sh.role ++ natBytes 1 (bit sh.tmode) ++ natBytes 16 a.v.toNat ++ natBytes 8 a.s.toNat ++
    natBytes 8 (tagBits (fun k => (sh.u k).tag) 64) ++ zeros 40 ++
    ((List.range 64).flatMap fun k => natBytes 8 (sh.u k).bits.toNat) ++
    (allLanes.flatMap fun l => laneRecord (sh.strand l)) ++
    (allLanes.flatMap fun l => natBytes 16 (tagBits (fun k => (sh.v l k).tag) sh.w)) ++
    (sh.used.flatMap fun l => (liveKs sh.w a.v).flatMap fun k => natBytes 8 (sh.v l k).bits.toNat))

def Latch.bytes (w : Latch) : List Byte :=
  natBytes 1 w.fmt ++ natBytes 1 (bit w.tag) ++ natBytes 1 w.kind ++ zeros 125 ++ (List.range 16384).map fun k => w.tile.val k 0

def SeqOp.no : SeqOp → Nat
  | .wld => 0 | .wswp => 1 | .mma => 2 | .zclr => 3 | .zrd => 4 | .zwr => 5 | .rdc => 6 | .scan => 7 | .chain => 8

def SeqEntry.bytes (e : SeqEntry) : List Byte :=
  pad128 (natBytes 1 e.op.no ++ natBytes 1 e.sheaf ++ natBytes 1 e.z ++ natBytes 1 e.latch ++ natBytes 1 (latchFmt e.ty) ++
    natBytes 1 e.x ++ natBytes 1 (bit e.apx + 2 * bit e.gtag) ++ natBytes 1 e.grade ++ natBytes 8 e.step ++ natBytes 8 e.addr ++
    natBytes 8 e.desc.toNat)

def Matrix.section (m : Matrix) (z : BitVec 16) : List Byte :=
  m.latch0.bytes ++ m.latch1.bytes ++ pad128 (natBytes 2 m.binTag.toNat ++ natBytes 2 z.toNat) ++
  (((List.range 16).filter fun k => z.getLsbD k).flatMap fun k =>
    (List.range 4096).flatMap fun q => let p := m.pair k (q / 64) (q % 64); natBytes 4 p.1 ++ natBytes 4 p.2) ++
  m.queue.flatMap SeqEntry.bytes ++ zeros (128 * (4 - m.queue.length))

def Job.bytes (j : Job) : List Byte :=
  natBytes 8 j.ticket.toNat ++ natBytes 8 j.status.toNat ++ natBytes 8 j.d0.toNat ++ natBytes 8 j.d1.toNat ++
  natBytes 8 j.d2.toNat ++ natBytes 8 j.d3.toNat ++ natBytes 8 j.bitPos ++ natBytes 8 j.soVa

/-- The last 64 jobs. -/
def Team.lastJobs (tm : Team) : List Job := tm.jobs.drop (tm.jobs.length - 64)

def Team.engineSection (tm : Team) : List Byte :=
  (tm.lastJobs.flatMap Job.bytes) ++ zeros (64 * (64 - tm.lastJobs.length)) ++
  (List.range 4).flatMap fun k => (List.range 256).map fun q => BitVec.ofNat 8 ((tm.decoder.val k []).getD q 0)

/-- The chain fields of R242 that a team's chain entry holds. -/
def Team.chainFields (tm : Team) : Nat :=
  match tm.matrix.queue.find? fun e => e.op == .chain with
  | some e => e.desc.toNat / 2 ^ 32
  | none => 0

def Team.teamSection (tm : Team) : List Byte :=
  pad128 (natBytes 8 (if tm.st.phased then tm.itemNext else 0) ++ natBytes 8 (if tm.st.phased then tm.itemEnd else 0) ++
    natBytes 8 tm.chainFields)

/-- The sections present, in ascending code: code and bytes. -/
def Team.sections (tm : Team) (ls : List Live) (attic : Option (SMap Byte)) : List (Nat × List Byte) :=
  let z := ls.foldl (fun (a : BitVec 16) x => a ||| x.z) 0
  let sheaves := (tm.sheaves.zip ls).flatMap fun x => if x.1.finished then [] else x.1.section x.2
  [(1, tm.teamSection)] ++ (if sheaves.isEmpty then [] else [(2, sheaves)]) ++
  (if tm.st.bins == 0 then [] else [(3, tm.matrix.section z)]) ++ [(4, tm.engineSection)] ++
  [(5, (List.range tm.larderSize).map tm.larderByte)] ++
  (match attic with
   | some m => [(6, (List.range tm.st.attic).map fun k => m.val k 0)]
   | none => [])

/-! ### The header (R354) -/

def partEntries (base : Nat) (ss : List (Nat × List Byte)) : List (Nat × Nat × Nat) :=
  (ss.foldl (fun (x : Nat × List (Nat × Nat × Nat)) y => (x.1 + y.2.length, x.2 ++ [(y.1, y.2.length, base + x.1)])) (256, [])).2

def partBytes (ps : List (Nat × Nat × Nat)) : List Byte :=
  (ps.flatMap fun p => natBytes 4 p.1 ++ natBytes 4 p.2.1 ++ natBytes 8 p.2.2) ++ zeros (16 * (12 - ps.length))

def finMask (tm : Team) : Nat := tagBits (fun j => (tm.sheaf j).finished) tm.sheaves.length

/-- Microseconds resident, saturating. -/
def resMicros (n : Nat) : Nat := min (n / 2000) (2 ^ 32 - 1)

def Team.header (tm : Team) (phase now size : Nat) (attic : Bool) (ps : List (Nat × Nat × Nat)) : List Byte :=
  [0x53, 0x41, 0x56, 0x45] ++ natBytes 2 0x0100 ++ natBytes 2 1 ++ natBytes 4 tm.launch ++ natBytes 1 tm.stage ++
  natBytes 1 tm.sheaves.length ++ natBytes 1 tm.level ++ natBytes 1 tm.grade ++ natBytes 4 tm.lid ++ natBytes 4 phase ++
  natBytes 2 (finMask tm) ++
  natBytes 2 (bit (tm.chainFields != 0) + 2 * bit (tm.st.bins != 0) + 4 * bit attic) ++ natBytes 4 (resMicros tm.resident) ++
  natBytes 8 size ++ natBytes 8 now ++ zeros 16 ++ partBytes ps

/-- The bound of R357: every sheaf unfinished, of the largest allotment, with everything live. -/
def Team.recordBound (tm : Team) : Nat :=
  let w := min 128 (tm.st.roles.foldl (fun n r => max n r.regs) 8)
  let pad (n : Nat) : Nat := (n + 127) / 128 * 128
  256 + 128 + tm.st.sheaves * pad (2176 + 256 * w) + (if tm.st.bins == 0 then 0 else 2 * 16512 + 128 + 32768 * tm.st.bins + 512)
  + 5120 + tm.larderSize + tm.st.attic

/-! ### The capture -/

/-- The rest of a save that is redirected lies in the partner stack's own blocks, one behind the other: R308 puts every second block
of 4 KiB of a die's addresses in one stack, so a piece that begins in a reserve area goes on in its stack (DEDUCED, log entry 30). -/
def recordPa (pa k : Nat) : Nat :=
  let base := pa / 2 ^ 40 * 2 ^ 40 + Config.reserveBase
  if pa < base || base + 2 ^ 31 ≤ pa then pa + k
  else
    let o := pa - base
    let n := o / 8192 * 4096 + o % 4096 + k
    base + (n / 4096 * 2 + o / 4096 % 2) * 4096 + n % 4096

/-- The blocks of 4 KiB that `n` bytes take from physical address `pa`. -/
def physBlocks (pa n : Nat) : List (Option Nat × Nat) :=
  (List.range ((n + 4095) / 4096)).map fun k => (some (recordPa pa (4096 * k)), min 4096 (n - 4096 * k))

/-- The same of a device's virtual addresses: block by block, on the pages of its regions. -/
def State.deviceBlocks (vdev : Nat) : Nat → Nat → State → State × List (Option Nat × Nat)
  | _, 0, s => (s, [])
  | va, k + 1, s =>
    let p := s.servicePa vdev va
    let r := State.deviceBlocks vdev (va / 4096 * 4096 + 4096) k p.1
    (r.1, (p.2.map fun x => x.1, 4096 - va % 4096) :: r.2)

/-- The first `n` bytes of some blocks, and the rest. -/
def splitBlocks : Nat → List (Option Nat × Nat) → List (Option Nat × Nat) × List (Option Nat × Nat)
  | _, [] => ([], [])
  | n, b :: r =>
    if n ≥ b.2 then let x := splitBlocks (n - b.2) r; (b :: x.1, x.2)
    else if n == 0 then ([], b :: r)
    else ([(b.1, n)], (b.1.map fun p => p + n, b.2 - n) :: r)

/-- Write bytes to blocks of memory; what no page holds is not written. -/
def State.writeBlocks : List (Option Nat × Nat) → List Byte → State → State
  | [], _, s => s
  | b :: r, bs, s =>
    State.writeBlocks r (bs.drop b.2)
      (b.1.elim s fun p => s.homeWrite (ownerOf p) { pa := p, bytes := bs.take b.2 })

/-- Blocks as pieces: address and length; one that another continues is one piece with it. -/
def piecesOf : List (Option Nat × Nat) → List (Nat × Nat)
  | [] => []
  | b :: r =>
    let p := b.1.getD 0
    match piecesOf r with
    | [] => [(p, b.2)]
    | q :: w => if q.1 == recordPa p b.2 then (p, b.2 + q.2) :: w else (p, b.2) :: q :: w

/-- The stack of a physical address: die and side (R308). -/
def stackSide (pa : Nat) : Nat := pa / 4096 % 2

def Die.modStack (d : Die) (side : Nat) (f : Stack → Stack) : Die :=
  if side == 0 then { d with stackA := f d.stackA } else { d with stackB := f d.stackB }

def Die.stack (d : Die) (side : Nat) : Stack := if side == 0 then d.stackA else d.stackB

/-- A migrated team goes to the coolest core that accepts it, with its chains' other teams on that core's cluster; where none does,
PLACEMENT restores it (R246, R359). -/
def State.migrate (s : State) (t but : Nat) : State :=
  match s.saved.find? fun v => v.team.key == t with
  | none => s
  | some v =>
    match (s.launch? v.team.launch).bind fun l => (l.stages[v.team.stage]?).map fun g => (l, g) with
    | none => s
    | some (l, g) =>
      ((((s.accepting l v.team.stage g v.team.need).filter fun c => c != but && s.takesSaved v c && (s.restoreWith v c).isSome).foldl
        (fun (b : Option Nat) c => match b with
          | none => some c
          | some x => if (s.core c).sensor < (s.core x).sensor then some c else b) none).bind fun c => s.restoreWith v c).getD s

/-- Bytes of a record of some sections. -/
def recordSizeOf (ss : List (Nat × List Byte)) : Nat := 256 + ss.foldl (fun n x => n + x.2.length) 0

/-- PARTS of a record whose sections follow the header in some blocks: code, length and address of each piece. -/
def sectionParts : List (Nat × Nat) → List (Option Nat × Nat) → List (Nat × Nat × Nat)
  | [], _ => []
  | x :: r, bs =>
    let b := splitBlocks x.2 bs
    (piecesOf b.1).map (fun p => (x.1, p.2, p.1)) ++ sectionParts r b.2

/-- The record's bytes with the PARTS of where it lies now. Twelve entries are all that the header holds (log entry 30). -/
def Save.image (v : Save) : List Byte :=
  v.bytes.take 64 ++ partBytes ((sectionParts v.sections (splitBlocks 256 v.blocks).2).take 12) ++ v.bytes.drop 256

/-- The save's bytes from offset `a` to offset `b` take their places. -/
def State.writeSave (s : State) (v : Save) (a b : Nat) : State :=
  State.writeBlocks (splitBlocks (b - a) (splitBlocks a v.blocks).2).1 ((v.image.drop a).take (b - a)) s

/-- A team's record goes to some blocks of memory, and its save streams until PRE_EMPTION_SAVE_END, when it is all written (R312,
R354). -/
def State.stream (s : State) (ctx : Team) (ss : List (Nat × List Byte)) (now : Nat) (attic : Bool) (blocks : List (Option Nat × Nat))
    (ask : Option SaveAsk) : State :=
  let sv : Save := { bytes := ctx.header ctx.phase now (recordSizeOf ss) attic [] ++ ss.flatMap Prod.snd,
                     sections := ss.map (fun x => (x.1, x.2.length)), blocks := blocks, team := ctx.key, ask := ask }
  s.modDie (ownerOf ((blocks.findSome? Prod.fst).getD 0)) fun d => { d with saves := d.saves ++ [sv] }

/-- Take a team's context in the capture cycle; a guarded team has committed (R353). -/
def State.captureOne (s : State) (t : Nat) : State :=
  match s.team? t with
  | none => s
  | some tm =>
    let ls := tm.sheaves.map (s.liveOfSheaf tm)
    let ctx := tm.context ls s.time
    let attic := s.takenAttic tm
    let ss := ctx.sections ls attic
    let size := recordSizeOf ss
    match tm.preempt, tm.savectx with
    | _, some w =>
      let n := (w.record % 4096 + size + 4095) / 4096
      let r := State.deviceBlocks ((s.team? w.t).elim tm.vdev fun x => x.vdev) w.record n (s.saveTeam tm ctx true w.record size)
      r.1.stream ctx ss s.time attic.isSome (splitBlocks size r.2).1 (some w)
    | .decided _ 1 _ _, none => (s.saveTeam tm ctx false 0 0).modCore tm.core fun c => { c with migratedAt := some s.time }
    | _, none =>
      (match s.takeSpan tm.die size with
       | none => s.saveTeam tm ctx false 0 0
       | some pa => (s.saveTeam tm ctx false pa size).stream ctx ss s.time attic.isSome (physBlocks pa size) none)

/-- A team that was decided for a thermal migration, and its core. -/
def State.migrating (s : State) (t : Nat) : Option Nat :=
  match s.team? t with
  | some tm => (match tm.preempt with
    | .decided _ 1 _ _ => some tm.core
    | _ => none)
  | none => none

/-- A guarded team commits before its capture: something of its share is not performed, or its commit would roll it back (R178,
R182, R183). -/
def Team.mustCommit (tm : Team) : Bool :=
  match tm.guarded with
  | some g => g.committing || !g.share.isEmpty || (tm.st.mode == 2 && !(tm.differing g).isEmpty) || !g.backed
  | none => false

/-- CAPTURE: the capture cycle is the first in which every lane stands or is parked and nothing is outstanding. The windows leave,
the parked lanes are withdrawn or recorded satisfied (R352), and the contexts of the team and of its chains' members are taken. -/
def execCapture (t : Nat) (s : State) : Out :=
  match s.team? t with
  | none => .next s
  | some tm =>
    if tm.preempt == .none then .next s
    else
      let g := s.mates t
      let all (x : State) (p : Team → Bool) : Bool := g.all fun m => (x.team? m).elim true p
      let s0 := g.foldl (fun (x : State) m => x.markSafe m) s
      if !all s0 Team.mayStand then .next s0
      else
        let s1 := g.foldl (fun (x : State) m => x.spillAll m) s0
        let s2 := if all s1 (fun y => y.mayStand && y.spilled) then
            g.foldl (fun (x : State) m => (x.withdrawAll m).markSafe m) s1 else s1
        if !all s2 (fun y => y.stands && y.spilled) then .next s2
        else
          match g.find? fun m => (s2.team? m).elim false Team.mustCommit with
          | some m => .next (s2.commit m)
          | none =>
            let s3 := g.foldl (fun (x : State) m => x.captureOne m) s2
            .next (g.foldl (fun (x : State) m => (s2.migrating m).elim x fun c => x.migrate m c) s3)

/-! ### Decisions that end without a capture (R351, R361) -/

/-- The next interval boundary after a time (R254). -/
def nextBoundary (now : Nat) : Nat := (now / 20000 + 1) * 20000

/-- CAPTURE_TIMEOUT: 10 µs after the decision it is withdrawn, with those of the chains' members; a SAVECTX answers 3, and a migration
is tried again at the next boundary. A resize withdraws nothing, but a SAVECTX that waits with it answers all the same. -/
def execCaptureTimeout (t : Nat) (s : State) : Out :=
  match s.team? t with
  | none => .next s
  | some tm =>
    match tm.preempt with
    | .none => .next s
    | .decided since why _ _ =>
      if why == 2 then
        match tm.saveAsk with
        | none => .next s
        | some w =>
          if s.time < w.since + 20000 then .next s
          else .next ((s.modTeam t fun x => { x with saveAsk := none }).savectxStatus (some w) 3)
      else if s.time < since + 20000 then .next s
      else
        let s1 := if why == 1 then s.modCore tm.core fun c => { c with retryAt := nextBoundary s.time } else s
        .next ((s.mates t).foldl (fun (x : State) m =>
          (x.savectxStatus ((x.team? m).bind Team.savectx) 3).modTeam m Team.undecide) s1)

/-- RESIZE_KILL: 20 µs after a resize's decision the team is killed. -/
def execResizeKill (t : Nat) (s : State) : Out :=
  match s.team? t with
  | none => .next s
  | some tm =>
    match tm.preempt with
    | .decided since 2 _ _ =>
      if s.time ≥ since + 40000 then .next ((s.killTeam t Cause.resizeKill).settled t) else .next s
    | _ => .next s

/-! ### SAVECTX (R356, R357) -/

/-- Fields that neither instruction uses (R356). -/
def contextFields (o : OpS) : Bool := o.a != 0 || o.sel != 0 || o.scope != .strand

/-- The pages of a record that SAVECTX is to write, as accesses of the issuing team (R357; log entry 19). -/
def Iss.recordPages (i : Iss) (s : State) (va n : Nat) : List Access :=
  (List.range ((va % 65536 + n + 65535) / 65536)).map fun k =>
    match s.access i.core i.tm.vdev (i.sh.strand (i.on.headD 0)).refused false true false 1 (max va (va / 65536 * 65536 + 65536 * k)) with
    | .ok m pa => if isFabric pa then .fault Cause.permission else .ok m pa
    | x => x

/-- SAVECTX's decision: of a team that a resize has decided, it waits for the same capture (R361); any other decision becomes its own. -/
def State.askSave (s : State) (tm : Team) (w : SaveAsk) : State :=
  match tm.preempt with
  | .decided _ 2 _ _ => s.modTeam tm.key fun x => { x with saveAsk := some w }
  | _ => (s.modTeam tm.key fun x => { x with preempt := .none }).choosePreempt tm.key 3 w.record (w.t, w.j, w.seq)

def execSavectx (c : Ctl) (o : OpS) (s : State) : Out :=
  onceInstr (some o.d) c s
    (fun _ => if contextFields o || !o.b.uni || o.b.idx > 61 then some Cause.illOperand else none) fun i s1 =>
    let w (k : Nat) : Val := i.sh.u (o.b.idx + k)
    if (w 0).tag || (w 1).tag || (w 2).tag then i.batchRaise Cause.aAddr 0 s1
    else
      let status (n : Nat) : State := i.finish (some (i.now o.d (BitVec.ofNat 64 n))) [] s1
      match s1.teams.find? fun (e : Nat × Team) => e.2.pid == (w 0).bits.toNat % 2 ^ 15 with
      | none => status 1
      | some e =>
        let va := (w 1).bits.toNat
        if (w 2).bits.toNat < e.2.recordBound then status 2
        else if e.2.savectx.isSome then status 3
        else
          match firstBad (i.recordPages s1 va e.2.recordBound) with
          | some (k, .fault cause) => i.onTrap cause (max va (va / 65536 * 65536 + 65536 * k)) s1
          | some (k, _) => i.onPark (max va (va / 65536 * 65536 + 65536 * k)) s1
          | none =>
            let a : SaveAsk := { since := s1.time, record := va, t := i.t, j := i.j, seq := i.seq }
            i.finish (some (i.later o.d 0)) [] (s1.askSave e.2 a)

/-! ### Reading a record back -/

def runOf (n : Nat) : Option Run :=
  if n == 0 then some .vacant
  else if n == 16 then some .active
  else if n == 32 then some .yielded
  else if 48 ≤ n && n < 64 then some (.parked (n - 48))
  else if 64 ≤ n && n < 76 then some (.waiting (n - 64))
  else none

/-- A lane from its record; what it is parked on, and what its remote operations have reached, comes from the saved strand. -/
def strandOf (old : Strand) (bs : List Byte) (o : Nat) : Option Strand :=
  match runOf (field bs (o + 30) 1) with
  | none => none
  | some r =>
    if field bs o 8 % 8 != 0 || field bs o 8 ≥ 2 ^ 48 then none
    else
      let st : Strand := { pc := BitVec.ofNat 48 (field bs o 8), item := BitVec.ofNat 64 (field bs (o + 8) 8) }
      some { st with
        seqIdx := BitVec.ofNat 32 (field bs (o + 16) 4)
        pword := (BitVec.ofNat 32 (field bs (o + 20) 4) ||| 0x8000) &&& 0x7FFFFFFF
        base := field bs (o + 24) 2
        floor := field bs (o + 26) 2
        depth := field bs (o + 28) 1
        hdepth := field bs (o + 29) 1
        run := r
        flags := BitVec.ofNat 5 (field bs (o + 31) 1)
        park := if r == old.run then old.park else .nothing
        covers := old.covers
        pkgs := old.pkgs }

/-- A sheaf from its section, and the section's length. -/
def sheafOf (old : Sheaf) (st : Stage) (code : Nat) (bs : List Byte) : Option (Sheaf × Nat) :=
  let allot := field bs 52 2
  match st.role? (field bs 54 1) with
  | none => none
  | some r =>
    if allot != r.regs || field bs 55 1 > 1 || !zeroAt bs 88 40 then none
    else
      let w := min 128 allot
      let v := BitVec.ofNat 128 (field bs 56 16)
      let sts := allLanes.map fun l => strandOf (old.strand l) bs (640 + 32 * l)
      if sts.any fun x => x.isNone then none
      else
        let lanes := sts.map fun x => x.getD {}
        let ks := liveKs w v
        let used := allLanes.filter fun l => (lanes.getD l {}).run != .vacant
        let len := (2176 + 8 * ks.length * used.length + 127) / 128 * 128
        let ur := (List.range 64).foldl (fun (m : SMap Val) k => m.store {} k
          { bits := BitVec.ofNat 64 (field bs (128 + 8 * k) 8), tag := (field bs 80 8).testBit k }) []
        let mk := (List.range 12).foldl (fun (m : SMap Lanes) k => m.store 0 k (BitVec.ofNat 32 (field bs (4 * k) 4))) []
        let base := { old with
          hmask := BitVec.ofNat 32 (field bs 48 4)
          allot := allot
          role := r.k
          cls := r.cls
          entry := BitVec.ofNat 48 (code + r.entry)
          tmode := field bs 55 1 == 1
          strands := lanes
          ureg := ur
          masks := mk
          vreg := [] }
        let sh := used.zipIdx.foldl (fun (h : Sheaf) l => ks.zipIdx.foldl (fun (q : Sheaf) k =>
          q.setV l.1 k.1 { bits := BitVec.ofNat 64 (field bs (2176 + 8 * (l.2 * ks.length + k.2)) 8),
                           tag := (field bs (1664 + 16 * l.1) 16).testBit k.1 }) h) base
        if bs.length < len then none else some (sh, len)

/-- The sheaves: those that FIN names are finished, every other is read from the run of kind 2, all of which is used. -/
def sheavesOf (st : Stage) (code : Nat) : Nat → List Sheaf → List Byte → Option (List Sheaf)
  | _, [], bs => if bs.isEmpty then some [] else none
  | fin, sh :: r, bs =>
    if fin % 2 == 1 then (sheavesOf st code (fin / 2) r bs).map fun x => (if sh.finished then sh else sh.endAll) :: x
    else
      match sheafOf sh st code bs with
      | none => none
      | some x => (sheavesOf st code (fin / 2) r (bs.drop x.2)).map fun y => x.1 :: y

def latchOf (bs : List Byte) (o : Nat) : Latch :=
  let tile := (List.range 16384).foldl (fun (m : SMap Byte) k => m.store 0 k (bs.getD (o + 128 + k) 0)) []
  { fmt := field bs o 1, tag := field bs (o + 1) 1 == 1, kind := field bs (o + 2) 1, tile := tile }

def matrixOf (old : Matrix) (bs : List Byte) : Option Matrix :=
  let z := BitVec.ofNat 16 (field bs 33026 2)
  let zs := (List.range 16).filter fun k => z.getLsbD k
  if bs.length != 33152 + 32768 * zs.length + 512 then none
  else
    let m := { old with latch0 := latchOf bs 0, latch1 := latchOf bs 16512, binTag := BitVec.ofNat 16 (field bs 33024 2), bins := [] }
    let m1 := zs.zipIdx.foldl (fun (x : Matrix) k => (List.range 4096).foldl (fun (y : Matrix) q =>
      let o := 33152 + 32768 * k.2 + 8 * q
      y.setPair k.1 (q / 64) (q % 64) (field bs o 4, field bs (o + 4) 4)) x) m
    let at_ := 33152 + 32768 * zs.length
    some { m1 with queue := m1.queue.zipIdx.map fun e => { e.1 with step := field bs (at_ + 128 * e.2 + 8) 8 } }

/-- Jobs: descriptors, WP and bit positions from the entries of their tickets. -/
def Job.fromEntry (j : Job) (bs : List Byte) : Job :=
  match (List.range 64).find? fun k => field bs (64 * k) 8 == j.ticket.toNat with
  | none => j
  | some k =>
    let d (n : Nat) : Word := BitVec.ofNat 64 (field bs (64 * k + 16 + 8 * n) 8)
    { j with wp := field bs (64 * k + 8) 8 % 2 ^ 32, d0 := d 0, d1 := d 1, d2 := d 2, d3 := d 3, bitPos := field bs (64 * k + 48) 8 }

def decoderOf (old : SMap (List Nat)) (bs : List Byte) : SMap (List Nat) :=
  old.map fun e => (e.1, (List.range 256).map fun q => field bs (4096 + 256 * e.1 + q) 1)

/-- Bytes that die `d` sees of a piece of a record. -/
def State.physBytes (s : State) (d pa n : Nat) : List Byte := (List.range n).map fun k => s.byteAt d [] (recordPa pa k)

/-- An entry of PARTS: code, length, address. -/
def partAt (bs : List Byte) (k : Nat) : Nat × Nat × Nat :=
  (field bs (0x40 + 16 * k) 4, field bs (0x44 + 16 * k) 4, field bs (0x48 + 16 * k) 8)

/-- The bytes of one section kind, its pieces in their order. -/
def State.sectionBytes (s : State) (d : Nat) (head : List Byte) (code : Nat) : List Byte :=
  (List.range 12).flatMap fun k =>
    let p := partAt head k
    if p.1 == code then s.physBytes d p.2.2 p.2.1 else []

/-- PARTS names sections of R355 in ascending code, in pieces whose addresses are on the stacks and whose runs are multiples of 128;
the entries after the last piece are zero. -/
def partsBad (bs : List Byte) : Bool :=
  let ps := (List.range 12).map (partAt bs)
  let used := ps.filter fun p => p.1 != 0
  let run (k : Nat) : Nat := (used.filter fun p => p.1 == k).foldl (fun n p => n + p.2.1) 0
  used != ps.take used.length || (ps.drop used.length).any (fun p => p != (0, 0, 0)) ||
  used.any (fun p => p.1 > 6 || p.2.1 == 0 || p.2.2 ≥ 2 ^ 44) ||
  (used.zip (used.drop 1)).any (fun x => x.1.1 > x.2.1) || (List.range 7).any (fun k => run k % 128 != 0) ||
  256 + used.foldl (fun n p => n + p.2.1) 0 != field bs 0x20 8

/-- The header breaks R354, as far as it can be judged without the launch. -/
def headerBad (bs : List Byte) (va : Nat) : Bool :=
  bs.take 4 != [0x53, 0x41, 0x56, 0x45] || field bs 4 2 != 0x0100 || !(field bs 6 2 == 1 || field bs 6 2 == 2) ||
  field bs 0x0E 1 > 6 || field bs 0x0F 1 > 8 || field bs 0x1A 2 / 8 != 0 || !zeroAt bs 0x30 16 || va % 4096 != 0 || partsBad bs

/-- What the header says of the team does not fit its launch's stage: SHEAVES, FIN, PHASE, whether it is a matrix team, whether it is
a chain's member, and whether an attic region is saved. -/
def headerUnlike (bs : List Byte) (l : Launch) (st : Stage) : Bool :=
  let flags := field bs 0x1A 2
  let has (k : Nat) : Bool := (List.range 12).any fun n => (partAt bs n).1 == k
  field bs 0x0D 1 != st.sheaves || field bs 0x18 2 ≥ 2 ^ st.sheaves || field bs 0x14 4 != l.phase ||
  flags.testBit 1 != (st.bins != 0) || (flags.testBit 0 && st.bins == 0) || flags.testBit 2 != has 6 ||
  (flags.testBit 2 && st.attic == 0)

/-- The saved team as its record gives it back, or none where a section is malformed. -/
def State.fromRecord (s : State) (d : Nat) (v : Saved) (head : List Byte) : Option Saved :=
  let tm := v.team
  let sec (k : Nat) : List Byte := s.sectionBytes d head k
  let t1 := sec 1
  let larder := sec 5
  let eng := sec 4
  let attic := sec 6
  let hasAttic := field head 0x1A 2 / 4 % 2 == 1
  if t1.length != 128 || larder.length != tm.larderSize || eng.length != 5120 || hasAttic != v.attic.isSome ||
      (hasAttic && attic.length != tm.st.attic) then none
  else
    match sheavesOf tm.st tm.code (field head 0x18 2) tm.sheaves (sec 2) with
    | none => none
    | some shs =>
      let mx := if tm.st.bins == 0 then some tm.matrix else matrixOf tm.matrix (sec 3)
      (match mx with
       | none => none
       | some m =>
         let store (bs : List Byte) : SMap Byte := (List.range bs.length).foldl (fun (x : SMap Byte) k => x.store 0 k (bs.getD k 0)) []
         let team := { tm with
           sheaves := shs
           matrix := m
           larder := store larder
           jobs := tm.jobs.map fun j => j.fromEntry eng
           decoder := decoderOf tm.decoder eng
           level := field head 0x0E 1
           grade := field head 0x0F 1
           itemNext := if tm.st.phased then field t1 0 8 else tm.itemNext
           itemEnd := if tm.st.phased then field t1 8 8 else tm.itemEnd }
         some { v with team := team, attic := if hasAttic then some (store attic) else none })

/-! ### RESTCTX (R358) -/

/-- The record's header as the service reads it. -/
def State.headerAt (s : State) (d vdev va : Nat) : List Byte :=
  (List.range 256).map fun k => match s.pageOf vdev (va + k) with
    | some m => s.byteAt d [] (m.paOf (va + k))
    | none => 0

/-- The status in R358's order, or the team to restore: any saved team whose record it is. -/
def State.restoreCheck (s : State) (d vdev va core : Nat) : Nat ⊕ Saved :=
  let h := s.headerAt d vdev va
  if headerBad h va then .inl 2
  else
    let n := field h 8 4
    match s.launch? n with
    | none => .inl 3
    | some l =>
      let k := field h 0x0C 1
      match l.stages[k]? with
      | none => .inl 2
      | some g =>
        if headerUnlike h l g.st then .inl 2
        else if l.state == 2 || core ≥ 1536 || !((s.partClusters l.part).contains (clusterOfCore core)) ||
            !dieAllowed g.dies (dieOfCore core) then .inl 3
        else
          match s.saved.find? fun v => v.team.key == teamKey n k (field h 0x10 4) with
          | none => .inl 2
          | some v0 =>
            match s.fromRecord d v0 h with
            | none => .inl 2
            | some v =>
              if (s.mateCluster v.team).elim false fun q => clusterOfCore core != q then .inl 4
              else if !s.roomFor core [] v.team.need || !s.atticFits core [] n k g.st.attic || !s.takesSaved v core then .inl 1
              else .inr v

/-- RESTCTX reads the record with an acquire at .system scope; a restore that waits for the approximate rail answers when its grade
is reached (R253, R358, R392). -/
def execRestctx (c : Ctl) (o : OpS) (s : State) : Out :=
  onceInstr (some o.d) c s
    (fun _ => if contextFields o || !o.b.uni || o.b.idx > 62 then some Cause.illOperand else none) fun i s1 =>
    let w (k : Nat) : Val := i.sh.u (o.b.idx + k)
    if (w 0).tag || (w 1).tag then i.batchRaise Cause.aAddr 0 s1
    else
      let va := (w 0).bits.toNat
      let clk := s1.saved.foldl (fun k v => if v.record == va then clockMax k v.clock else k) []
      let s2 := s1.applyUpTo i.die clk
      match s2.restoreCheck i.die i.tm.vdev va (w 1).bits.toNat with
      | .inl n => i.finish (some (i.now o.d (BitVec.ofNat 64 n))) [] s2
      | .inr v =>
        let s3 := s2.resumeTeam v (w 1).bits.toNat
        let s4 := match s3.pageOf i.tm.vdev (va + 6) with
          | some m => s3.homeWrite i.die { pa := m.paOf (va + 6), bytes := natBytes 2 2 }
          | none => s3
        if (s4.team? v.team.key).elim false fun x => x.waitsRail then
          i.finish (some (i.later o.d 0)) [] (s4.modTeam v.team.key fun x => { x with railAnswer := some (i.t, i.j, i.seq) })
        else i.finish (some (i.now o.d 0)) [] s4

end Sys2Proof.Machine
end

