-- ==== Sys2Proof/Machine/Flags.lean ====
section
/-! DEFINITION. Flags and comparisons: the latencies of R61, ICMP and FCMP's predicate (R128, R132) with the flags that
each mode raises. -/

namespace Sys2Proof.Machine

/-- Latency of the float instructions at fixed latency (R61). -/
def fLat (ty : Ty) : Nat := if ty == .f64 then 8 else 4

/-- One comparison of sub-elements (R128, R132). -/
def cmpElem (k : Cmp) (ty : Ty) (a b : Nat) : Bool × Flags :=
  if ty.float then fpCmp k (FFmt.of ty) a b
  else
    let x := toInt ty.signed ty.width a
    let y := toInt ty.signed ty.width b
    ((match k with
      | .lt => decide (x < y)
      | .le => decide (x ≤ y)
      | .eq => decide (x = y)
      | .ne => decide (x ≠ y)
      | .ge => decide (x ≥ y)
      | .gt => decide (x > y)), 0)

/-- A comparison over a column by its mode: 0 e0 alone, 1 .all, 2 .any (R128). -/
def cmpWord (k : Cmp) (ty : Ty) (mode : Nat) (a b : List Nat) : Bool × Flags :=
  let rs := List.zipWith (cmpElem k ty) a b
  if mode = 0 then rs.headD (false, 0)
  else
    (if mode = 1 then rs.all Prod.fst else rs.any Prod.fst, rs.foldl (fun f r => f ||| r.2) 0)

/-- The values a′ of an approximate comparison: they agree above L(w, g) and are otherwise free (R128). -/
def cmpSource (i : Iss) (ty : Ty) (base : Nat) (v : Word) : List Nat :=
  let es := (elemIdx ty.width).map fun k => elem ty.width k v
  if i.c.apx then
    es.mapIdx fun k e => exposeL (exposureBits ty.width i.grade) none i.draw (base + k) e
  else es

/-- ICMP and FCMP (R128, R132). -/
def compare (m : Nat) (k : Cmp) (c : Ctl) (o : OpR) (n : Nat) (s : State) : Out :=
  issue c s (fun i => rChecks m k.code o c.apx none i.sh.w) fun i s =>
    let faults := i.on.filterMap fun l =>
      if i.poisoned l (readsOf m k.code o) then some (l, Cause.uncorrectable, 0) else none
    let good := i.on.filter fun l => !i.poisoned l (readsOf m k.code o)
    let res (l : Nat) : Bool × Bool × Flags :=
      let src := if o.u then 0 else l
      let (a, b, _, t) := i.sources m k.code o none src
      let r := cmpWord k o.ty o.x (cmpSource i o.ty (src * 64) a) (cmpSource i o.ty (src * 64 + 8) b)
      (r.1, t || c.apx, r.2)
    let ws := i.wrP o.d good (fun l => let r := res l; (r.1, r.2.1))
              ++ i.wrF good (fun l => let r := res l; (r.2.2, r.2.1))
    (i.reads (readsOf m k.code o)).finish (if ws.isEmpty then none else some (i.fixed n ws)) faults { s with free := s.free + 1 }

end Sys2Proof.Machine
end

