-- ==== Sys2Proof/Machine/FloatArith.lean ====
section
/-! DEFINITION. Floating-point instructions (R130 to R133) and conversions (R134 to R138). -/

namespace Sys2Proof.Machine

/-- A member of R130 or R131 on sub-elements. -/
def fpElem (op : FOp) (o : OpR) : ElemFn := fun a b c => fpOp op (FFmt.of o.ty) o.rnd a b c 0

/-- A float instruction at the fixed latency of R61. -/
def fpInstr (m fn : Nat) (op : FOp) (c : Ctl) (o : OpR) (s : State) : Out :=
  elemInstr m fn c o none (fpElem op o) (some (fLat o.ty)) none noBad s

/-- The float-unary family and FDIV have variable latency (R62). -/
def fpSlow (m fn : Nat) (op : FOp) (c : Ctl) (o : OpR) (s : State) : Out :=
  elemInstr m fn c o none (fpElem op o) none none noBad s

def execFadd (c : Ctl) (o : OpR) (s : State) : Out := fpInstr 0x30 0 .add c o s
def execFsub (c : Ctl) (o : OpR) (s : State) : Out := fpInstr 0x31 0 .sub c o s
def execFmul (c : Ctl) (o : OpR) (s : State) : Out := fpInstr 0x32 0 .mul c o s
def execFfma (c : Ctl) (o : OpR) (s : State) : Out := fpInstr 0x33 0 .fma c o s
def execFmin (c : Ctl) (o : OpR) (s : State) : Out := fpInstr 0x34 0 .min c o s
def execFmax (c : Ctl) (o : OpR) (s : State) : Out := fpInstr 0x35 0 .max c o s
def execFcmp (c : Ctl) (k : Cmp) (o : OpR) (s : State) : Out := compare 0x36 k c o (fLat o.ty) s
def execFclass (c : Ctl) (o : OpR) (s : State) : Out :=
  elemInstr 0x37 0 c o none (fun a _ _ => (fpClass (FFmt.of o.ty) a, 0)) (some (fLat o.ty)) none noBad s
def execFrcp (c : Ctl) (o : OpR) (s : State) : Out := fpSlow 0x38 0 .rcp c o s
def execFrsq (c : Ctl) (o : OpR) (s : State) : Out := fpSlow 0x38 1 .rsq c o s
def execFsqrt (c : Ctl) (o : OpR) (s : State) : Out := fpSlow 0x38 2 .sqrt c o s
def execFexp2 (c : Ctl) (o : OpR) (s : State) : Out := fpSlow 0x38 3 .exp2 c o s
def execFlog2 (c : Ctl) (o : OpR) (s : State) : Out := fpSlow 0x38 4 .log2 c o s
def execFsin (c : Ctl) (o : OpR) (s : State) : Out := fpSlow 0x38 5 .sin c o s
def execFcos (c : Ctl) (o : OpR) (s : State) : Out := fpSlow 0x38 6 .cos c o s
def execFrnd (c : Ctl) (o : OpR) (s : State) : Out := fpSlow 0x38 7 .rnd c o s
def execFdiv (c : Ctl) (o : OpR) (s : State) : Out := fpSlow 0x39 0 .div c o s

/-- FSCALE: n is b's sub-element as a signed integer; an immediate is sign-extended (R130). -/
def execFscale (c : Ctl) (o : OpR) (s : State) : Out :=
  let w := o.ty.width
  let bx := match o.bc with
    | .imm v => some (joinElems w ((elemIdx w).map fun _ => ofInt w (toInt true 16 v)))
    | .regs _ _ => none
  elemInstr 0x3A 0 c o bx (fun a b _ => fpOp .scale (FFmt.of o.ty) o.rnd a 0 0 (toInt true w b))
    (some (fLat o.ty)) none noBad s

/-! ### CVT, PACK, UNPK (R134, R135) -/

/-- The integer nearest to ±m·2^e in a mode, and whether it is exact. -/
def toIntegral (mode : Rnd) (n : Bool) (m : Nat) (e : Int) : Int × Bool :=
  let r : Nat × Bool := if e ≥ 0 then (m * 2 ^ e.toNat, false) else roundAt mode n m e 0 false
  (if n then -(r.1 : Int) else (r.1 : Int), !r.2)

/-- One conversion (R134). -/
def cvtElem (src dst : Ty) (mode : Rnd) (v : Nat) : Nat × Flags :=
  if src.float then
    let x := (FFmt.of src).value v
    if dst.float then
      if x.isNan then ((FFmt.of dst).canonical, invalidIf x.isSig) else (FFmt.of dst).round mode x
    else
      match x with
      | .nan _ => (0, flagNV)
      | .inf n => (ofInt dst.width (if n then tyMin dst.signed dst.width else tyMax dst.signed dst.width), flagNV)
      | .fin n m e =>
        let r := toIntegral mode n m e
        let c := clampInt dst.signed dst.width r.1
        (ofInt dst.width c, if c != r.1 then flagNV else if r.2 then 0 else flagNX)
  else
    let x := toInt src.signed src.width v
    if dst.float then (FFmt.of dst).round mode (.fin (decide (x < 0)) x.natAbs 0)
    else (ofInt dst.width (clampInt dst.signed dst.width x), 0)

/-- The source type of CVT, in the c slot. -/
def cvtFrom (o : OpR) : Ty :=
  match o.bc with
  | .regs _ sc => (Ty.ofCode sc.idx).getD .s8
  | .imm _ => .s8

/-- Converted elements with their flags, exposed under A. -/
def Iss.converted (i : Iss) (src dst : Ty) (mode : Rnd) (base : Nat) (es : List Nat) : List Nat × Flags :=
  let rs := es.map (cvtElem src dst mode)
  let vs := rs.map Prod.fst
  (if i.c.apx then exposeElems dst i.grade i.draw base vs else vs, rs.foldl (fun f r => f ||| r.2) 0)

/-- Elements `from` to `from + n - 1` of a column. -/
def elemsFrom (w start n : Nat) (v : Word) : List Nat := (List.range n).map fun k => elem w (start + k) v

/-- CVT on a lane: the bits it writes, their mask, tag and flags. The sub-elements that a narrowing conversion writes as zero
are exactly zero in the approximate form as well: they are no converted result that R47 exposes (DESIGN CHOICE, log
entry 45). -/
def Iss.cvtLane (i : Iss) (o : OpR) (l : Nat) : Word × Word × Bool × Flags :=
  let src := cvtFrom o
  let ws := src.width
  let wd := o.ty.width
  let n := 64 / max ws wd
  let h := o.x % 2
  let a := i.srcA o l
  let r := i.converted src o.ty o.rnd (l * 64) (elemsFrom ws (if ws < wd then h * n else 0) n a.bits)
  let v := joinElems wd r.1
  if ws > wd && h = 1 then
    (BitVec.ofNat 64 ((2 ^ (n * wd) - 1) * 2 ^ (n * wd)), v <<< (n * wd), a.tag || i.c.apx, r.2)
  else (allOnes, v, a.tag || i.c.apx, r.2)

/-- A tag beside bits that the register keeps: an approximate one stays so (R53, R146). -/
def keptTag (m : Word) (t : Option Bool) : Option Bool := if m != allOnes && t == some false then none else t

/-- Vector or uniform writes with a mask that every lane shares. -/
def maskWrites (m : Word) (ws : List Wr) : List Wr :=
  ws.map fun w =>
    match w with
    | .v l e k b t => .v l e (k &&& m) b (keptTag m t)
    | .u j k b t => .u j (k &&& m) b (keptTag m t)
    | x => x

def execCvt (c : Ctl) (o : OpR) (s : State) : Out :=
  let own := if o.x % 2 = 1 && (cvtFrom o).width = o.ty.width then some Cause.illOperand else none
  issue c s (fun i => rChecks 0x3B 0 o c.apx own i.sh.w) fun i s1 =>
    let good := i.on.filter fun l => !i.poisoned l (readsOf 0x3B 0 o)
    let faults := (i.on.filter fun l => i.poisoned l (readsOf 0x3B 0 o)).map fun l => (l, Cause.uncorrectable, 0)
    let m := (i.cvtLane o 0).1
    let res (l : Nat) : Word × Bool := let r := i.cvtLane o l; (r.2.1, r.2.2.1)
    let ws := maskWrites m (if o.u then i.wrU o.d (res 0) else i.wrV o.d good res)
      ++ i.wrF good (fun l => let r := i.cvtLane o (if o.u then 0 else l); (r.2.2.2, r.2.2.1))
    (i.reads (readsOf 0x3B 0 o)).finish (if ws.isEmpty then none else some (i.fixed 4 ws)) faults { s1 with free := s1.free + 1 }

/-- The type PACK narrows from (R135). -/
def packFrom : Ty → Ty
  | .s8 => .s16 | .s16 => .s32 | .s32 => .s64
  | .n8 => .n16 | .n16 => .n32 | .n32 => .n64
  | .f32 => .f64
  | .f16 | .bf16 => .f32
  | t => t

/-- The type UNPK widens from (R135). -/
def unpkFrom (bf : Bool) : Ty → Ty
  | .s16 => .s8 | .s32 => .s16 | .s64 => .s32
  | .n16 => .n8 | .n32 => .n16 | .n64 => .n32
  | .f64 => .f32
  | .f32 => if bf then .bf16 else .f16
  | t => t

def Iss.packLane (i : Iss) (o : OpR) (l : Nat) : Word × Bool × Flags :=
  let w := o.ty.width
  let (a, b, _, t) := i.sources 0x3E 0 o none l
  let half (v : Word) := elemsFrom (2 * w) 0 (32 / w) v
  let r := i.converted (packFrom o.ty) o.ty o.rnd (l * 64) (half a ++ half b)
  (joinElems w r.1, t || i.c.apx, r.2)

def execPack (c : Ctl) (o : OpR) (s : State) : Out :=
  issue c s (fun i => rChecks 0x3E 0 o c.apx none i.sh.w) fun i =>
    i.colRun (readsOf 0x3E 0 o) o (i.packLane o) (some 4) fun _ => none

def Iss.unpkLane (i : Iss) (o : OpR) (l : Nat) : Word × Bool × Flags :=
  let w := o.ty.width
  let n := 64 / w
  let a := i.srcA o l
  let r := i.converted (unpkFrom (o.x / 2 % 2 == 1) o.ty) o.ty .rne (l * 64) (elemsFrom (w / 2) (o.x % 2 * n) n a.bits)
  (joinElems w r.1, a.tag || i.c.apx, r.2)

def execUnpk (c : Ctl) (o : OpR) (s : State) : Out :=
  let own := if o.x / 2 % 2 = 1 && o.ty != .f32 then some Cause.illOperand else none
  issue c s (fun i => rChecks 0x3F 0 o c.apx own i.sh.w) fun i =>
    i.colRun (readsOf 0x3F 0 o) o (i.unpkLane o) (some 4) fun _ => none

/-! ### CVTB and CVTX (R136 to R138) -/

def isTb8 (o : OpR) : Bool := o.ty == .tb8
/-- Lanes of a block, elements of a lane, registers of a lane's FP32 elements (R36). -/
def blockLanes (o : OpR) : Nat := if isTb8 o then 4 else 2
def laneElems (o : OpR) : Nat := if isTb8 o then 8 else 16

def blocksOf (o : OpR) : List (List Nat) :=
  (List.range (32 / blockLanes o)).map fun i => (List.range (blockLanes o)).map fun k => blockLanes o * i + k

/-- Blocks every lane of which is in the batch with a true guard. -/
def Iss.fullBlocks (i : Iss) (o : OpR) : List (List Nat) := (blocksOf o).filter fun b => b.all fun l => i.on.contains l

/-- Lanes that meet the condition in a block some of whose lanes do not: ill-operand (R136). -/
def Iss.brokenLanes (i : Iss) (o : OpR) : List Nat :=
  (blocksOf o).flatMap fun b => if b.all fun l => i.on.contains l then [] else b.filter fun l => i.on.contains l

/-- The guard row of R49 for several destinations. -/
def Iss.guardRows (i : Iss) (ds : List Nat) : List Wr :=
  (i.offLanes.filter fun l => i.aG.contains l).flatMap fun l => ds.map fun d => Wr.v l (i.sh.ring l d) 0 0 (some true)

def slotC (o : OpR) : Slot :=
  match o.bc with
  | .regs _ sc => sc
  | .imm _ => {}

def slotB (o : OpR) : Slot :=
  match o.bc with
  | .regs sb _ => sb
  | .imm _ => {}

/-- The range check of the operand that spans registers (R136), and the kind of the exponent register. -/
def tbChecks (m : Nat) (o : OpR) (apx : Bool) (wide : Nat) (ex : Slot) (w : Nat) : Option Nat :=
  firstCause [(wide + laneElems o / 2 - 1 ≥ w, Cause.registerRange)] <|>
  rChecks m 0 o apx (if ex.uni then some Cause.illOperand else none) w

def elemBits (o : OpR) : Nat := if isTb8 o then 8 else 4

/-- The sixteen or eight FP32 patterns of a lane in registers a upward. -/
def Iss.wideElems (i : Iss) (o : OpR) (l : Nat) : List Nat :=
  (List.range (laneElems o)).map fun j => elem 32 (j % 2) (i.sh.v l (o.a + j / 2)).bits

/-- CVTB on one block: writes of elements, exponents and flags (R137), the exponents last where d and c name one register
(DESIGN CHOICE, log entry 45). Its lanes' tags are the OR over the sources of them all (R136). -/
def Iss.cvtbBlock (i : Iss) (o : OpR) (b : List Nat) : List Wr :=
  let regs := (List.range (laneElems o / 2)).map fun k => o.a + k
  let l0 := b.headD 0
  let spread := i.slotVal (slotB o) l0
  let tag := i.c.apx || b.any fun l => i.aG.contains l || (i.slotVal (slotB o) l).tag || regs.any fun r => (i.sh.v l r).tag
  let (es, e0, e1, fl) := tbEncode (isTb8 o) ((b.flatMap (i.wideElems o)).map fun p => FFmt.f32.value p)
    (spread.bits.toNat % 16)
  (b.zipIdx.flatMap fun (l, k) =>
    let own := (es.drop (laneElems o * k)).take (laneElems o)
    let own' := if i.c.apx then exposeElems o.ty i.grade i.draw (l * 64) own else own
    [Wr.v l (i.sh.ring l o.d) allOnes (joinElems (elemBits o) own') (some tag),
     Wr.v l (i.sh.ring l (slotC o).idx) allOnes (if k = 0 then BitVec.ofNat 64 (e0 + 256 * e1) else 0) (some tag)]) ++
  (if tag || fl = 0 then [] else b.map fun l => Wr.f l fl 0)

/-- The registers a block reads, with their lanes: `rs` in every lane, and a vector operand in its first lane. -/
def blockReads (rs : List Nat) (once : Slot) (b : List Nat) : List (Nat × Nat) :=
  (b.flatMap fun m => rs.map fun k => (m, k)) ++ (if once.uni then [] else [(b.headD 0, once.idx)])

/-- Blocks that read a register with an uncorrectable error. -/
def Iss.poisonedBlock (i : Iss) (rs : List Nat) (once : Slot) (b : List Nat) : Bool :=
  (blockReads rs once b).any fun x => i.poisoned x.1 [x.2]

def Iss.tbRun (i : Iss) (o : OpR) (rs : List Nat) (once : Slot) (ds : List Nat) (one : List Nat → List Wr) (s : State) : State :=
  let good := (i.fullBlocks o).filter fun b => !i.poisonedBlock rs once b
  let badL := ((i.fullBlocks o).filter (i.poisonedBlock rs once)).flatMap id
  let ws := good.flatMap one ++ i.guardRows ds
  (i.readsAt fun l => (((i.fullBlocks o).find? fun b => b.contains l).map (blockReads rs once)).getD []).finish
    (if ws.isEmpty then none else some (i.fixed 6 ws))
    ((i.brokenLanes o).map (fun l => (l, Cause.illOperand, 0)) ++ badL.map fun l => (l, Cause.uncorrectable, 0))
    { s with free := s.free + 1 }

def execCvtb (c : Ctl) (o : OpR) (s : State) : Out :=
  issue c s (fun i => tbChecks 0x3C o c.apx o.a (slotC o) i.sh.w) fun i =>
    i.tbRun o ((List.range (laneElems o / 2)).map fun k => o.a + k) (slotB o) [o.d, (slotC o).idx] (i.cvtbBlock o)

/-- CVTX on one block (R138). -/
def Iss.cvtxBlock (i : Iss) (o : OpR) (b : List Nat) : List Wr :=
  let l0 := b.headD 0
  let ex := i.sh.v l0 (slotB o).idx
  let tag := i.c.apx || b.any fun l => i.aG.contains l || (i.sh.v l (slotB o).idx).tag || (i.sh.v l o.a).tag
  let val (l j : Nat) : Nat :=
    (FFmt.f32.round .rne (tbValue (isTb8 o) (elem (elemBits o) j (i.sh.v l o.a).bits)
      (elem 8 0 ex.bits) (elem 8 1 ex.bits))).1
  b.flatMap fun l =>
    (List.range (laneElems o / 2)).map fun r =>
      let pair := [val l (2 * r), val l (2 * r + 1)]
      let pair' := if i.c.apx then exposeElems .f32 i.grade i.draw (l * 64 + 2 * r) pair else pair
      Wr.v l (i.sh.ring l (o.d + r)) allOnes (joinElems 32 pair') (some tag)

def execCvtx (c : Ctl) (o : OpR) (s : State) : Out :=
  issue c s (fun i => tbChecks 0x3D o c.apx o.d (slotB o) i.sh.w) fun i =>
    i.tbRun o [o.a] (slotB o) ((List.range (laneElems o / 2)).map fun k => o.d + k) (i.cvtxBlock o)

end Sys2Proof.Machine
end

