-- ==== Sys2Proof/Machine/Cross.lean ====
section
/-! DEFINITION. Movement within and across lanes, predicates, flags and tags (R139 to R146). -/

namespace Sys2Proof.Machine

/-! ### SWZ, SHFL, SHFLI (R139 to R141) -/

/-- The selector nibbles of SWZ. -/
def swzSel (o : OpR) (b : Word) : Nat :=
  match o.bc with
  | .imm v => v
  | .regs _ _ => b.toNat % 2 ^ 32

def Iss.swzLane (i : Iss) (o : OpR) (l : Nat) : Word × Bool × Flags :=
  let w := o.ty.width
  let n := 64 / w
  let a := i.srcA o l
  let b := i.srcB o l
  let sel := swzSel o b.bits
  let es := (List.range n).map fun k =>
    let nib := sel / 16 ^ k % 16
    if nib ≥ 8 then 0 else elem w (nib % 8 % n) a.bits
  (joinElems w (if i.c.apx then exposeElems o.ty i.grade i.draw (l * 64) es else es),
    a.tag || (!o.bc.isImm && b.tag) || i.c.apx, 0)

/-- With IM = 1: no width of 8, and no nibble at or above n. -/
def swzBad (o : OpR) : Option Nat :=
  match o.bc with
  | .imm v => if o.ty.width = 8 || v / 16 ^ (64 / o.ty.width) != 0 then some Cause.illOperand else none
  | .regs _ _ => none

/-- SWZ's immediate is a pattern, not a value of the type: R120's test does not bear on it. -/
def patternForm (o : OpR) : OpR := { o with ty := if o.bc.isImm then .n64 else o.ty }

def execSwz (c : Ctl) (o : OpR) (s : State) : Out :=
  issue c s (fun i => rChecks 0x40 0 (patternForm o) c.apx (swzBad o) i.sh.w) fun i =>
    i.colRun (readsOf 0x40 0 o) o (i.swzLane o) (some 4) fun _ => none

/-- Gather elements from lanes: `pick` gives each destination element its source lane and element. -/
def Iss.gather (i : Iss) (o : OpR) (pick : Nat → Nat → Nat × Nat) (tagB : Nat → Bool) (l : Nat) : Word × Bool × Flags :=
  let w := o.ty.width
  let src (sl : Nat) : Val := if i.sh.vacant sl then {} else i.sh.v sl o.a
  let ps := (elemIdx w).map (pick l)
  let es := ps.map fun p => elem w p.2 (src p.1).bits
  (joinElems w (if i.c.apx then exposeElems o.ty i.grade i.draw (l * 64) es else es),
    (ps.any fun p => (src p.1).tag) || tagB l || i.c.apx, 0)

/-- The lanes whose registers a gather reads: a vacant one reads as zero, and its register is not read (R140). -/
def Iss.gatherFrom (i : Iss) (o : OpR) (pick : Nat → Nat → Nat × Nat) (l : Nat) : List Nat :=
  ((elemIdx o.ty.width).map fun k => (pick l k).1).filter fun sl => !i.sh.vacant sl

/-- A lane whose gather reads a register with an uncorrectable error. -/
def Iss.gatherBad (i : Iss) (o : OpR) (pick : Nat → Nat → Nat × Nat) (l : Nat) : Option Nat :=
  if (i.gatherFrom o pick l).any fun sl => i.poisoned sl [o.a] then some Cause.uncorrectable else none

/-- The registers a gather reads: the lane's own, then the picked lanes'. -/
def Iss.gatherReads (i : Iss) (o : OpR) (rs : List Nat) (pick : Nat → Nat → Nat × Nat) : Iss :=
  i.readsAt fun l => (rs.map fun k => (l, k)) ++ (i.gatherFrom o pick l).map fun sl => (sl, o.a)

def Iss.shflPick (i : Iss) (o : OpR) (l k : Nat) : Nat × Nat :=
  let idx := elem o.ty.width k (i.srcB o l).bits
  (idx % 32, idx / 32 % (64 / o.ty.width))

/-- The register of its own that a lane of SHFL reads: b. -/
def shflReads (o : OpR) : List Nat :=
  match o.bc with
  | .regs sb _ => if sb.uni then [] else [sb.idx]
  | .imm _ => []

def execShfl (c : Ctl) (o : OpR) (s : State) : Out :=
  issue c s (fun i => rChecks 0x41 0 o c.apx none i.sh.w) fun i =>
    (i.gatherReads o (shflReads o) (i.shflPick o)).colRun (shflReads o) o (i.gather o (i.shflPick o) fun l => (i.srcB o l).tag) (some 6)
      (i.gatherBad o (i.shflPick o))

def immOf (o : OpR) : Nat :=
  match o.bc with
  | .imm v => v
  | .regs _ _ => 0

/-- The source lane of SHFLI. -/
def shfliLane (imm l : Nat) : Nat :=
  let k := imm % 32
  match imm / 32 % 8 with
  | 0 => l ^^^ k
  | 1 => if l < k then l else l - k
  | 2 => if l + k > 31 then l else l + k
  | _ => k

def shfliBad (o : OpR) : Option Nat :=
  firstCause [(immOf o / 32 % 8 ≥ 4, Cause.illOperand)]

def execShfli (c : Ctl) (o : OpR) (s : State) : Out :=
  issue c s (fun i => rChecks 0x42 0 (patternForm o) c.apx (shfliBad o) i.sh.w) fun i =>
    (i.gatherReads o [] fun l k => (shfliLane (immOf o) l, k)).colRun [] o (i.gather o (fun l k => (shfliLane (immOf o) l, k)) fun _ => false) (some 6)
      (i.gatherBad o fun l k => (shfliLane (immOf o) l, k))

/-! ### VOTE (R142) -/

/-- The source of a participating lane: a predicate, or a bit of F. -/
def Iss.voteSrc (i : Iss) (a l : Nat) : Bool × Bool :=
  let st := i.sh.strand l
  if a ≥ 64 then (st.flags.getLsbD (a % 8), false) else (st.pval (a % 16), st.ptag (a % 16))

def voteBad (a : Nat) : Option Nat := if a ≥ 64 && a % 8 > 4 then some Cause.illOperand else none

/-- The result is A when a participating lane's source or guard is. -/
def Iss.voteTag (i : Iss) (a : Nat) : Bool := i.on.any fun l => (i.voteSrc a l).2 || i.aG.contains l

/-- VOTE to a predicate. -/
def votePred (fn : Nat) (c : Ctl) (o : OpR) (f : List Bool → Bool) (s : State) : Out :=
  issue c s (fun i => rChecks 0x43 fn o c.apx (voteBad o.a) i.sh.w) fun i s1 =>
    let r := f (i.on.map fun l => (i.voteSrc o.a l).1)
    let ws := i.wrP o.d i.on fun _ => (r, i.voteTag o.a)
    i.finish (if ws.isEmpty then none else some (i.fixed 6 ws)) [] s1

def execVoteAny (c : Ctl) (o : OpR) (s : State) : Out := votePred 0 c o (fun l => l.any id) s
def execVoteAll (c : Ctl) (o : OpR) (s : State) : Out := votePred 1 c o (fun l => l.all id) s

def execVoteBallot (c : Ctl) (o : OpR) (s : State) : Out :=
  issue c s (fun i => rChecks 0x43 2 o c.apx (if o.u then voteBad o.a else some Cause.illOperand) i.sh.w) fun i s1 =>
    let m := maskOf (i.on.filter fun l => (i.voteSrc o.a l).1)
    let ws := i.wrU o.d (m.setWidth 64, i.voteTag o.a)
    i.finish (if ws.isEmpty then none else some (i.fixed 6 ws)) [] s1

/-! ### The predicate family (R143) -/

/-- A member of the predicate family over one or two predicates; x inverts them before use. -/
def predInstr (fn : Nat) (c : Ctl) (o : OpR) (f : Bool → Bool → Bool) (two : Bool) (s : State) : Out :=
  issue c s (fun i => rChecks 0x44 fn o c.apx none i.sh.w) fun i s1 =>
    let b := (slotB o).idx
    let ws := i.wrP o.d i.on fun l =>
      let st := i.sh.strand l
      (f (st.pval o.a != (o.x % 2 == 1)) (two && (st.pval b != (o.x / 2 % 2 == 1))),
        st.ptag o.a || (two && st.ptag b))
    i.finish (if ws.isEmpty then none else some (i.fixed 2 ws)) [] s1

def execPand (c : Ctl) (o : OpR) (s : State) : Out := predInstr 0 c o (fun a b => a && b) true s
def execPor (c : Ctl) (o : OpR) (s : State) : Out := predInstr 1 c o (fun a b => a || b) true s
def execPxor (c : Ctl) (o : OpR) (s : State) : Out := predInstr 2 c o (fun a b => a != b) true s
def execPnot (c : Ctl) (o : OpR) (s : State) : Out := predInstr 3 c o (fun a _ => !a) false s

def execPget (c : Ctl) (o : OpR) (s : State) : Out :=
  issue c s (fun i => rChecks 0x44 4 o c.apx none i.sh.w) fun i =>
    i.colRun [] o (fun l =>
      let pw := (i.sh.strand l).pw
      (pw.setWidth 64, pw.toNat / 2 ^ 16 != 0, 0)) (some 2) fun _ => none

def predIdx : List Nat := List.range 15

def execPset (c : Ctl) (o : OpR) (s : State) : Out :=
  issue c s (fun i => rChecks 0x44 5 o c.apx none i.sh.w) fun i s1 =>
    let good := i.on.filter fun l => !i.poisoned l [o.a]
    let faults := (i.on.filter fun l => i.poisoned l [o.a]).map fun l => (l, Cause.uncorrectable, 0)
    let ws := (good.flatMap fun l =>
        let a := i.sh.v l o.a
        predIdx.map fun k => Wr.p l k (some (a.bits.getLsbD k))
          (some (a.tag || i.aG.contains l || a.bits.getLsbD (16 + k)))) ++
      ((i.offLanes.filter fun l => i.aG.contains l).flatMap fun l =>
        predIdx.map fun k => Wr.p l k none (some true))
    (i.reads [o.a]).finish (if ws.isEmpty then none else some (i.fixed 2 ws)) faults s1

/-! ### Flags (R144) -/

def execFlgrd (c : Ctl) (o : OpR) (s : State) : Out :=
  issue c s (fun i => rChecks 0x45 0 o c.apx none i.sh.w) fun i =>
    i.colRun [] o (fun l => ((i.sh.strand l).flags.setWidth 64, false, 0)) (some 2) fun _ => none

/-- The mask of FLGCLR in a lane, and its tag. -/
def Iss.clrMask (i : Iss) (o : OpR) (l : Nat) : Flags × Bool :=
  match o.bc with
  | .imm v => (BitVec.ofNat 5 v, false)
  | .regs sb _ => ((i.slotVal sb l).bits.setWidth 5, (i.slotVal sb l).tag)

def execFlgclr (c : Ctl) (o : OpR) (s : State) : Out :=
  issue c s (fun i => rChecks 0x45 1 o c.apx none i.sh.w) fun i s1 =>
    let bad (l : Nat) : Bool := i.poisoned l (readsOf 0x45 1 o)
    let ws := ((i.on.filter fun l => !bad l).filter fun l => !(i.aG.contains l || (i.clrMask o l).2)).map fun l =>
      Wr.f l 0 (i.clrMask o l).1
    (i.reads (readsOf 0x45 1 o)).finish (if ws.isEmpty then none else some (i.fixed 2 ws))
      ((i.on.filter bad).map fun l => (l, Cause.uncorrectable, 0)) s1

/-! ### Tags (R145, R146) -/

/-- Make an ENDORSE or ENDP write precise whatever the guard's tag (R145). -/
def preciseWr (ls : List Nat) (w : Wr) : Wr :=
  match w with
  | .v l e m b t => if ls.contains l then .v l e m b (some false) else .v l e m b t
  | .p l k v t => if ls.contains l then .p l k v (some false) else .p l k v t
  | x => x

/-- ENDORSE. A uniform destination is precise by R145 where the guard is true, and A by R49's uniform row when a lane whose
guard is false holds a guard tagged A: R145 leaves such a lane to R49's guard row (DEDUCED, log entry 12). -/
def execEndorse (c : Ctl) (o : OpR) (s : State) : Out :=
  issue c s (fun i => rChecks 0x46 0 o c.apx none i.sh.w) fun i s1 =>
    let bad (l : Nat) : Bool := i.poisoned l (readsOf 0x46 0 o)
    let good := i.on.filter fun l => !bad l
    let ws :=
      if o.u then
        if i.on.isEmpty then i.wrU o.d (0, false)
        else [Wr.u o.d allOnes (i.sh.u o.a).bits (some (i.offLanes.any fun l => i.aG.contains l))]
      else (i.wrV o.d good fun l => ((i.sh.v l o.a).bits, false)).map (preciseWr good)
    (i.reads (readsOf 0x46 0 o)).finish (if ws.isEmpty then none else some (i.fixed 2 ws))
      ((i.on.filter bad).map fun l => (l, Cause.uncorrectable, 0)) s1

def execEndp (c : Ctl) (o : OpR) (s : State) : Out :=
  issue c s (fun i => rChecks 0x47 0 o c.apx none i.sh.w) fun i s1 =>
    let ws := (i.wrP o.d i.on fun l => ((i.sh.strand l).pval o.a, false)).map (preciseWr i.on)
    i.finish (if ws.isEmpty then none else some (i.fixed 2 ws)) [] s1

def execAtag (c : Ctl) (o : OpR) (s : State) : Out :=
  issue c s (fun i => rChecks 0x48 0 o c.apx none i.sh.w) fun i s1 =>
    if o.x % 2 = 1 then
      i.colRun (readsOf 0x48 0 o) o (fun l => ((i.srcA o l).bits, true, 0)) (some 2) (fun _ => none) s1
    else
      let bad (l : Nat) : Bool := i.poisoned l (readsOf 0x48 0 o)
      let ws := i.wrP o.d (i.on.filter fun l => !bad l) fun l => ((i.srcA o l).tag, false)
      (i.reads (readsOf 0x48 0 o)).finish (if ws.isEmpty then none else some (i.fixed 2 ws))
        ((i.on.filter bad).map fun l => (l, Cause.uncorrectable, 0)) s1

end Sys2Proof.Machine
end

