-- ==== Sys2Proof/Machine/Fabric.lean ====
section
/-! DEFINITION. The fabric (R368 to R379): routing and keys, arriving packets, the target's and the source's side of remote
operations, unreachable operations, ports and link notices, and routing banks. -/

namespace Sys2Proof.Machine

/-! ### Routing (R374, R375) -/

def portsAll : List Nat := List.range 32

def State.port (s : State) (p : Nat) : Port := s.fabric.ports.getD p {}

def State.modPort (s : State) (p : Nat) (f : Port → Port) : State :=
  let l := s.fabric.ports ++ List.replicate (32 - s.fabric.ports.length) ({} : Port)
  { s with fabric := { s.fabric with ports := l.modify p f } }

def Fabric.active (f : Fabric) : SMap Word := if f.useB then f.bankB else f.bankA

/-- The better of two ports: fewer queued bytes, the lower on ties. -/
def State.leastQueued (s : State) (ps : List Nat) : Option Nat :=
  ps.foldl (fun (b : Option Nat) p => match b with
    | none => some p
    | some x => if (s.port p).queued < (s.port x).queued then some p else b) none

/-- The port by which a packet leaves; none when it is dropped. -/
def State.routePort (s : State) (p : Packet) : Option Nat :=
  let e := (s.fabric.active.val p.dest 0).toNat
  let ups := portsAll.filter fun k => e.testBit k && (s.port k).up
  let primary := e / 2 ^ 51 % 32
  if e / 2 ^ 63 % 2 == 0 then none
  else if !p.rod && e / 2 ^ 62 % 2 == 1 then s.leastQueued ups
  else if (s.port primary).up then some primary
  else ups.head?

/-- Bytes that a packet takes in a port's queue. -/
def packetBytes (p : Packet) : Nat := 64 + p.msg.data.length

def State.dropPacket (s : State) : State := { s with fabric := { s.fabric with dropped := s.fabric.dropped + 1 } }

/-- A packet joins the queue of its port, and keeps it; one that has made 16 hops is dropped. -/
def State.sendOut (s : State) (p : Packet) : State :=
  if p.hops ≥ 16 then s.dropPacket
  else
    match s.routePort p with
    | none => s.dropPacket
    | some k => s.modPort k fun q => { q with queued := q.queued + packetBytes p, sent := q.sent ++ [p] }

/-- A packet to the package itself (R374), or from a directly attached peer while the pod index is unassigned (R378). -/
def State.isLocal (s : State) (p : Packet) : Bool :=
  match s.fabric.pod with
  | none => p.hops == 0
  | some k => p.dest == k

/-! ### Keys (R377) -/

def keyAccepted (table : List (BitVec 16)) (key : Nat) : Bool :=
  table.any fun e => e.toNat % 32768 != 0 && e.toNat % 32768 == key % 32768 && (e.getLsbD 15 || key / 32768 % 2 == 1)

/-! ### Arrival (R369) -/

def knownOp (op : Nat) : Bool := (1 ≤ op && op ≤ 0x0D) || (0x10 ≤ op && op ≤ 0x13) || op == 0x18

/-- The first fault of a message's header. -/
def headerFault (m : Msg) : Option Nat :=
  if !knownOp m.op then some 0 else if m.version != 1 then some 1 else if m.zero != 0 then some 2 else none

/-- A pool grant reaches the lane that asked for it (R296). -/
def State.remoteGrant (s : State) (m : Msg) : State :=
  match s.fabric.contribs.find? fun e => e.1 == m.tag with
  | none => s
  | some e =>
    let s1 := { s with fabric := s.fabric.answered m.tag }.mergeCover (match e.2.src with
      | .lane t _ _ _ => (s.team? t).elim 0 fun tm => tm.die
      | _ => 0) m.srcPod m.clock
    match e.2.src with
    | .lane t j l iss => ((s1.modSheaf t j fun sh =>
        (sh.modStrand l fun st => st.covered m.srcPod m.clock).grantPool l iss).finishCput t j iss).settled t
    | _ => s1

/-- The fabric's blocks are out of reset: the ports are enabled, and no step of the boot has failed (R383). -/
def State.portsOn (s : State) : Bool := s.power && s.boot ≥ 4 && s.bootFail.isNone

/-- A packet that this package is to take, by way of `src`: its key and its header are checked, then it waits for its operation's
event (R369, R377). -/
def State.takePacket (s : State) (src : Nat) (p : Packet) : State :=
  if !keyAccepted s.fabric.keyTable p.msg.key then s.dropPacket
  else
    match headerFault p.msg with
    | some f =>
      s.record (if p.msg.dstDie < 16 then p.msg.dstDie else 0)
        { kind := LogKind.fabricDiscard, src := src, detail := f, aux := p.msg.srcPod % 2 ^ 14 }
    | none =>
      if p.msg.op == 10 then s.remoteGrant p.msg
      else { s with fabric := { s.fabric with delivered := s.fabric.delivered ++ [p] } }

/-- Messages handed to the transport leave; one to the package itself is delivered as any other is (R374, R377). -/
def State.drainOutbox (s : State) : State :=
  s.fabric.outbox.foldl (fun (x : State) p => if x.fabric.pod == some p.dest then x.takePacket srcDie p else x.sendOut p)
    { s with fabric := { s.fabric with outbox := [] } }

/-- PACKET_ARRIVAL: delivered here, after the key and header checks, or forwarded with one hop more. -/
def execPacketArrival (port : Nat) (p : Packet) (s : State) : Out :=
  if !s.portsOn then .next s
  else if s.isLocal p then .next (s.takePacket (srcPort port) p)
  else if s.fabric.pod.isNone then .next s.dropPacket
  else .next (s.sendOut { p with hops := p.hops + 1 })

/-- Requests of one ROD flow are performed in issue order (R372). -/
def requestOp (op : Nat) : Bool := op == 1 || op == 3 || op == 9 || op == 12

/-- A request of a flow, given by its source package and die, that its home has not judged. -/
def Req.ofFlow (r : Req) (pod die : Nat) : Bool :=
  match r.src with
  | .remote p _ _ => p == pod && r.die == die && (r.kind == .atomic || r.kind.parks)
  | _ => false

/-- An earlier request of a flow waits for its home (R372). -/
def State.flowWaits (s : State) (pod die : Nat) : Bool :=
  (s.sending.any fun r => r.ofFlow pod die) || s.clusters.any fun (e : Nat × Cluster) => e.2.queue.any fun r => r.ofFlow pod die

/-- Take a delivered message of an operation, when its flow's order allows it. -/
def State.takeMsg (s : State) (op : Nat) (m : Msg) : Option State :=
  match s.fabric.delivered.findIdx? fun p => p.msg == m && p.msg.op == op with
  | none => none
  | some n =>
    let before := s.fabric.delivered.take n
    if requestOp op && ((before.any fun p => requestOp p.msg.op && p.msg.srcPod == m.srcPod && p.msg.srcDie == m.srcDie) ||
        s.flowWaits m.srcPod m.srcDie) then none
    else some { s with fabric := { s.fabric with delivered := s.fabric.delivered.eraseIdx n } }

/-- Operation `op` of a delivered message, or nothing where it is not there yet; a package that has not booted, or has failed to,
performs none (R383). -/
def withMsg (op : Nat) (m : Msg) (s : State) (f : State → State) : Out :=
  match if s.portsOn then s.takeMsg op m else none with
  | none => .next s
  | some s1 => .next (f s1)

/-! ### The target's side (R371, R372) -/

/-- The target's translation and checks of a remote access: a physical address or the lane's cause. -/
def State.remotePa (s : State) (vdev va align : Nat) (r w : Bool) : State × (Nat ⊕ Nat) :=
  if va % align != 0 then (s, .inr Cause.misaligned)
  else if va ≥ 2 ^ 52 then (s, .inr Cause.unmapped)
  else
    match s.servicePa vdev va with
    | (s1, none) => (s1, .inr (if (s1.pageOf vdev va).isSome then Cause.permission else Cause.unmapped))
    | (s1, some p) =>
      let perm := (s1.pageOf vdev va).elim false fun m => (!r || m.r) && (!w || m.w)
      let held := (s1.region? p.1).elim false fun g => g.ctx.isSome
      if !perm || !p.2 || held then (s1, .inr Cause.permission) else (s1, .inl p.1)

/-- The request that a message stands for at the target line's home. -/
def remoteReq (kind : ReqKind) (m : Msg) (pa : Nat) : Req :=
  { kind := kind
    src := .remote m.srcPod m.tag m.key
    pa := pa
    va := m.va
    ty := m.ty
    fn := m.fn
    trans := if kind == .atomic then 15 else m.trans
    e := m.e
    g := m.g
    die := m.srcDie
    clock := m.clock }

/-- A request from another package goes to its home, where it takes its place in the queue (R231, R371). -/
def State.sendFor (s : State) (r : Req) : State := { s with ids := s.ids + 1 }.send { r with id := s.ids }

/-- An answer that the target gives without a home, with the clock of the die that answers: die 0 (R372; DESIGN CHOICE, log entry 18). -/
def State.refuseRemote (s : State) (m : Msg) (rod : Bool) (cause : Nat) : State :=
  s.post m.srcPod rod { op := m.op + 1, srcPod := s.ownPod, srcDie := 0, dstDie := m.srcDie, tag := m.tag, key := m.key, cause := cause,
                        clock := (s.die 0).clock }

/-- Send a request to its home, or answer with the cause of a failed check. -/
def State.serveRemote (s : State) (kind : ReqKind) (m : Msg) (align : Nat) (r w : Bool) : State :=
  match s.remotePa m.vdev m.va align r w with
  | (s1, .inl pa) => s1.sendFor (remoteReq kind m pa)
  | (s1, .inr c) => s1.refuseRemote m true c

def execRemoteAtomicRequest (m : Msg) (s : State) : Out :=
  withMsg 1 m s fun s1 => s1.serveRemote .atomic m (m.ty.width / 8) true true

/-- Withdrawal of a parked remote request (R279; log entry 18): answered as withdrawn, unless it has been performed. -/
def State.withdrawRemote (s : State) (m : Msg) : State :=
  let mine (r : Req) : Bool := r.src.isRemote m.srcPod m.tag
  let keep (l : List Req) : List Req := l.filter fun r => !mine r
  let waits := (s.clusters.any fun (e : Nat × Cluster) => e.2.overflow.any mine) ||
    s.dies.any fun (e : Nat × Die) => e.2.parkq.any fun (q : Nat × List Req) => q.2.any mine
  if waits then
    { s with
      clusters := s.clusters.map (fun (e : Nat × Cluster) => (e.1, { e.2 with overflow := keep e.2.overflow })),
      dies := s.dies.map fun (e : Nat × Die) =>
        (e.1, { e.2 with parkq := (e.2.parkq.map fun (q : Nat × List Req) => (q.1, keep q.2)).filter fun q => !q.2.isEmpty }) }.post
      m.srcPod true { op := 4, srcPod := s.ownPod, srcDie := 0, dstDie := m.srcDie, tag := m.tag, key := m.key, hi := 1,
                      clock := (s.die 0).clock }
  else s

/-- The request that a withdrawal names is still in its home's queue, which takes the two in their order of arrival (R279). -/
def State.queuedRemote (s : State) (m : Msg) : Bool :=
  m.fn == 3 && ((s.sending.any fun r => r.src.isRemote m.srcPod m.tag) ||
    s.clusters.any fun (e : Nat × Cluster) => e.2.queue.any fun r => r.src.isRemote m.srcPod m.tag)

def execRemoteStagedRequest (m : Msg) (s : State) : Out :=
  if s.queuedRemote m then .next s
  else withMsg 3 m s fun s1 =>
    if m.fn == 3 then s1.withdrawRemote m
    else
      let kind := if m.fn == 0 then ReqKind.ldt else if m.fn == 1 then .stt else .xtr
      s1.serveRemote kind m (if kind == .xtr then 128 else m.ty.width / 8) (kind != .stt) (kind != .ldt)

/-- A remote copy's read or write of a line of a precise cellar is a request of transition 15 at the line's home (R271). -/
def copyReq (kind : ReqKind) (m : Msg) (pa : Nat) : Req :=
  { remoteReq kind m pa with ty := bitsType m.lo, e := BitVec.ofNat 64 (bytesNat m.data), trans := 15, staged := true }

/-- COPY_READ_REQUEST: the bytes, or a cause; a line of a precise cellar is its home's to read. -/
def execCopyReadRequest (m : Msg) (s : State) : Out :=
  withMsg 5 m s fun s1 =>
    match s1.remotePa m.vdev m.va 1 true false with
    | (s2, .inr c) => s2.refuseRemote m false c
    | (s2, .inl pa) =>
      let d := ownerOf pa
      let back (x : State) (cause : Nat) (bs : List Byte) : State :=
        x.post m.srcPod false { op := 6, srcPod := s.ownPod, srcDie := d, dstDie := m.srcDie, tag := m.tag, key := m.key,
                                cause := cause, data := bs, clock := (x.die d).clock }
      if s2.preciseCellar pa then s2.sendFor (copyReq .load m pa)
      else
        let s3 := s2.applyUpTo d m.clock
        if s3.poisonAt pa m.lo then back (s3.cellarErrorAt pa m.lo m.vdev) Cause.uncorrectable []
        else back s3 0 ((List.range m.lo).map fun k => s3.byteAt d [] (pa + k))

/-- COPY_WRITE: the bytes are written and stamped at the target, and acknowledged; a line of a precise cellar is its home's. -/
def execCopyWrite (m : Msg) (s : State) : Out :=
  withMsg 7 m s fun s1 =>
    match s1.remotePa m.vdev m.va 1 false true with
    | (s2, .inr c) => s2.refuseRemote m false c
    | (s2, .inl pa) =>
      let d := ownerOf pa
      if s2.preciseCellar pa then s2.sendFor (copyReq .store m pa)
      else
        let s3 := (s2.applyUpTo d m.clock).homeWrite d { pa := pa, bytes := m.data }
        s3.post m.srcPod false { op := 8, srcPod := s.ownPod, srcDie := d, dstDie := m.srcDie, tag := m.tag, key := m.key,
                                 clock := (s3.die d).clock }

/-- CONTRIBUTION_REQUEST: the context's queue takes it; a withdrawal takes it back (log entry 18). -/
def execContributionRequest (m : Msg) (s : State) : Out :=
  withMsg 9 m s fun s1 =>
    let mine (c : Contrib) : Bool := c.src.isRemote m.srcPod m.tag
    let d := hDie m.handle
    if m.fn == 3 then
      s1.modDie d fun x => { x with poolQ := x.poolQ.filter (fun c => !mine c), granted := x.granted.filter (fun c => !mine c) }
    else
      (s1.applyUpTo d m.clock).modDie d fun x =>
        { x with poolQ := x.poolQ ++ [{ handle := m.handle, pos := m.pos, src := .remote m.srcPod m.tag m.key }] }

/-- CONTRIBUTION_DATA: the data of a granted contribution reaches its context's input. -/
def execContributionData (m : Msg) (s : State) : Out :=
  withMsg 11 m s fun s1 =>
    let mine (c : Contrib) : Bool := c.src.isRemote m.srcPod m.tag
    s1.modDie (hDie m.handle) fun x =>
      { x with granted := x.granted.filter (fun c => !mine c),
               input := x.input ++ (x.granted.filter mine).map fun c => { c with data := m.data, pos := m.pos } }

/-- REMOTE_SETTLE_REQUEST: answered once every die has applied what it covers. -/
def execRemoteSettleRequest (m : Msg) (s : State) : Out :=
  if s.allApplied m.clock then
    withMsg 12 m s fun s1 => s1.post m.srcPod true
      { op := 13, srcPod := s.ownPod, srcDie := 0, dstDie := m.srcDie, tag := m.tag, key := m.key, clock := (s1.die 0).clock }
  else .next s

/-! ### The source's side (R372) -/

/-- An answer to a lane: the cover takes the target's clock, the lane its value or cause, and the next request of the lane
goes out. A withdrawn request's lane stands at its instruction. -/
def State.remoteAnswer (s : State) (m : Msg) : State :=
  match s.fabric.waits.find? fun w => w.1 == m.tag with
  | none => s
  | some w =>
    let r := w.2
    let s1 := ((s.mergeCover r.die m.srcPod m.clock).modSource r fun st => st.covered m.srcPod m.clock).closeRemote m.tag
    let s2 := { s1 with fabric := { s1.fabric with withdrawn := s1.fabric.withdrawn.filter fun x => x != m.tag } }
    if m.hi == 1 then
      match r.src with
      | .lane t j l _ => s2.modSheaf t j fun sh => if (sh.strand l).waitsOn r.id then sh.unpark l else sh
      | _ => s2
    else
      let v := if r.kind == .stt || m.cause != 0 then none
               else some (if r.kind == .xtr then m.value else extend r.ty m.value.toNat, r.kind != .xtr && r.tag)
      (s2.answerLanes r { cause := m.cause, value := v, acq := m.lo == 1 }).settleSrc r

def execRemoteAtomicAnswer (m : Msg) (s : State) : Out := withMsg 2 m s fun s1 => s1.remoteAnswer m
def execRemoteStagedAnswer (m : Msg) (s : State) : Out := withMsg 4 m s fun s1 => s1.remoteAnswer m

/-- A remote copy that another package has performed: the lanes that issued the job have reached it (R373). -/
def State.copyReached (s : State) (t seq : Nat) (m : Msg) : State :=
  if m.cause != 0 then s
  else s.modTeam t fun tm => (tm.job? seq).elim tm fun q => tm.modSheaf q.sheaf fun sh => sh.modLanes (lanesOf q.lanes) fun st =>
    if st.run == .vacant then st else st.reached m.srcPod

/-- A remote copy's read or write is answered: the job takes the bytes, or its write-pointer passes the unit, or it fails. -/
def State.copyAnswer (s : State) (m : Msg) : State :=
  match s.fabric.copies.find? fun c => c.1 == m.tag with
  | none => s
  | some c =>
    let t := c.2.1
    let seq := c.2.2.1
    let which := c.2.2.2.1
    let die := (s.team? t).elim 0 fun tm => tm.die
    let s1 := ({ s with fabric := { s.fabric with copies := s.fabric.copies.filter fun x => x.1 != m.tag } }.mergeCover die m.srcPod
      m.clock).closeRemote m.tag
    let s2 := (s1.setJob t seq fun q => { q with waiting := false }).copyReached t seq m
    if m.cause != 0 then s2.setJob t seq fun q => { q with fail := some (m.cause, q.remoteVa) }
    else if which == 0 then s2.setJob t seq fun q => { q with source := some m.data }
    else if which == 1 then s2.setJob t seq fun q => { q with target := some m.data }
    else
      match (s2.team? t).bind fun tm => tm.job? seq with
      | some j => (s2.advanceWp t seq j.unitBytes).settled t
      | none => s2

def execCopyReadData (m : Msg) (s : State) : Out := withMsg 6 m s fun s1 => s1.copyAnswer m
def execWriteAcknowledgement (m : Msg) (s : State) : Out := withMsg 8 m s fun s1 => s1.copyAnswer m

def State.settleTag (s : State) (tag : Nat) : State :=
  { s with
    settles := s.settles.map (fun x => { x with remote := x.remote.filter fun y => y != tag }),
    fabric := s.fabric.answered tag }

/-- REMOTE_SETTLE_ANSWER: the cover of the settling strand's die takes the answer's clock (R372). -/
def execRemoteSettleAnswer (m : Msg) (s : State) : Out :=
  withMsg 13 m s fun s1 =>
    (match s1.settles.find? fun (x : Settle) => x.remote.contains m.tag with
     | some x => s1.mergeCover ((s1.team? x.t).elim 0 fun tm => tm.die) m.srcPod m.clock
     | none => s1).settleTag m.tag

/-! ### Unreachable operations (R368) -/

/-- OPERATION_UNREACHABLE: no path has acknowledged the operation in the 2 ms since it was handed to the transport; the lane or job
that started it takes unmapped. -/
def execOperationUnreachable (tag : Nat) (s : State) : Out :=
  if s.time < s.fabric.sentAt.val tag s.time + 4000000 then .next s
  else match s.fabric.waits.find? fun w => w.1 == tag with
  | some w => .next (((s.closeRemote tag).answerLanes w.2 { cause := Cause.unmapped }).settleSrc w.2)
  | none =>
    match s.fabric.copies.find? fun c => c.1 == tag with
    | some c =>
      .next (({ s with fabric := { s.fabric with copies := s.fabric.copies.filter fun x => x.1 != tag } }.closeRemote tag).setJob
        c.2.1 c.2.2.1 fun q => { q with waiting := false, fail := some (Cause.unmapped, q.remoteVa) })
    | none =>
      match s.fabric.contribs.find? fun e => e.1 == tag with
      | some e =>
        let s1 := { s with fabric := { s.fabric with contribs := s.fabric.contribs.filter fun x => x.1 != tag } }
        (match e.2.src with
         | .lane t j l iss =>
           .next (((s1.modSheaf t j fun sh =>
             if (sh.strand l).park == .pool iss false || (sh.strand l).park == .pool iss true then
               (sh.modStrand l fun st => { st with run := .active, park := .nothing }).raise iss 0 [(l, Cause.unmapped, e.2.offset)]
             else sh).finishCput t j iss).settled t)
         | _ => .next s1)
      | none =>
        match s.fabric.dataOut.find? fun e => e.1 == tag with
        | some e =>
          let s1 := { s with fabric := { s.fabric with dataOut := s.fabric.dataOut.filter fun x => x.1 != tag }.answered tag }
          (match e.2.1 with
           | .lane t j l _ => .next (s1.modSheaf t j fun sh =>
               if sh.vacant l then sh else sh.raise sh.iss 0 [(l, Cause.unmapped, e.2.2)])
           | _ => .next s1)
        | none =>
          match s.settles.find? fun x => x.remote.contains tag with
          | some x =>
            .next ((s.settleTag tag).modSheaf x.t x.j fun sh => sh.raise x.seq 0 (sh.used.map fun l => (l, Cause.unmapped, 0)))
          | none => .next s

/-! ### Journal queries (R369, R382) -/

def State.session? (s : State) (id : Nat) : Option Session := s.service.sessions.find? fun x => x.id == id

/-- A session's role sees a session's records: a tenant sees its own sessions, those of role 0 for its virtual device (DESIGN
CHOICE, log entry 34). -/
def State.seesSession (s : State) (asker id : Nat) : Bool :=
  match s.session? asker, s.session? id with
  | some a, some x => a.role != 0 || (x.role == 0 && x.vdev == a.vdev)
  | _, _ => false

/-- The records that a query returns: of a SESSION, or of a JSEQ range. -/
def State.queryJournal (s : State) (asker session lo hi : Nat) : List JRec :=
  s.service.journal.filter fun r =>
    (if session != 0 then r.session == session else lo ≤ r.jseq && r.jseq ≤ hi) && s.seesSession asker r.session

/-- A journal record's 64 bytes (R382). -/
def JRec.image (r : JRec) : List Byte :=
  natBytes 8 r.jseq ++ natBytes 8 r.time ++ natBytes 8 r.session ++ natBytes 8 r.seq ++ natBytes 2 r.code ++ natBytes 2 r.status ++
  zeros 4 ++ natBytes 8 r.result.toNat ++ (natBytes 16 r.digest.toNat).reverse

/-- JOURNAL_QUERY: `value` is the asking session, `word` the session asked for, else the range lo to hi; the answer carries the
records. -/
def execJournalQuery (m : Msg) (s : State) : Out :=
  withMsg 0x12 m s fun s1 =>
    let rs := s1.queryJournal m.value.toNat m.word.toNat m.lo m.hi
    let answer : Response := { session := m.value.toNat, jrecs := rs }
    { s1 with service := { s1.service with responses := s1.service.responses ++ [answer] } }.post
      m.srcPod false { op := 0x13, srcPod := s1.ownPod, srcDie := 0, dstDie := m.srcDie, tag := m.tag, key := m.key,
                              data := rs.flatMap JRec.image }

/-! ### Ports and link notices (R379) -/

/-- A notice enters a subscriber's ring of 256 records, under the rules of R314. -/
def NoticeRing.append (r : NoticeRing) (n : Notice) : NoticeRing :=
  let n' : Notice := { n with flags := if r.loss then 1 else 0 }
  if r.write - r.read < 256 then { r with ring := r.ring.put (r.write % 256) n', write := r.write + 1, loss := false }
  else { r with dropped := r.dropped + 1, loss := true }

def State.notify (s : State) (n : Notice) : State :=
  { s with fabric := { s.fabric with seen := (n.origin, n.seq) :: s.fabric.seen, rings := s.fabric.rings.map fun r => r.append n } }

/-- A notice as a message, with the key of its notice (R377). -/
def noticeMsg (key : Nat) (n : Notice) : Msg :=
  { op := 0x18, srcPod := n.origin, tag := n.seq, key := key, value := BitVec.ofNat 64 n.time, lo := n.peer, hi := n.port, fn := n.kind }

def msgNotice (m : Msg) : Notice :=
  { time := m.value.toNat, seq := m.tag, origin := m.srcPod, peer := m.lo, port := m.hi, kind := m.fn }

/-- A notice leaves over every up port. -/
def State.flood (s : State) (key : Nat) (n : Notice) : State :=
  (portsAll.filter fun k => (s.port k).up).foldl (fun (x : State) k => x.modPort k fun q =>
    let p : Packet := { dest := q.peer, rod := false, msg := noticeMsg key n }
    { q with queued := q.queued + packetBytes p, sent := q.sent ++ [p] }) s

/-- The key of a package's own notices: the management key, a full member (R377; DESIGN CHOICE, log entry 18). -/
def noticeKey : Nat := 0xFFFF

/-- This package reports a change of one of its ports. -/
def State.report (s : State) (port peer kind : Nat) : State :=
  let n : Notice := { time := s.time, seq := s.fabric.noticeSeq + 1, origin := s.ownPod, peer := peer, port := port, kind := kind }
  ({ s with fabric := { s.fabric with noticeSeq := s.fabric.noticeSeq + 1 } }.notify n).flood noticeKey n

/-- LINK_NOTICE: delivered to subscribers and forwarded once for each origin and sequence number; a package whose pod index is
unassigned forwards nothing (R378). -/
def execLinkNotice (m : Msg) (s : State) : Out :=
  withMsg 0x18 m s fun s1 =>
    let n := msgNotice m
    if s1.fabric.seen.contains (n.origin, n.seq) then s1
    else if s1.fabric.pod.isNone then s1.notify n
    else (s1.notify n).flood m.key n

/-- PORT_DOWN: reason 0 the link, 1 errors, 2 its peer's index changed. -/
def execPortDown (port reason : Nat) (s : State) : Out :=
  let q := s.port port
  if q.up && s.portsOn then .next ((s.modPort port fun x => { x with up := false }).report port q.peer (if reason == 2 then 2 else 0))
  else .next s

/-- PORT_UP. -/
def execPortUp (port peer : Nat) (s : State) : Out :=
  if (s.port port).up || !s.portsOn then .next s
  else .next ((s.modPort port fun x => { x with up := true, peer := peer }).report port peer 1)

/-- A notice's 32 bytes. -/
def Notice.image (n : Notice) : List Byte :=
  natBytes 8 n.time ++ natBytes 4 n.seq ++ natBytes 2 n.origin ++ natBytes 2 n.peer ++ natBytes 1 n.port ++ natBytes 1 n.kind ++
  natBytes 1 n.flags ++ zeros 13

/-- A ring's header (R314). -/
def NoticeRing.header (r : NoticeRing) : List Byte := natBytes 8 r.write ++ natBytes 8 r.read ++ natBytes 8 r.dropped ++ zeros 104

/-- The notices that a subscriber has not read, oldest first. -/
def NoticeRing.unread (r : NoticeRing) : List Notice := (List.range (r.write - r.read)).map fun k => r.ring.val ((r.read + k) % 256) {}

/-! ### Banks (R376, R378) -/

/-- BANK_SWAP: the inactive bank becomes active, and an assigned pod index takes effect. -/
def execBankSwap (s : State) : Out :=
  if s.fabric.swapDue then
    .next { s with fabric := { s.fabric with
      useB := !s.fabric.useB, swapDue := false, pod := s.fabric.podNext <|> s.fabric.pod, podNext := none } }
  else .next s

end Sys2Proof.Machine
end

