-- ==== Sys2Proof/Machine/Fetch.lean ====
section
/-! DEFINITION. What a sheaf issues next: the fetched word (R72, R97, R333), whether its port's unit accepts it and the
sheaf is ready (R59, R60, R63, R174), which sheaf a port chooses (R174), and a core's cycle. -/

namespace Sys2Proof.Machine

/-! ### The next word -/

/-- The instruction or trap that a batch at an address issues. -/
def State.nextInstr (s : State) (tm : Team) (pc : Nat) : Instr :=
  match s.fetchAt tm.core tm.vdev pc with
  | .unmapped | .notExecutable => .fetchTrap
  | .approx => .illegal none
  | .word _ w => match decode w with
    | .ok i => i
    | .error r => .illegal (some r)

/-- MAJOR of a word, bits 56:50 (R56). -/
def wordMajor (w : Nat) : Nat := w / 2 ^ 50 % 128

/-- The word's major, which chooses its port; none where nothing is fetched. -/
def State.nextMajor (s : State) (tm : Team) (pc : Nat) : Option Nat :=
  match s.fetchAt tm.core tm.vdev pc with
  | .word _ w => some (wordMajor w.toNat)
  | _ => none

/-- Majors of the vector port (R174). -/
def vectorMajor (m : Nat) : Bool := (0x18 ≤ m && m ≤ 0x48) || (0x60 ≤ m && m ≤ 0x68)

/-- The core keeps the fetched word until it is told to drop it (R333), and the walk fills its TLBs. -/
def State.buffer (s : State) (tm : Team) (pc : Nat) : State :=
  match s.lookup tm.core tm.vdev pc, s.fetchAt tm.core tm.vdev pc with
  | some m, .word pa w => (s.fill tm.core m).modCore tm.core fun c => { c with ibuf := c.ibuf.put pa w }
  | _, _ => s

/-- ILLEGAL: every lane of the batch takes the trap of R72; the word has not issued. -/
def execIllegal (r : Option Reject) (s : State) : Out :=
  match s.iss? {} with
  | none => .next s
  | some i => .next (i.trapAll (Cause.ofReject r) (i.activate s))

/-- FETCH_TRAP: the word at the batch's address cannot be fetched (R97). -/
def execFetchTrap (s : State) : Out :=
  match s.iss? {} with
  | none => .next s
  | some i =>
    let raise (cause : Nat) : State :=
      (i.activate s).modSheaf i.t i.j fun sh => sh.raise i.seq 0 (i.batch.map fun l => (l, cause, i.pc.toNat))
    match s.fetchAt i.core i.tm.vdev i.pc.toNat with
    | .unmapped => .next (raise Cause.fetchUnmapped)
    | .notExecutable => .next (raise Cause.fetchNotExecutable)
    | _ => .next s

/-! ### What a port's unit accepts -/

/-- How an instruction meets the units of the memory and vector ports. -/
inductive Meets where
  | other
  | matrix (store : Bool) -- a sequencer entry, and whether it writes the larder (R192, R195)
  | tret                  -- the larder stores of the handler's lanes are performed (R161)
  | job                   -- a job-table entry (R212)
  | larder (store : Bool) -- a larder access (R195)
  | load                  -- a load or prefetch of global memory (R335)
  | store                 -- a store to it
  | atomic                -- a home's queue, return slots, a reorder buffer (R231, R232, R238)
  | staged                -- a home's queue
  | role                  -- its shadow has issued all that came before (R180)
  | release               -- what happened before it in its lanes goes first (R92, R102, R171, R240, R281, R332, R333)
  | settle                -- besides, it completes with remote operations (R373)
deriving DecidableEq, Repr

def meetsOf : Instr → Meets
  | .wld _ _ | .wswp _ _ | .mma _ _ | .zclr _ _ | .zwr _ _ | .rdc _ _ | .scan _ _ | .chain _ _ => .matrix false
  | .zrd _ _ => .matrix true
  | .tret _ _ => .tret
  | .cpy _ _ | .cpyr _ _ | .cpos _ _ | .dtab _ _ | .dec _ _ => .job
  | .ldl _ _ | .cgate _ _ | .cput _ _ => .larder false
  | .stl _ _ => .larder true
  | .ld _ _ | .lds _ _ | .pref _ _ => .load
  | .st _ _ => .store
  | .aadd _ _ | .amin _ _ | .amax _ _ | .aand _ _ | .aor _ _ | .axor _ _ | .axchg _ _ | .acas _ _ | .afadd _ _ | .afaddO _ _ =>
    .atomic
  | .ldt _ _ | .stt _ _ | .xtr _ _ => .staged
  | .role _ _ => .role
  | .stbl _ _ | .aflush _ _ | .codesync _ _ | .spawn _ _ | .refill _ _ | .waitm _ _ | .bar _ _ | .barx _ _ => .release
  | .settle _ _ | .lnch _ _ => .settle
  | _ => .other

/-- Instructions that can leave a lane waiting: nothing may be outstanding (R63). -/
def waitsQuiet : Instr → Bool
  | .waitm _ _ | .bar _ _ | .barx _ _ | .role _ _ | .ldt _ _ | .stt _ _ | .xtr _ _ | .cslot _ _ | .cput _ _ | .cwait _ _
  | .ewait _ _ => true
  | _ => false

/-- A fence at .system scope of one of the sheaf's lanes is not complete (R373). -/
def State.systemFence (s : State) (t j : Nat) : Bool := s.stores.any fun x => x.2.sys && x.2.sheaf == sheafId t j

/-- A remote request of one of the sheaf's lanes is not complete. -/
def State.remotePending (s : State) (t j : Nat) : Bool :=
  s.fabric.waits.any fun x => match x.2.src with
    | .lane t' j' _ _ | .uniform t' j' _ _ => t' == t && j' == j
    | _ => false

/-! ### Where a word's accesses go -/

/-- One access that a word would make: the lanes it stands for, its place and size. -/
structure Reach where
  lanes : Lanes
  pa : Nat
  size : Nat
deriving DecidableEq, Repr

def reachesOf (u : Bool) (i : Iss) (n : Nat) (ls : List Nat) (acc : Nat → LaneAcc) : List Reach :=
  ls.filterMap fun l => match acc l with
    | .go _ pa _ => some { lanes := maskOf (i.spread u l), pa := pa, size := n }
    | _ => none

/-- The issue that the sheaf's batch would make. -/
def State.probe (s : State) (tm : Team) (j : Nat) (c : Ctl) : Option Iss :=
  { s with cur := some { team := tm.key, sheaf := j } }.iss? c

def Iss.reachM (i : Iss) (o : OpM) (acc : Nat → Nat → Nat → LaneAcc) : List Reach :=
  reachesOf o.u i (o.ty.width / 8) (i.repLanes o.u) fun l => acc (o.ty.width / 8) l (i.memAddr o l)

def Iss.reachX (i : Iss) (s : State) (r w : Bool) (n : Nat) (o : OpX) : List Reach :=
  reachesOf false i n i.on fun l => i.globalAcc s r w true n l (i.xAddr o l)

/-- The completion object that a job instruction registers with (R272). -/
def Iss.reachObject (i : Iss) (s : State) (o : OpE) : List Reach :=
  if o.sn || i.on.isEmpty then []
  else match s.access i.core i.tm.vdev none false false false 1 (i.sh.u o.so).bits.toNat with
    | .ok _ pa => [{ lanes := maskOf i.batch, pa := pa, size := 1 }]
    | _ => []

/-- A sequencer entry that reads or writes the larder is an access of its batch's lanes (R195). -/
def State.reachEntry (s : State) (tm : Team) (j : Nat) (op : SeqOp) (c : Ctl) (o : OpQ) : Option (Iss × List Reach) :=
  match s.probe tm j c with
  | some i => if (i.entry op o).touchesLarder then some (i, []) else none
  | none => none

/-- The issue and its accesses of global memory, where the word makes any; none where it makes no memory access. -/
def State.reaches (s : State) (tm : Team) (j : Nat) : Instr → Option (Iss × List Reach)
  | .ld c o => (s.probe tm j c).map fun i => (i, i.reachM o fun n l a => i.globalAcc s true false false n l a)
  | .lds c o => (s.probe tm j c).map fun i => (i, i.reachM o fun n _ a => i.windowAcc s n a)
  | .st c o => (s.probe tm j c).map fun i => (i, i.reachM o fun n l a => i.globalAcc s false true false n l a)
  | .ldl c _ | .stl c _ | .pref c _ | .cgate c _ | .cput c _ => (s.probe tm j c).map fun i => (i, [])
  | .wld c o => s.reachEntry tm j .wld c o
  | .mma c o => s.reachEntry tm j .mma c o
  | .zrd c o => s.reachEntry tm j .zrd c o
  | .zwr c o => s.reachEntry tm j .zwr c o
  | .rdc c o => s.reachEntry tm j .rdc c o
  | .scan c o => s.reachEntry tm j .scan c o
  | .chain c o => s.reachEntry tm j .chain c o
  | .aadd c o | .amin c o | .amax c o | .aand c o | .aor c o | .axor c o | .axchg c o | .acas c o | .afadd c o | .afaddO c o =>
    (s.probe tm j c).map fun i => (i, i.reachX s true true (o.ty.width / 8) o)
  | .ldt c o => (s.probe tm j c).map fun i => (i, i.reachX s true false (OpX.unit .ldt o) o)
  | .cpy c o | .cpyr c o | .cpos c o | .dtab c o | .dec c o => (s.probe tm j c).map fun i => (i, i.reachObject s o)
  | .stt c o => (s.probe tm j c).map fun i => (i, i.reachX s false true (OpX.unit .stt o) o)
  | .xtr c o => (s.probe tm j c).map fun i => (i, i.reachX s true true (OpX.unit .xtr o) o)
  | _ => none

/-- The homes that take a word's requests have room for all of them (R231). -/
def State.queueRoom (s : State) (pas : List Nat) : Bool :=
  let hs := pas.map homeOf
  hs.all fun h => decide ((s.cluster h).queue.length + (s.waitingFor h).length + (hs.filter fun k => k == h).length ≤ 1024)

/-- So have the reorder buffers for a word's contributions (R238). -/
def State.reorderRoom (s : State) (pas : List Nat) : Bool :=
  let hs := pas.map homeOf
  hs.all fun h => decide ((s.cluster h).reorder.length + (hs.filter fun k => k == h).length +
    (s.outstanding.filter fun r => r.fn == 9 && !r.key.isEmpty && !isFabric r.pa && homeOf r.pa == h).length ≤ 65536)

/-- An earlier atomic of the access's strand to its bytes is not performed: the access waits (R156, R236). -/
def State.overlapsAtomic (s : State) (tm : Team) (j : Nat) (x : Reach) : Bool :=
  (s.atomicsOf (sheafId tm.key j) x.lanes (tm.sheaf j).iss).any fun r =>
    r.span.overlaps { pa := x.pa, bytes := natBytes x.size 0 }

/-- So does an earlier load of its strand (R156). -/
def State.overlapsLoad (s : State) (tm : Team) (j : Nat) (x : Reach) : Bool :=
  (s.loadsOf (sheafId tm.key j) x.lanes (tm.sheaf j).iss).any fun l => l.span.overlaps { pa := x.pa, bytes := natBytes x.size 0 }

/-- An earlier access of its strand to its bytes is to come. -/
def State.overlapsEarlier (s : State) (tm : Team) (j : Nat) (x : Reach) : Bool := s.overlapsAtomic tm j x || s.overlapsLoad tm j x

/-- A store of another strand that the access's strand has seen is not performed on its die: an atomic of the bytes waits for it, so that
it reads no older one (R157). -/
def State.overlapsSeen (s : State) (tm : Team) (j : Nat) (x : Reach) : Bool :=
  s.stores.any fun w => w.2.visibleTo (sheafId tm.key j) tm.core && w.2.overlaps { pa := x.pa, bytes := natBytes x.size 0 }

/-- A fence holds the next accesses of some lanes (R159). -/
def State.fenceHolds (s : State) (t j : Nat) (m : Lanes) (acq rel : Bool) : Bool :=
  s.stores.any fun x => x.2.isMark && ((acq && x.2.acq) || (rel && x.2.rel)) && ofLanes t j m x.2

/-- Every earlier access of the batch can be performed now. -/
def State.lanesDone (s : State) (tm : Team) (j : Nat) : Bool :=
  let m := maskOf (tm.sheaf j).batch
  (s.atomicsOf (sheafId tm.key j) m (tm.sheaf j).iss).isEmpty && (s.loadsOf (sheafId tm.key j) m (tm.sheaf j).iss).isEmpty &&
  s.canFlush (ofLanes tm.key j m)

def afaddForm (tm : Team) : Instr → Bool
  | .afaddO _ _ => true
  | .afadd _ _ => tm.st.phased
  | _ => false

/-- What the memory port's unit asks of a word's accesses. -/
def State.memAccepts (s : State) (tm : Team) (j : Nat) (m : Meets) (ins : Instr) : Bool :=
  match s.reaches tm j ins with
  | none => true
  | some (i, xs) =>
    let on := maskOf i.on
    let staged := (xs.filter fun x => s.preciseCellar x.pa && !isFabric x.pa).map fun x => x.pa
    match m with
    | .load => !s.fenceHolds tm.key j on true false && !(xs.any fun x => s.overlapsEarlier tm j x) && s.queueRoom staged
    | .store => (tm.guarded.isNone || (!s.fenceHolds tm.key j on true true && !(xs.any fun x => s.overlapsEarlier tm j x))) &&
        s.queueRoom staged
    | .larder st => !s.fenceHolds tm.key j on true st
    | .matrix st => !s.fenceHolds tm.key j (maskOf i.batch) true st
    | .atomic =>
      let direct := afaddForm tm ins
      let out := (xs.filter fun x => !isFabric x.pa).map fun x => x.pa
      (direct || i.on.all fun l => decide ((i.sh.strand l).slots < 8)) && !(xs.any fun x => s.overlapsSeen tm j x) &&
      s.queueRoom (if direct then staged else out) && (!direct || s.reorderRoom out)
    | .job => s.queueRoom ((xs.filter fun x => !isFabric x.pa).map fun x => x.pa)
    | .staged => s.lanesDone tm j && s.queueRoom ((xs.filter fun x => !isFabric x.pa).map fun x => x.pa)
    | _ => true

/-- Words of the other kinds whose accesses are translated: STBL's image, LNCH's record, a job's completion object. -/
def translates : Instr → Bool
  | .stbl _ _ | .lnch _ _ => true
  | .cpy _ o | .cpyr _ o | .cpos _ o | .dtab _ o | .dec _ o => !o.sn
  | _ => false

/-- The port's unit takes the instruction from this sheaf's batch. -/
def State.accepts (s : State) (tm : Team) (j : Nat) (i : Instr) : Bool :=
  let sh := tm.sheaf j
  let walks := decide (((s.die tm.die).walks.filter fun w => !w.asked).length < 4160)
  (!waitsQuiet i || sh.quiet) && s.memAccepts tm j (meetsOf i) i && (!translates i || walks) &&
  (match meetsOf i with
   | .other => true
   | .matrix _ => tm.matrix.queue.length < 4
   | .tret => !(tm.matrix.queue.any fun e => e.sheaf == j && e.op == .zrd)
   | .job => !s.systemFence tm.key j && !(tm.jobs.any fun q => q.inFlight && q.seq + 64 ≤ tm.nextSeq + tm.jobWait.length) &&
       s.lanesDone tm j
   | .role => (tm.shadow? j).elim true fun d => d.stream.isEmpty
   | .larder _ => !(tm.matrix.queue.any fun e => e.sheaf == j && e.touchesLarder)
   | .load => walks
   | .store => walks && !s.systemFence tm.key j
   | .atomic | .staged => walks && !s.systemFence tm.key j
   | .release => s.lanesDone tm j
   | .settle => !s.remotePending tm.key j && s.lanesDone tm j && !(tm.matrix.queue.any fun e => e.sheaf == j))

/-! ### Ready sheaves (R174) -/

/-- The queue from a leader to its shadow holds 1,024 issues whose results the shadow takes: the leader stalls (R180). -/
def Team.queueFull (tm : Team) (j : Nat) : Bool :=
  (tm.shadow? j).elim false fun d => decide ((d.stream.filter fun r => r.taken).length ≥ 1024)

/-- Nothing restrains the sheaf: no marker or hold count, no trap to deliver, no answer or decision it waits for; its rail
stands (R253), its shadow's queue has room (R180), its quota lets it run (R259) and what it was restored with has run (R194). -/
def State.free? (s : State) (tm : Team) (j : Nat) : Bool :=
  let sh := tm.sheaf j
  sh.hold == .none && sh.traps.isEmpty && !sh.finished && !(sh.marked && !sh.pend.isEmpty) &&
  decide (sh.nextAt ≤ (s.core tm.core).cycle) && !tm.waitsRail && !tm.queueFull j && !s.powerParked tm j &&
  !(s.cluster (clusterOfCore tm.core)).skips && !(tm.matrix.queue.any fun e => decide (e.id < tm.resuming))

/-- Ready for a port. -/
def State.readyFor (s : State) (mem : Bool) (tm : Team) (j : Nat) : Bool :=
  s.free? tm j && (match (tm.sheaf j).front with
    | none => false
    | some k => ((s.nextMajor tm k.2).elim true fun m => !vectorMajor m) == mem && s.accepts tm j (s.nextInstr tm k.2))

/-- The port's key: highest stage priority, highest role class, longest since it issued there, lowest slot. -/
def portBefore (mem : Bool) (a b : Team × Nat) : Bool :=
  let x := a.1.sheaf a.2
  let y := b.1.sheaf b.2
  let la := if mem then x.lastM else x.lastV
  let lb := if mem then y.lastM else y.lastV
  a.1.st.pri > b.1.st.pri || (a.1.st.pri == b.1.st.pri && (x.cls > y.cls || (x.cls == y.cls &&
    (la < lb || (la == lb && x.slot < y.slot)))))

/-- The ready sheaves of a core, on one port. -/
def State.readyOn (s : State) (core : Nat) (mem : Bool) : List (Team × Nat) :=
  (s.teamsOn core).flatMap fun tm => (tm.sheafIdx.filter fun j => s.readyFor mem tm j).map fun j => (tm, j)

/-- The ready sheaf that has been ready for 4,096 cycles without issuing on the port; the lowest slot of several (R174). -/
def agedOf (mem : Bool) (rs : List (Team × Nat)) : Option (Team × Nat) :=
  let count (r : Team × Nat) : Nat := if mem then (r.1.sheaf r.2).readyM else (r.1.sheaf r.2).readyV
  (rs.filter fun r => decide (count r ≥ 4096)).foldl (fun (b : Option (Team × Nat)) r => match b with
    | none => some r
    | some q => if (r.1.sheaf r.2).slot < (q.1.sheaf q.2).slot then some r else some q) none

/-- The sheaf that a port chooses: an aged one, or the first by the key (R174). -/
def State.pick (s : State) (core : Nat) (mem : Bool) : Option (Team × Nat) :=
  let rs := s.readyOn core mem
  let named := if mem then (s.core core).agedM else (s.core core).agedV
  match agedOf mem rs <|> (named.bind fun a => rs.find? fun r => r.1.key == a.1 && r.2 == a.2) with
  | some r => some r
  | none => rs.foldl (fun (b : Option (Team × Nat)) r => match b with
      | none => some r
      | some q => if portBefore mem r q then some r else some q) none

/-- Teams of a core under a decision hold the lanes that stand at safe points (R351). -/
def State.markCore (s : State) (core : Nat) : State := (s.teamsOn core).foldl (fun (x : State) tm => x.markSafe tm.key) s

/-- The state in which a chosen sheaf's next instruction is performed. -/
def State.issuing (s : State) (tm : Team) (j : Nat) : State :=
  { (s.buffer tm (((tm.sheaf j).front).elim 0 Prod.snd)) with cur := some { team := tm.key, sheaf := j } }

/-- The instruction of a chosen sheaf. -/
def State.chosenInstr (s : State) (tm : Team) (j : Nat) : Instr := s.nextInstr tm (((tm.sheaf j).front).elim 0 Prod.snd)

/-- The port's account of an issue: the sheaf's turn is past, its aging count begins again; a decided team's lanes that have parked or
reached a safe point are seen (R351). -/
def State.issued (s : State) (core : Nat) (mem : Bool) (t j : Nat) : State :=
  let now := (s.core core).cycle + 1
  ((s.modSheaf t j fun sh => if mem then { sh with lastM := now, readyM := 0 } else { sh with lastV := now, readyV := 0 }).modCore
    core fun c =>
      if mem then { c with usedM := true, agedM := if c.agedM == some (t, j) then none else c.agedM }
      else { c with usedV := true, agedV := if c.agedV == some (t, j) then none else c.agedV }).markSafe t

/-! ### A cycle of a core (R61, R174, R257) -/

/-- The aging count of a port: another cycle ready, or none, and then the sheaf is no longer the aged one (R174); a power-parked
sheaf's cycles do not count (R259). -/
def State.aging (s : State) (core : Nat) (mem : Bool) (x : State) : State :=
  let rs := (s.readyOn core mem).map fun r => (r.1.key, r.2)
  let s1 := (s.teamsOn core).foldl (fun (y : State) tm => tm.sheafIdx.foldl (fun (z : State) j =>
    if s.powerParked tm j then z
    else z.modSheaf tm.key j fun sh =>
      let on := rs.contains (tm.key, j)
      if mem then { sh with readyM := if on then sh.readyM + 1 else 0 }
      else { sh with readyV := if on then sh.readyV + 1 else 0 }) y) x
  let runs (a : Nat × Nat) : Bool := (s1.team? a.1).elim false fun tm => (if mem then (tm.sheaf a.2).readyM else (tm.sheaf a.2).readyV) != 0
  s1.modCore core fun c => if mem then { c with agedM := c.agedM.filter runs } else { c with agedV := c.agedV.filter runs }

/-- Corrected errors of the core's stores are counted in its error log (R183). -/
def State.countCorrected (s : State) (core : Nat) : State :=
  (s.core core).corrected.foldl (fun (x : State) e => x.sramEvent (dieOfCore core) true (srcCore core) e.1 e.2.1 e.2.2)
    (s.modCore core fun c => { c with corrected := [] })

/-- Chains that wait in vain for their members since 65,536 cycles of this core (R244). -/
def State.chainsLate (s : State) (core : Nat) : State :=
  ((s.cluster (clusterOfCore core)).chains.filter fun g => g.core == core && !g.formed && s.chainLate g).foldl
    (fun (x : State) g => x.chainTimeOut (clusterOfCore core) g) s

/-- The next cycle of a core: aging, the stall count, fixed-latency results that are due, then what the cycle brings to the borrow
queue, the error log, the chain arbiter and the decided teams (R168, R183, R244, R351). A skipped cycle is none (R258). -/
def State.nextCycle (s : State) (core : Nat) : State :=
  if (s.cluster (clusterOfCore core)).skips then s
  else
    let s1 := s.aging core false (s.aging core true s)
    let idle := !(s.teamsOn core).isEmpty && !(s.core core).usedV && !(s.core core).usedM
    let now := (s.core core).cycle + 1
    let s2 := s1.modCore core fun c =>
      { c with cycle := now, usedV := false, usedM := false, stall := c.stall + (if idle then 1 else 0) }
    let s3 := (s2.teamsOn core).foldl (fun (x : State) tm => x.modTeam tm.key fun q =>
      { q with sheaves := q.sheaves.map fun sh => sh.commitDue now }) s2
    let s4 := ((s3.countCorrected core).serveBorrow core).chainsLate core
    ((s4.teamsOn core).filter fun tm => tm.preempt != .none).foldl (fun (x : State) tm => outState (execCapture tm.key x) x) s4

end Sys2Proof.Machine
end

