-- ==== Sys2Proof/Machine/Ecdsa.lean ====
section
/-! DEFINITION. ECDSA on P-521, which R3 and R384 name: the curve y² = x³ − 3x + b over the field of 2^521 − 1 elements, its base point
and order, and a signature by a key with a nonce. -/

namespace Sys2Proof.Machine
namespace Ecdsa

def field : Nat := 2 ^ 521 - 1

/-- The order of the base point. -/
def order : Nat :=
  0x01FFFFFFFFFFFFFFFFFFFFFFFFFFFFFFFFFFFFFFFFFFFFFFFFFFFFFFFFFFFFFFFFFA51868783BF2F966B7FCC0148F709A5D03BB5C9B8899C47AEBB6FB71E91386409

def base : Nat × Nat :=
  (0x00C6858E06B70404E9CD9E3ECB662395B4429C648139053FB521F828AF606B4D3DBAA14B5E77EFE75928FE1DC127A2FFA8DE3348B3C1856A429BF97E7E31C2E5BD66,
   0x011839296A789A3BC0045C8A5FB42C7D1BD998F54449579B446817AFBD17273E662C97EE72995EF42640C550B9013FAD0761353C7086A272C24088BE94769FD16650)

/-- The power of a number modulo m, for exponents below 2^k. -/
def power (m x : Nat) : Nat → Nat → Nat
  | 0, _ => 1
  | k + 1, e =>
    let h := power m x k (e / 2)
    if e % 2 = 1 then h * h % m * x % m else h * h % m

/-- The inverse modulo a prime below 2^521. -/
def inverse (m x : Nat) : Nat := power m x 521 (m - 2)

/-- A point of the curve; none is the point at infinity. -/
abbrev Point := Option (Nat × Nat)

/-- The third point of the line of a slope through two points, mirrored. -/
def meet (slope : Nat) (a b : Nat × Nat) : Nat × Nat :=
  let x := (slope * slope + 2 * field - a.1 - b.1) % field
  (x, (slope * (a.1 + field - x) + field - a.2) % field)

def add (a b : Point) : Point :=
  match a, b with
  | none, q => q
  | q, none => q
  | some a, some b =>
    if a.1 = b.1 then
      if (a.2 + b.2) % field = 0 then none
      else some (meet ((3 * a.1 * a.1 + field - 3) * inverse field (2 * a.2) % field) a b)
    else some (meet ((b.2 + field - a.2) * inverse field ((b.1 + field - a.1) % field) % field) a b)

/-- The multiple of a point by a number below 2^k. -/
def times (a : Point) : Nat → Nat → Point
  | 0, _ => none
  | k + 1, e =>
    let h := times a k (e / 2)
    if e % 2 = 1 then add (add h h) a else add h h

/-- The signature of a number z by the key d with the nonce k: r and s. -/
def sign (d k z : Nat) : Nat × Nat :=
  let r := (times (some base) 521 k).elim 0 Prod.fst % order
  (r, inverse order k * ((z + r * d) % order) % order)

/-- A signature that the standard accepts: neither r nor s is zero. -/
def good (x : Nat × Nat) : Bool := x.1 != 0 && x.2 != 0

/-- A number of 1 to order − 1. -/
def nonzero (x : Nat) : Nat := x % (order - 1) + 1

end Ecdsa

/-- The package's signature over a digest, r then s (R384): by its fused identity key, with the first nonce that gives one. Key and nonce
are free values (log entry 2); of the nonces 1 and 2, which end the list, one always gives a signature. -/
def packageSignature (digest : BitVec 512) (draw : Nat) : Nat × Nat :=
  let xs := [Ecdsa.nonzero (Config.signingNonce draw), 1, 2].map fun k =>
    Ecdsa.sign (Ecdsa.nonzero Config.identityKey) k digest.toNat
  (xs.find? Ecdsa.good).getD (0, 0)

end Sys2Proof.Machine
end

