-- ==== Sys2Proof/Machine/Reliability.lean ====
section
/-! DEFINITION. The stacks (R308 to R313, R320): bursts, retries, lane swaps, array errors and poison, retraining and the
redirection of a save, activation trackers and bandwidth budgets. -/

namespace Sys2Proof.Machine

/-! ### Channels (R308) -/

/-- The die's number of a line's channel. -/
def channelOf (pa : Nat) : Nat := 32 * stackSide pa + pa / 128 % 32

def State.modStack (s : State) (d side : Nat) (f : Stack → Stack) : State := s.modDie d fun x => x.modStack side f

/-! ### The rings in memory (R314 to R319) -/

/-- A record's 32 bytes (R315). -/
def LogRec.image (r : LogRec) : List Byte :=
  natBytes 8 r.time ++ natBytes 8 r.addr ++ natBytes 4 r.count ++ natBytes 2 r.kind ++ natBytes 2 r.src ++ natBytes 1 r.vdev ++
  natBytes 1 r.flags ++ natBytes 2 r.detail ++ natBytes 4 r.aux

/-- The number at a physical address, as its owning die holds it. -/
def State.numAt (s : State) (pa n : Nat) : Nat := bytesNat ((List.range n).map fun k => s.byteAt (ownerOf pa) [] (pa + k))

def State.putBytes (s : State) (pa : Nat) (bs : List Byte) : State := s.homeWrite (ownerOf pa) { pa := pa, bytes := bs }

/-- Write a record to the ring whose header is at `pa` and whose READ word at `rd`, while it has room; else it is dropped, and the
next one written says so (R314). The record's bytes are performed before WRITE passes it (R317). -/
def State.appendRing (s : State) (pa rd cap : Nat) (l : LogRing) (r : LogRec) : State × LogRing :=
  if (l.write + 2 ^ 64 - s.numAt rd 8) % 2 ^ 64 < cap then
    ((s.putBytes (pa + 128 + 32 * (l.write % cap)) { r with flags := r.flags ||| bit l.loss }.image).putBytes pa
      (natBytes 8 (l.write + 1)), { l with write := l.write + 1, loss := false })
  else (s.putBytes (pa + 16) (natBytes 8 (l.dropped + 1)), { l with dropped := l.dropped + 1, loss := true })

/-- A counter saturates at 2^32 - 1 (R316). -/
def bump (n : Nat) : Nat := min (n + 1) 4294967295

/-- The counter a record carries: per source, but per lane group for lane swaps, per VDEV for row disturbance, per stack for
retraining and per die for faulting arrivals (R316). -/
def counterKey (r : LogRec) : Nat :=
  r.kind * 65536 +
  (if r.kind == LogKind.laneSwapped then 0x1000 + r.src / 4
   else if r.kind == LogKind.rowDisturbance then 0x2000 + r.vdev
   else if r.kind == LogKind.retrain || r.kind == LogKind.saveRedirected then 0x3000 + r.src / 32
   else if r.kind == LogKind.stagedArrivalFault then 0 else r.src)

/-- Which of a die's logs takes a kind: array, transfer or event (R314, R316). -/
def logIndex (kind : Nat) : Nat := if kind / 256 == 1 then 0 else if kind / 256 == 2 then 1 else 2

def Die.log (d : Die) (k : Nat) : LogRing := if k == 0 then d.arrayLog else if k == 1 then d.transferLog else d.eventLog

def Die.setLog (d : Die) (k : Nat) (l : LogRing) : Die :=
  if k == 0 then { d with arrayLog := l } else if k == 1 then { d with transferLog := l } else { d with eventLog := l }

/-- An event counts, then its record is written (R316). -/
def State.writeLog (s : State) (d : Nat) (r : LogRec) : State :=
  let n := bump ((s.die d).counters.val (counterKey r) 0)
  let k := logIndex r.kind
  let x := s.appendRing (Config.logPa d k) (Config.logPa d k + 8) 4096 ((s.die d).log k) { r with count := n }
  x.1.modDie d fun q => { (q.setLog k x.2) with counters := q.counters.put (counterKey r) n }

/-- The guests to whose pages a physical address belongs (R318). -/
def State.guestsOf (s : State) (pa : Nat) : List Nat :=
  (List.range 64).filter fun v => s.pages.any fun m => m.vdev == v && m.pa ≤ pa && pa < m.pa + m.size

/-- The lowest address by which a guest maps a physical address (R319). -/
def State.guestVa (s : State) (v pa : Nat) : Option Nat :=
  (s.pages.filter fun m => m.vdev == v && m.pa ≤ pa && pa < m.pa + m.size).foldl
    (fun b m => let a := m.va + (pa - m.pa)
                match b with
                | none => some a
                | some x => some (min x a)) none

/-- Records that name a line: of memory errors, of faulting arrivals, and of a cellar word's error, whose detail is 4 (R315, R316). -/
def LogRec.hasAddr (r : LogRec) : Bool :=
  r.kind == LogKind.arrayUncorrectable || r.kind == LogKind.transferFailed || r.kind == LogKind.stagedArrivalFault ||
  (r.kind == LogKind.sramUncorrectable && r.detail == 4 && r.addr != 0)

/-- A guest's copy of a record (R319). -/
def State.guestRecord (s : State) (v : Nat) (r : LogRec) : State :=
  let key := v * 65536 + r.kind
  let n := bump (s.service.vcounters.val key 0)
  let a := if r.hasAddr then s.guestVa v r.addr else some 0
  let r' := { r with addr := a.getD 0, src := 0, aux := 0, count := n, flags := if a.isNone then 2 else 0 }
  let x := s.appendRing (Config.queuePa v) (Config.queuePa v + 65536) 256 (s.service.vqueues.val v {}) r'
  { x.1 with service := { x.1.service with
      vcounters := x.1.service.vcounters.put key n, vqueues := x.1.service.vqueues.put v x.2 } }

/-- The guests that receive a copy of a record: by page for memory errors, by the record's own device else (R318). -/
def State.copiesOf (s : State) (r : LogRec) : List Nat :=
  if r.kind == LogKind.arrayUncorrectable || r.kind == LogKind.transferFailed then s.guestsOf r.addr
  else if (r.kind == LogKind.sramUncorrectable || r.kind == LogKind.combineDiscard || r.kind == LogKind.combineError ||
      r.kind == LogKind.stagedArrivalFault) && r.vdev < 64 then [r.vdev]
  else []

/-- Ascending SRC, then KIND (R317). -/
def LogRec.before (a b : LogRec) : Bool := a.src < b.src || (a.src == b.src && a.kind < b.kind)

def insertRec (r : LogRec) : List LogRec → List LogRec
  | [] => [r]
  | x :: l => if r.before x then r :: x :: l else x :: insertRec r l

/-- Records of one cycle in the order in which a log takes them; equals keep theirs. -/
def sortRecs (l : List LogRec) : List LogRec := l.foldl (fun x r => insertRec r x) []

/-- The events of a mesh cycle are counted and written, die by die, then their copies to the guests' queues (R316 to R319). -/
def State.writeLogs (s : State) : State :=
  let evs := s.dies.map fun (e : Nat × Die) => (e.1, sortRecs e.2.events)
  let s1 := evs.foldl (fun (x : State) e =>
    e.2.foldl (fun (y : State) r => y.writeLog e.1 r) (if e.2.isEmpty then x else x.modDie e.1 fun q => { q with events := [] })) s
  (sortRecs (evs.flatMap fun e => e.2)).foldl (fun (x : State) r => (x.copiesOf r).foldl (fun y v => y.guestRecord v r) x) s1

/-- The service maps a guest's virtual error queue: the ring's page to read, the page of READ to write (R318). -/
def State.mapQueue (s : State) (v : Nat) : State :=
  if s.pages.any fun m => m.vdev == v && m.va == Config.queueVa then s
  else
    { s with pages := s.pages ++
      [{ vdev := v, va := Config.queueVa, pa := Config.queuePa v, w := false },
       { vdev := v, va := Config.queueVa + 65536, pa := Config.queuePa v + 65536 }] }

/-- The records of a ring that its reader has not consumed, oldest first, as the memory holds them; the reader then writes READ. -/
def State.drainRing (s : State) (pa rd cap : Nat) (l : LogRing) : List Byte × State :=
  let r := s.numAt rd 8
  let n := if l.write - r > cap then cap else l.write - r
  ((List.range n).flatMap fun k =>
    (List.range 32).map fun b => s.byteAt (ownerOf pa) [] (pa + 128 + 32 * ((r + k) % cap) + b),
   s.putBytes rd (natBytes 8 l.write))

/-! ### Array ECC and poison (R310, R313) -/

/-- Sectors of a line take poison. -/
def State.poisonSectors (s : State) (pa mask : Nat) : State :=
  s.modDie (ownerOf pa) fun d => { d with poison := (List.range 4).foldl (fun (p : SMap Unit) k =>
    if mask.testBit k then p.put (lineOf pa + 32 * k) () else p) d.poison }

def burstAux (b : Burst) : Nat := b.bank % 64 * 2 ^ 26 + b.row % 2 ^ 26

/-- The grade of the page that holds a physical address; 8 where none does. -/
def State.gradeAt (s : State) (pa : Nat) : Nat :=
  ((s.pages.find? fun m => m.pa ≤ pa && pa < m.pa + m.size).map fun m => m.grade).getD 8

/-- The bits of byte `o` of a sector's codeword that the code covers: all of the check bytes and of precise storage, and the
unexposed bits of each unit of approximate storage (R48, R310). -/
def coveredBits (grade width o : Nat) : Nat :=
  if grade = 8 || o ≥ 32 then 255
  else
    let at_ := 8 * (o % (width / 8))
    255 - (2 ^ min 8 (exposureBits width grade - at_) - 1)

/-- The bytes of a sector in which the code finds an error. -/
def State.damaged (s : State) (b : Burst) (sector : Nat) : List Nat :=
  let grade := s.gradeAt b.pa
  let width := (s.die (ownerOf b.pa)).lineW.val (lineOf b.pa) 32
  ((b.damage.filter fun x => x.1 == sector && x.2.2 &&& coveredBits grade width x.2.1 != 0).map fun x => x.2.1).dedup

/-- A burst that has passed parity: a read's sectors are decoded, and delivered corrected or poisoned (R310, R313). An error of more
than one byte is found; R310 promises it of two (DESIGN CHOICE, log entry 31). -/
def State.deliverBurst (s : State) (d : Nat) (b : Burst) : State :=
  if b.write then s
  else
    let r : LogRec := { addr := lineOf b.pa, src := channelOf b.pa, vdev := b.vdev, aux := burstAux b }
    let found := (List.range 4).map fun k => (k, s.damaged b k)
    let s1 := found.foldl (fun (x : State) f => match f.2 with
      | [o] => x.record d { r with kind := LogKind.arrayCorrected, detail := f.1 + 4 * o }
      | _ => x) s
    let mask := found.foldl (fun n f => if f.2.length ≥ 2 then n + 2 ^ f.1 else n) 0
    if mask == 0 then s1
    else (s1.poisonSectors b.pa mask).record d { r with kind := LogKind.arrayUncorrectable, detail := mask }

/-- The first beat and parity group, of 16 lanes, whose even parity fails (R310). -/
def failedParity (b : Burst) : Option (Nat × Nat) :=
  ((List.range 16).flatMap fun t => (List.range 4).map fun g => (t, g)).find? fun x =>
    ((b.flips.filter fun f => f.1 == x.1 && f.2 / 16 == x.2).length) % 2 == 1

/-- The failing lane that the test pattern finds, as its lane group numbers it. -/
def failedLane (b : Burst) : Nat :=
  match failedParity b with
  | none => 0
  | some p => 64 * (b.pa / 128 % 4) + ((b.flips.find? fun f => f.1 == p.1 && f.2 / 16 == p.2).map Prod.snd).getD 0

/-! ### Activations and budgets (R320) -/

/-- The activations of a row, of every device. -/
def activations (m : SMap Nat) : Nat := m.foldl (fun n e => n + e.2) 0

/-- A bank's tracker counts an activation of a row by a device; when it is full, the least counted row gives its entry up (DESIGN
CHOICE, log entry 31). -/
def trackRow (row vdev : Nat) (l : List (Nat × SMap Nat)) : List (Nat × SMap Nat) :=
  match l.find? fun e => e.1 == row with
  | some e => (row, e.2.upd vdev 0 fun n => n + 1) :: l.filter fun x => x.1 != row
  | none =>
    let fresh : Nat × SMap Nat := (row, [(vdev, 1)])
    if l.length < 16 then fresh :: l
    else
      let least := l.foldl (fun n e => min n (activations e.2)) 4096
      match l.find? fun e => activations e.2 == least with
      | some e => fresh :: l.erase e
      | none => fresh :: l

def rowCount (row : Nat) (l : List (Nat × SMap Nat)) : Nat := ((l.find? fun e => e.1 == row).map fun e => activations e.2).getD 0

/-- An activation of a row of a bank (channel × 64 + bank) for a device, by an access of `pa`: the 4,096th refreshes
the neighbours, is logged and charged. -/
def State.activate (s : State) (d side bank row vdev pa : Nat) : State :=
  let s1 := s.modStack d side fun k => { k with
    tracker := k.tracker.upd bank [] (trackRow row vdev)
    rowPa := k.rowPa.put (2048 * row + bank) pa }
  if rowCount row (((s1.die d).stack side).tracker.val bank []) < 4096 then s1
  else
    (s1.modStack d side fun k => { k with
      tracker := k.tracker.upd bank [] fun l => (row, []) :: l.filter fun e => e.1 != row,
      charged := k.charged.upd vdev 0 fun n => n + 8192 }).record d
      { kind := LogKind.rowDisturbance, src := 32 * side + bank / 64 % 32, vdev := vdev, detail := bank % 64, aux := row, addr := pa }

/-- A device's budget for the stack is spent in this interval. -/
def Stack.spent (k : Stack) (vdev : Nat) : Bool :=
  match k.budget.find vdev with
  | some b => decide (k.charged.val vdev 0 ≥ b)
  | none => false

/-- ROW_DISTURBANCE: the 4,096th activation of a row whose count stands at 4,095. The event names no access, so the
record's ADDR is that of the row's last access (DESIGN CHOICE, log entry 31). -/
def execRowDisturbance (stack bank row vdev : Nat) (s : State) : Out :=
  let d := stack / 2
  let side := stack % 2
  let k := (s.die d).stack side
  if rowCount row (k.tracker.val bank []) == 4095 then .next (s.activate d side bank row vdev (k.rowPa.val (2048 * row + bank) 0)) else .next s

/-- ACTIVATION_WINDOW_END: at each multiple of 32 ms the counts begin again, once. -/
def execActivationWindowEnd (stack : Nat) (s : State) : Out :=
  .next (s.modStack (stack / 2) (stack % 2) fun k =>
    if s.time % 64000000 == 0 && k.window < s.time then { k with tracker := [], window := s.time } else k)

/-- BANDWIDTH_INTERVAL: at each multiple of 10 µs nothing is charged yet, once. -/
def execBandwidthInterval (stack : Nat) (s : State) : Out :=
  .next (s.modStack (stack / 2) (stack % 2) fun k =>
    if s.time % 20000 == 0 && k.interval < s.time then { k with charged := [], interval := s.time } else k)

/-! ### Bursts (R310, R311) -/

/-- A lane test stalls the channel of the burst whose third retry has failed (R311). -/
def Stack.testing (k : Stack) (pa id : Nat) : Bool :=
  k.retries.any fun r => r.id != id && decide (r.attempt ≥ 3) && channelOf r.burst.pa == channelOf pa

/-- BURST_COMPLETE: a burst of a die's own stacks, in service and its channel not stalled, is delivered, or a parity failure begins
its retries. A tenant whose budget is spent waits. -/
def execBurstComplete (d : Nat) (b : Burst) (s : State) : Out :=
  let side := stackSide b.pa
  let k := (s.die d).stack side
  if b.pa ≥ 2 ^ 44 || ownerDie b.pa != some d || k.out.isSome || k.spent b.vdev || k.testing b.pa s.ids then .next s
  else
    let s1 := (s.modStack d side fun x => { x with charged := x.charged.upd b.vdev 0 fun n => n + 128 }).activate d side
      (b.pa / 128 % 32 * 64 + b.bank % 64) b.row b.vdev (lineOf b.pa)
    if (failedParity b).isSome then
      .next { s1.modStack d side fun x =>
        { x with retries := x.retries ++ [{ id := s1.ids, burst := b, first := s1.time, since := s1.time }] } with ids := s1.ids + 1 }
    else .next (s1.deliverBurst d b)

def Die.retry? (d : Die) (id : Nat) : Option Retry := (d.stackA.retries ++ d.stackB.retries).find? fun r => r.id == id

def State.dropRetry (s : State) (d id : Nat) : State :=
  let f (k : Stack) : Stack := { k with retries := k.retries.filter fun r => r.id != id }
  (s.modStack d 0 f).modStack d 1 f

def State.keepRetry (s : State) (d : Nat) (r : Retry) : State :=
  let f (k : Stack) : Stack := { k with retries := k.retries.map fun x => if x.id == r.id then r else x }
  (s.modStack d 0 f).modStack d 1 f

def burstRecord (b : Burst) (kind retry : Nat) : LogRec :=
  let p := (failedParity b).getD (0, 0)
  { kind := kind, addr := lineOf b.pa, src := channelOf b.pa, vdev := b.vdev, detail := p.1 + 16 * p.2 + 256 * retry }

/-- A retried burst runs once more with the same array contents. -/
def Die.canRun (d : Die) (r : Retry) : Bool :=
  let k := d.stack (stackSide r.burst.pa)
  k.out.isNone && !k.testing r.burst.pa r.id

/-- BURST_RETRY: retry r begins 8 mesh cycles after the failure before it. The record of one that passes has the time of the
failure that began the retries (R315). -/
def execBurstRetry (d id : Nat) (failed : Bool) (s : State) : Out :=
  match (s.die d).retry? id with
  | none => .next s
  | some r =>
    if r.attempt ≥ 3 || s.time < r.since + 8 || !(s.die d).canRun r then .next s
    else if failed then .next (s.keepRetry d { r with attempt := r.attempt + 1, since := s.time })
    else .next (((s.dropRetry d id).recordAt d r.first (burstRecord r.burst LogKind.transferRetried (r.attempt + 1))).deliverBurst d
      r.burst)

/-- A failed burst's sectors are poisoned. -/
def State.failBurst (s : State) (d : Nat) (b : Burst) : State :=
  (s.poisonSectors b.pa 15).record d (burstRecord b LogKind.transferFailed 3)

/-- LANE_SWAP: after the third failed retry and 500 ns of test, the lane is swapped for a spare and the burst runs once more;
with no spare, or when it fails again, the burst has failed. -/
def execLaneSwap (d id : Nat) (failed : Bool) (s : State) : Out :=
  match (s.die d).retry? id with
  | none => .next s
  | some r =>
    if r.attempt < 3 || s.time < r.since + 1000 || !(s.die d).canRun r then .next s
    else
      let b := r.burst
      let side := stackSide b.pa
      let g := channelOf b.pa % 32 / 4
      let n := ((s.die d).stack side).spares.val g 0
      let s1 := s.dropRetry d id
      if n ≥ 4 then .next (s1.failBurst d b)
      else
        let s2 := (s1.modStack d side fun k => { k with spares := k.spares.put g (n + 1) }).record d
          { kind := LogKind.laneSwapped, addr := lineOf b.pa, src := channelOf b.pa, vdev := b.vdev,
            detail := (failedLane b) % 256 + 256 * g + 2048 * n }
        .next (if failed then s2.failBurst d b else s2.deliverBurst d b)

/-! ### Retraining and saves (R312, R355) -/

/-- The first block of a stack's reserve area: the area is the stack's own blocks of the die's top 2 GiB (R308, R312). -/
def reservePa (d side : Nat) : Nat := d * 2 ^ 40 + Config.reserveBase + 4096 * side

/-- A save's remaining bytes go to the stack. -/
def Save.on (v : Save) (side : Nat) : Bool :=
  (splitBlocks v.done v.blocks).2.any fun b => b.1.elim false fun p => stackSide p == side

/-- The rest of a save goes to the partner's reserve area, in whole blocks behind what it holds of other saves; what has been
written by then lies where it was to lie. Where the save stands when that begins is open. -/
def State.redirectSave (s : State) (d side : Nat) (sv : Save) : State :=
  let size := sv.bytes.length
  let p := 256 + 128 * (Config.unspecified s.free 0 % ((size - 256) / 128))
  let held (v : Save) : Nat := if v.moved then (v.bytes.length - v.done + 4095) / 4096 else 0
  let at_ := (s.die d).saves.foldl (fun n x => n + held x) 0
  let q := recordPa (reservePa d (1 - side)) (4096 * at_)
  let v := { sv with blocks := (splitBlocks p sv.blocks).1 ++ physBlocks q (size - p), done := p, moved := true }
  (({ s with free := s.free + 1 }.writeSave v 0 p).modDie d fun x => { x with saves := x.saves.map fun y => if y == sv then v else y }).record
    d { kind := LogKind.saveRedirected, src := 32 * side, detail := 2 * d + (1 - side), aux := size - p }

/-- Saves that stream to a stack. -/
def Die.savesOn (d : Die) (side : Nat) : List Save := d.saves.filter fun v => v.on side

/-- A record is split once (R355): a save that has been redirected goes on where it goes. -/
def State.redirect (s : State) (d side : Nat) : State :=
  (((s.die d).savesOn side).filter fun v => !v.moved).foldl (fun (x : State) v => x.redirectSave d side v) s

/-- A stack goes out of service. -/
def State.beginRetrain (s : State) (d side detail waited : Nat) : State :=
  (s.modStack d side fun k => { k with out := some s.time, wantRetrain := none }).record d
    { kind := LogKind.retrain, src := 32 * side, detail := detail, aux := waited / 2000 }

/-- RETRAIN: a requested one waits for a save, a mandatory one redirects it. -/
def execRetrain (stack : Nat) (mandatory : Bool) (s : State) : Out :=
  let d := stack / 2
  let side := stack % 2
  let k := (s.die d).stack side
  if k.out.isSome then .next s
  else if mandatory then .next ((s.redirect d side).beginRetrain d side 1 0)
  else if !((s.die d).savesOn side).isEmpty then
    .next (s.modStack d side fun x => { x with wantRetrain := some (x.wantRetrain.getD s.time) })
  else .next (s.beginRetrain d side 0 0)

/-- RETRAIN_SAVE_TIMEOUT: 200 µs after its request the retraining begins all the same. -/
def execRetrainSaveTimeout (stack : Nat) (s : State) : Out :=
  let d := stack / 2
  let side := stack % 2
  match ((s.die d).stack side).wantRetrain with
  | none => .next s
  | some t => if s.time ≥ t + 400000 then .next ((s.redirect d side).beginRetrain d side 0 (s.time - t)) else .next s

/-- RETRAINING_COMPLETE: within 50 µs. -/
def execRetrainingComplete (stack : Nat) (s : State) : Out :=
  .next (s.modStack (stack / 2) (stack % 2) fun k => { k with out := none })

/-- A retraining that waited for the saves of a stack begins when the last has ended. -/
def State.retrainWaiting (s : State) (d side : Nat) : State :=
  match ((s.die d).stack side).wantRetrain with
  | some t => if ((s.die d).savesOn side).isEmpty then s.beginRetrain d side 0 (s.time - t) else s
  | none => s

/-- PRE_EMPTION_SAVE_END: the last of a save's writes has been made; they are visible at every die, and a SAVECTX that waits for them
is answered (R357). A retraining that waited for the saves of either stack begins. -/
def execPreEmptionSaveEnd (stack : Nat) (s : State) : Out :=
  let d := stack / 2
  match (s.die d).saves.find? fun v => v.on (stack % 2) with
  | none => .next s
  | some sv =>
    let s1 := (s.modDie d fun x => { x with saves := x.saves.erase sv }).writeSave sv sv.done sv.bytes.length
    .next ((((s1.applyAll).savectxStatus sv.ask 0).retrainWaiting d 0).retrainWaiting d 1)

/-! ### What time brings (R311, R312, R320) -/

/-- What a die's controllers do by themselves at the present time: the windows and intervals begin, a retraining that has waited
200 µs for a save begins, and one that has taken 50 µs is over. -/
def State.stackTime (s : State) (stack : Nat) : State :=
  let late := ((s.die (stack / 2)).stack (stack % 2)).out.elim false fun t => decide (t + 100000 ≤ s.time)
  let run (x : State) (f : State → Out) : State := outState (f x) x
  let s1 := run (run s (execActivationWindowEnd stack)) (execBandwidthInterval stack)
  let s2 := if late then run s1 (execRetrainingComplete stack) else s1
  run s2 (execRetrainSaveTimeout stack)

end Sys2Proof.Machine
end

