-- ==== Sys2Proof/Machine/Sha512.lean ====
section
/-! DEFINITION. SHA-512, which R3 and R384 name. Words are numbers below 2^64. The standard's tables are computed from what it says they
are: the first 64 fraction bits of the square and cube roots of the first primes. -/

namespace Sys2Proof.Machine
namespace Sha512

/-- The greatest number of at most `n` bits whose k-th power is at most `x`, found from its highest bit down. -/
def rootOf (k x : Nat) : Nat → Nat → Nat
  | 0, r => r
  | n + 1, r => rootOf k x n (if (r + 2 ^ n) ^ k ≤ x then r + 2 ^ n else r)

/-- The first 64 bits of the fraction of the k-th root of p. -/
def rootFraction (k p : Nat) : Nat := rootOf k (p * 2 ^ (64 * k)) 69 0 % 2 ^ 64

/-- The first 80 primes. -/
def primes : List Nat :=
  (List.range 410).filter fun n => n ≥ 2 && (List.range 21).all fun d => d < 2 || d * d > n || n % d != 0

/-- The exclusive or of a word turned right by each of some counts. -/
def turned (x : Nat) (counts : List Nat) : Nat :=
  counts.foldl (fun y n => y ^^^ (x >>> n ||| x <<< (64 - n) % 2 ^ 64)) 0

/-- The message words of a block, the last first: each further word is made of four before it. -/
def spread : Nat → List Nat → List Nat
  | 0, ws => ws
  | n + 1, ws =>
    let back (k : Nat) : Nat := ws.getD (k - 1) 0
    let near := turned (back 2) [19, 61] ^^^ back 2 >>> 6
    let far := turned (back 15) [1, 8] ^^^ back 15 >>> 7
    spread n ((near + back 7 + far + back 16) % 2 ^ 64 :: ws)

/-- The two sequences of a round, A and E of the standard's words a to h: the last four values of each, newest first. -/
structure Lanes where
  a : List Nat
  e : List Nat

/-- One round with its constant and message word: one new value of each sequence. -/
def Lanes.next (x : Lanes) (kw : Nat × Nat) : Lanes :=
  let a (n : Nat) : Nat := x.a.getD n 0
  let e (n : Nat) : Nat := x.e.getD n 0
  let choice := e 2 ^^^ e 0 &&& (e 1 ^^^ e 2)
  let majority := a 0 &&& a 1 ||| a 2 &&& (a 0 ||| a 1)
  let t := e 3 + turned (e 0) [14, 18, 41] + choice + kw.1 + kw.2
  { a := (t + turned (a 0) [28, 34, 39] + majority) % 2 ^ 64 :: x.a.take 3, e := (a 3 + t) % 2 ^ 64 :: x.e.take 3 }

/-- A block's effect on the chaining value: eighty rounds, added word by word. -/
def absorb (v : Lanes) (block : List Nat) : Lanes :=
  let w := ((primes.map (rootFraction 3)).zip (spread 64 block.reverse).reverse).foldl Lanes.next v
  let plus (p q : List Nat) : List Nat := (p.zip q).map fun r => (r.1 + r.2) % 2 ^ 64
  { a := plus v.a w.a, e := plus v.e w.e }

/-- The chaining value before the first block. -/
def fresh : Lanes :=
  let roots := (primes.take 8).map (rootFraction 2)
  { a := roots.take 4, e := roots.drop 4 }

/-- Big-endian words of bytes. -/
def wordsOf : Nat → List Byte → List Nat
  | 0, _ => []
  | n + 1, bs => (bs.take 8).foldl (fun x b => 256 * x + b.toNat) 0 :: wordsOf n (bs.drop 8)

/-- Each block of 128 bytes in turn. -/
def absorbAll : Nat → List Byte → Lanes → Lanes
  | 0, _, v => v
  | n + 1, bs, v => absorbAll n (bs.drop 128) (absorb v (wordsOf 16 bs))

end Sha512

/-- The digest, its first word highest: the message ends with a one bit, zeros and its length in bits. -/
def sha512 (bs : List Byte) : BitVec 512 :=
  let blocks := (bs.length + 17 + 127) / 128
  let tail : Nat := 2 ^ 7 * 256 ^ (128 * blocks - bs.length - 1) + 8 * bs.length
  let v := Sha512.absorbAll blocks (bs ++ (natBytes (128 * blocks - bs.length) tail).reverse) Sha512.fresh
  BitVec.ofNat 512 ((v.a ++ v.e).foldl (fun x w => 2 ^ 64 * x + w) 0)

end Sys2Proof.Machine
end

