-- ==== Sys2Proof/Machine/Snap.lean ====
section
/-! DEFINITION. Snapshots (R385, R386) and the boot and the loss of power (R365, R378, R383, R382). -/

/-- FREE VALUE (log entry 3). The bytes in which SNAPREAD gives what the snapshot registers copied: R385 has them copy each block's
visible state and gives it no layout. A field of Config that stands here because its type is the state's. -/
opaque Sys2Proof.Config.snapshotImage (b : Sys2Proof.Machine.Blocks) : List Sys2Proof.Byte

namespace Sys2Proof.Machine

/-! ### Snapshots -/

/-- The visible state of every block. -/
def State.blocks (s : State) : Blocks :=
  { teams := s.teams, cores := s.cores, clusters := s.clusters, dies := s.dies, fabric := s.fabric }

/-- The trigger: every block's snapshot registers latch at once, or the held snapshot counts it as missed (R385). -/
def State.trigger (s : State) (code core source : Nat) : State :=
  if s.snapshot.held then { s with snapshot := { s.snapshot with missed := min 255 (s.snapshot.missed + 1) } }
  else
    let n : Snapshot := { held := true, code := code % 256, core := core, source := source, time := s.time, blocks := s.blocks }
    { s with snapshot := n }

/-- SNAP: privileged, or in a team of a DEBUG launch; once per issue when some guard is true (R386). -/
def execSnap (c : Ctl) (o : OpS) (s : State) : Out :=
  issuePriv (fun i => i.tm.priv || i.tm.debug) c s (fun _ => none) fun i s1 =>
    if i.on.isEmpty then i.finish none [] s1 else i.finish (some (i.variable [])) [] (s1.trigger o.sel i.core 0)

/-- SNAPSHOT_TRIGGER: source 1 the host, 2 a management core. -/
def execSnapshotTrigger (source code : Nat) (s : State) : Out := .next (s.trigger code 0 source)

/-! ### Power -/

/-- Nothing of the package's contents is left; what the fuses hold stays. -/
def State.blank (s : State) : State :=
  let fused := (s.clusters.filter fun (e : Nat × Cluster) => e.2.fused).map fun e => (e.1, ({ fused := true } : Cluster))
  { State.reset with clusters := fused, turns := s.turns, free := s.free }

/-- POWER_ON: the boot's five steps (R383). Every buffer is zeroed and the standard classes are loaded; a step that fails
leaves its number. A package that has booted does not boot again. -/
def execPowerOn (failStep : Option Nat) (s : State) : Out :=
  if s.power && (s.boot != 0 || s.bootFail.isSome) then .next s
  else
    match failStep with
    | some k => .next { s.blank with power := true, boot := k - 1, bootFail := some k }
    | none => .next { s.blank with power := true, boot := 5 }

/-- POWER_OFF: the journal, the session table, lane swaps and every other held state are gone (R382). -/
def execPowerOff (s : State) : Out := .next { s.blank with power := false }

end Sys2Proof.Machine
end

