-- ==== Sys2Proof/Machine/HostCmd.lean ====
section
/-! DEFINITION. The host's commands (R380 to R386, R394 to R396): sessions, acceptance and the journal, and each command.
Status numbers are the model's own (log entry 20): 0 performed, 1 the session's role does not allow it, 2 no open session,
3 refused by the command's own rule, 4 a malformed header, 0xFFFD EXPIRED, 0xFFFE OUT-OF-ORDER. -/

namespace Sys2Proof.Machine

/-! ### The protocol (R380 to R382) -/

/-- What a performed command answers. -/
structure Done where
  status : Nat := 0
  result : Word := 0
  body : List Byte := []
deriving DecidableEq, Repr

def Done.refused : Done where
  status := 3

def State.respond (s : State) (m : Cmd) (d : Done) (dup : Bool) : State :=
  let r : Response := { session := m.session, seq := m.seq, status := d.status, result := d.result, dup := dup, body := d.body }
  { s with service := { s.service with responses := s.service.responses ++ [r] } }

/-- Room for one more record in a ring of 65,536: the oldest that is not being performed goes. -/
def journalRoom (l : List JRec) : List JRec :=
  if l.length < 65536 then l
  else match l.findIdx? fun r => r.status != 0xFFFF with
    | some k => l.eraseIdx k
    | none => l

/-- The next-in-order command is accepted: its record is written, HIGH rises. -/
def State.acceptCmd (s : State) (code : Nat) (m : Cmd) : State :=
  let r : JRec := { jseq := s.service.jseq + 1, time := s.time, session := m.session, seq := m.seq, code := code,
                    digest := ((sha512 m.body).toNat / 2 ^ 384 : Nat) }
  { s with service := { s.service with
      jseq := s.service.jseq + 1,
      journal := journalRoom s.service.journal ++ [r],
      sessions := s.service.sessions.map fun x => if x.id == m.session then { x with high := m.seq } else x } }

/-- The record's outcome is completed. -/
def State.completeCmd (s : State) (m : Cmd) (d : Done) : State :=
  { s with service := { s.service with journal := s.service.journal.map fun r =>
      if r.session == m.session && r.seq == m.seq then { r with status := d.status, result := d.result } else r } }

/-- Every record of a full ring is still being performed: a command waits for acceptance (R382). -/
def journalFull (l : List JRec) : Bool := decide (l.length ≥ 65536) && l.all fun r => r.status == 0xFFFF

/-- The header's zeros, or its LENGTH, are not as R380 lays it out: no rule says what becomes of the command, and here it is answered
with status 4 and not accepted (DESIGN CHOICE, log entry 20). -/
def cmdMalformed (m : Cmd) : Bool := m.zero != 0 || m.length != m.body.length

/-- A command of a session, by R381: out of order, repeated, or accepted and performed; then the response. A package that
has not booted answers none; a packet whose key is not accepted is dropped (R377). -/
def command (code : Nat) (roles : List Nat) (m : Cmd) (s : State) (run : Session → State → State × Done) : Out :=
  if !s.power || s.boot != 5 then .next s
  else if !keyAccepted s.fabric.keyTable m.key then .next s.dropPacket
  else
    match s.session? m.session with
    | none => .next (s.respond m { status := 2 } false)
    | some x =>
      if cmdMalformed m then .next (s.respond m { status := 4 } false)
      else if m.seq > x.high + 1 then .next (s.respond m { status := 0xFFFE } false)
      else if m.seq ≤ x.high then
        match s.service.journal.find? fun r => r.session == m.session && r.seq == m.seq with
        | some r => .next (s.respond m { status := r.status, result := r.result } true)
        | none => .next (s.respond m { status := 0xFFFD } true)
      else if journalFull s.service.journal then .next s
      else
        let s1 := s.acceptCmd code m
        let r := if !x.isOpen then (s1, ({ status := 2 } : Done)) else if !roles.contains x.role then (s1, { status := 1 }) else run x s1
        .next ((r.1.completeCmd m r.2).respond m r.2 false)

def anyRole : List Nat := [0, 1, 2]

/-- OPEN: the header's SESSION names the session that begins, and the command is its first, SEQ 1; any other SEQ begins none, and is
out of order or, being 0, long past. Roles 1 and 2 are granted only under the management key. -/
def execOpenCmd (m : Cmd) (role vdev : Nat) (s : State) : Out :=
  if !s.power || s.boot != 5 then .next s
  else if (s.session? m.session).isSome then
    command 1 anyRole m s fun _ s1 => (s1, Done.refused)
  else if !keyAccepted s.fabric.keyTable m.key then .next s.dropPacket
  else if cmdMalformed m then .next (s.respond m { status := 4 } false)
  else if m.seq > 1 then .next (s.respond m { status := 0xFFFE } false)
  else if m.seq == 0 then .next (s.respond m { status := 0xFFFD } true)
  else if journalFull s.service.journal then .next s
  else if role > 2 || (role != 0 && m.key % 32768 != 0x7FFF) || vdev ≥ 64 then .next (s.respond m { status := 1 } false)
  else
    let n : Session := { id := m.session, role := role, vdev := vdev }
    command 1 anyRole m { s with service := { s.service with sessions := s.service.sessions ++ [n] } } fun _ s1 => (s1, {})

def execCloseCmd (m : Cmd) (s : State) : Out :=
  command 1 anyRole m s fun x s1 =>
    ({ s1 with service := { s1.service with sessions := s1.service.sessions.map fun y =>
        if y.id == x.id then { y with isOpen := false } else y } }, {})

/-! ### Regions (R262, R365, R366) -/

/-- A cellar region of a die, zeroed and mapped, for a device; the cache has left its granules (R263). -/
def State.allocCellar (s : State) (vdev d : Nat) (a : AllocLine) (code : Option Nat) : Option (State × Nat) :=
  let n := (a.bytes + 1048575) / 1048576
  match (s.die d).findRun n, s.freshVa (n * 1048576) with
  | some g, some va =>
    let r : Region :=
      { pa := cellarPa d (g * 1048576), bytes := a.bytes, va := va, vdev := vdev, grade := a.grade, code := code,
        named := a.die.isSome || code.isNone }
    let s1 := s.openRegion d r
    some ((List.range (16 * n)).foldl (fun (x : State) k =>
      x.install { vdev := vdev, va := va + 65536 * k, pa := r.pa + 65536 * k, grade := a.grade }) s1, va)
  | _, _ => none

/-- A global region: its pages are mapped when they are first reached (R394); a code object's are mapped as it is placed. -/
def State.allocGlobal (s : State) (vdev d : Nat) (asked : Bool) (a : AllocLine) : Option (State × Nat) :=
  (s.freshVa a.bytes).map fun va =>
    let g : GRegion := { vdev := vdev, va := va, bytes := a.bytes, grade := a.grade, die := d, asked := asked }
    ({ s with service := { s.service with regions := s.service.regions ++ [g] } }, va)

/-- Bytes written by the service, page by page. -/
def State.serviceFill (s : State) (vdev va : Nat) (bs : List Byte) : State :=
  (List.range ((bs.length + 65535) / 65536)).foldl (fun (x : State) k =>
    x.serviceWrite vdev (va + 65536 * k) ((bs.drop (65536 * k)).take 65536)) s

/-- A region as an .alloc line or ALLOC asks: in the cellar or the stacks of a named die, or of lid.die 0 of the device's
partition. -/
def State.allocRegion (s : State) (vdev : Nat) (a : AllocLine) (code : Option Nat) : Option (State × Nat) :=
  let d := a.die.getD ((s.partDies (s.partOf vdev)).headD 0)
  if a.bytes == 0 || a.grade > 8 || d ≥ 16 || (!a.cellar && a.die.isSome) || a.image.length > a.bytes then none
  else
    let r := if a.cellar then s.allocCellar vdev d a code else s.allocGlobal vdev d true a
    r.map fun x => (x.1.serviceFill vdev x.2 a.image, x.2)

/-- What the service reports of a region (R147, R390): its global address, and its window offset when it lies in a cellar,
else all ones; eight bytes each (DESIGN CHOICE, log entry 36). -/
def State.regionReport (s : State) (vdev va : Nat) : List Byte :=
  natBytes 8 va ++ natBytes 8 (match s.regionAt vdev va with
    | some r => r.pa - cellarPa (ownerOf r.pa) 0
    | none => 2 ^ 64 - 1)

/-- ALLOC: the region's address is the result, and the body its report. -/
def execAllocCmd (m : Cmd) (a : AllocLine) (s : State) : Out :=
  command 3 [0] m s fun x s1 =>
    match s1.allocRegion x.vdev a none with
    | none => (s1, Done.refused)
    | some r => (r.1, { result := BitVec.ofNat 64 r.2, body := r.1.regionReport x.vdev r.2 })

/-- FREE: a region of the session's device that no running launch owns and no combine context holds. -/
def execFreeCmd (m : Cmd) (va : Nat) (s : State) : Out :=
  command 3 [0] m s fun x s1 =>
    match s1.regionAt x.vdev va with
    | some r => if !s1.unowned r || r.ctx.isSome then (s1, Done.refused) else (s1.freeRegion r, {})
    | none =>
      match s1.service.regions.find? fun g => g.asked && g.vdev == x.vdev && g.va == va with
      | none => (s1, Done.refused)
      | some g =>
        let s2 := s1.unmapRange g.vdev g.va g.bytes
        ({ s2 with service := { s2.service with regions := s2.service.regions.filter fun q => !(q.vdev == x.vdev && q.va == va) } }, {})

/-! ### LOAD (R73 to R75, R164, R172, R342, R387) -/

/-- The header of a code object (R73), and its sections inside it. -/
def headerOk (bs : List Byte) : Bool :=
  let section_ (off size : Nat) : Bool := off % 8 == 0 && decide (off + size ≤ bs.length)
  decide (bs.length ≥ 128) && field bs 0 4 == 0x4C535254 && field bs 4 2 == 0x0100 && field bs 6 2 == 0 &&
  field bs 0x08 8 % 128 == 0 && field bs 0x10 8 % 8 == 0 && decide (field bs 0x10 8 < 2 ^ 32) &&
  section_ (field bs 0x08 8) (field bs 0x10 8) && section_ (field bs 0x18 8) (32 * field bs 0x20 8) &&
  section_ (field bs 0x28 8) (512 * field bs 0x30 8) && section_ (field bs 0x38 8) (field bs 0x40 8) &&
  section_ (field bs 0x48 8) (256 * field bs 0x50 8) && decide (1 ≤ field bs 0x50 8) && decide (field bs 0x50 8 ≤ 8) && zeroAt bs 0x58 40

/-- A side-table entry (R74). -/
def safeAt (bs : List Byte) (o : Nat) : SafePoint :=
  let w := field bs o 8
  { offset := w % 2 ^ 32
    vlive := BitVec.ofNat 128 (field bs (o + 16) 16)
    slive := BitVec.ofNat 64 (field bs (o + 8) 8)
    zlive := BitVec.ofNat 16 (w / 2 ^ 48)
    mlive := BitVec.ofNat 12 (w / 2 ^ 36)
    eng := w / 2 ^ 35 % 2 == 1
    kind := w / 2 ^ 33 % 4 }

/-- The side table's rule (R75), with the reserved bit and kind (R74). -/
def safeOk (bs : List Byte) (os : List Nat) (size : Nat) : Bool :=
  let es := os.map fun o => safeAt bs o
  let word (o : Nat) : Nat := field bs (field bs 0x08 8 + o) 8
  let marked (o : Nat) : Bool := 8 ≤ o && (word (o - 8)).testBit 61
  let parks (o : Nat) : Bool := o < size && (match decode (BitVec.ofNat 64 (word o)) with
    | .ok i => waitsQuiet i
    | .error _ => false)
  (es.all fun e => !(e.kind == 0 && marked e.offset && parks e.offset)) &&
  (es.all fun e => e.offset % 8 == 0 && decide (e.offset ≤ size) && e.kind != 3) &&
  (os.all fun o => field bs o 8 / 2 ^ 32 % 2 == 0) && (es.zip (es.drop 1)).all fun p => decide (p.1.offset < p.2.offset)

def roleAt (bs : List Byte) (o : Nat) : RoleRow where
  k := field bs o 1
  cls := field bs (o + 1) 1
  regs := field bs (o + 2) 2
  entry := field bs (o + 4) 4

/-- A stage record (R342). -/
def stageAt (bs : List Byte) (o : Nat) : Stage :=
  let flags := field bs (o + 0x0B) 1
  { entry := field bs o 4
    trap := if field bs (o + 4) 4 == 0xFFFFFFFF then none else some (field bs (o + 4) 4)
    index := field bs (o + 8) 1
    pri := field bs (o + 9) 1
    mode := field bs (o + 0x0A) 1
    phased := flags.testBit 0
    hasIn := flags.testBit 1
    hasOut := flags.testBit 2
    sheaves := field bs (o + 0x0C) 1
    bins := field bs (o + 0x0D) 1
    grade := field bs (o + 0x0E) 1
    level := field bs (o + 0x0F) 1
    items := field bs (o + 0x10) 8
    larderA := field bs (o + 0x18) 4
    larderP := field bs (o + 0x1C) 4
    attic := field bs (o + 0x20) 4
    lgrade := field bs (o + 0x24) 1
    roles := (List.range (field bs (o + 0x25) 1)).map fun k => roleAt bs (o + 0x40 + 16 * k) }

/-- The stage record keeps R342, R164, R172 and R191. -/
def stageOk (bs : List Byte) (o index size : Nat) : Bool :=
  let st := stageAt bs o
  let n := field bs (o + 0x25) 1
  let inside (e : Nat) : Bool := decide (e < size)
  inside st.entry && st.trap.elim true inside && st.index == index && decide (st.pri ≤ 31) && decide (st.mode ≤ 2) &&
  decide (field bs (o + 0x0B) 1 < 8) && decide (1 ≤ st.sheaves) && decide (st.sheaves ≤ 16) && decide (st.bins ≤ 16) &&
  decide (st.grade ≤ 8) && decide (st.level ≤ 6) && decide (st.items < 2 ^ 63) && st.larderA % 16384 == 0 &&
  st.larderP % 16384 == 0 && st.attic % 8192 == 0 && decide (st.attic ≤ 25165824) && decide (16384 ≤ st.larderP) && decide (st.larderA ≤ 1048576) &&
  decide (st.larderA + st.larderP ≤ if st.mode == 0 then 4194304 else 3670016) &&
  (if st.larderA == 0 then st.lgrade == 8 else decide (st.lgrade ≤ 7)) && decide (1 ≤ n) && decide (n ≤ 8) &&
  zeroAt bs (o + 0x26) 26 && zeroAt bs (o + 0x40 + 16 * n) (16 * (8 - n)) && zeroAt bs (o + 0xC0) 64 &&
  (st.roles.all fun r => decide (r.k ≤ 7) && decide (r.cls ≤ 3) && r.regs % 8 == 0 && decide (8 ≤ r.regs) &&
    decide (r.regs ≤ 2048) && inside r.entry && r.entry % 8 == 0) &&
  ((List.range n).all fun k => zeroAt bs (o + 0x48 + 16 * k) 8) &&
  ((st.roles.zip (st.roles.drop 1)).all fun p => decide (p.1.k < p.2.k)) && (st.roles.head?.elim false fun r => r.k == 0)

/-- The whole code object is accepted. -/
def objectOk (bs : List Byte) : Bool :=
  headerOk bs &&
  safeOk bs ((List.range (field bs 0x20 8)).map fun k => field bs 0x18 8 + 32 * k) (field bs 0x10 8) &&
  (List.range (field bs 0x50 8)).all fun k => stageOk bs (field bs 0x48 8 + 256 * k) k (field bs 0x10 8)

/-- The loaded object at its address. -/
def objectAt (bs : List Byte) (va vdev : Nat) (dies : List Nat) : CodeObj where
  addr := va
  bytes := (bs.length + 65535) / 65536 * 65536
  vdev := vdev
  code := va + field bs 0x08 8
  size := field bs 0x10 8
  stages := (List.range (field bs 0x50 8)).map fun k => stageAt bs (field bs 0x48 8 + 256 * k)
  classes := (List.range (field bs 0x30 8)).map fun k => imageOf ((bs.drop (field bs 0x28 8 + 512 * k)).take 512)
  safe := (List.range (field bs 0x20 8)).map fun k => safeAt bs (field bs 0x18 8 + 32 * k)
  dies := dies

/-- A page of the object, on a free frame. -/
def State.objectPage (d vdev va : Nat) (s : State) : Option State :=
  (s.takeFrame d).map fun pa => (s.zeroPage pa 65536).install { vdev := vdev, va := va, pa := pa, w := false, x := true }

/-- The object's pages, readable and executable, holding its bytes; none where no addresses or no frames are left for
them. -/
def State.placeObject (s : State) (vdev : Nat) (bs : List Byte) : Option (State × Nat) :=
  let d := (s.partDies (s.partOf vdev)).headD 0
  (s.allocGlobal vdev d false { bytes := bs.length }).bind fun r =>
    ((List.range ((bs.length + 65535) / 65536)).foldl (fun (x : Option State) k =>
      x.bind (State.objectPage d vdev (r.2 + 65536 * k))) (some r.1)).map fun s1 => (s1.serviceFill vdev r.2 bs, r.2)

/-- Regions in source order, with their addresses; none when one is refused. -/
def State.allocLines (vdev code : Nat) : List AllocLine → State → Option (State × List Nat)
  | [], s => some (s, [])
  | a :: r, s =>
    match s.allocRegion vdev a (some code) with
    | none => none
    | some x => (State.allocLines vdev code r x.1).map fun y => (y.1, x.2 :: y.2)

/-- LOAD: the object's address is the result, and the body holds the reports of its regions in source order: R390 has the
addresses reported and gives the report no layout (DESIGN CHOICE, log entry 36). It ends with a CODESYNC of the whole
package. -/
def execLoadCmd (m : Cmd) (obj : List Byte) (allocs : List AllocLine) (s : State) : Out :=
  command 2 [0] m s fun x s1 =>
    if !objectOk obj then (s1, Done.refused)
    else
      match (s1.placeObject x.vdev obj).bind fun r => (State.allocLines x.vdev r.2 allocs r.1).map fun y => (r, y) with
      | none => (s1, Done.refused)
      | some (r, y) =>
        let o := objectAt obj r.2 x.vdev (allocs.filterMap fun a => a.die)
        let s2 := { y.1 with service := { y.1.service with codes := y.1.service.codes ++ [o] } }
        (s2.applyAll.dropFetched .package 0, { result := BitVec.ofNat 64 r.2, body := y.2.flatMap fun va => y.1.regionReport x.vdev va })

/-! ### LAUNCH and KILL (R344, R395) -/

/-- LAUNCH: the record at an address of the session's device, judged as LNCH judges it; d is the result. -/
def execLaunchCmd (m : Cmd) (record : Nat) (s : State) : Out :=
  command 4 [0] m s fun x s1 =>
    let ps := (List.range 5).foldl (fun (a : State × List (Option (Nat × Bool))) k =>
      let r := a.1.servicePa x.vdev (record + 128 * k)
      (r.1, a.2 ++ [r.2])) (s1, [])
    let s2 := ps.1
    let good := record % 128 == 0 && ps.2.all fun p => p.elim false fun q => q.2
    let bs := (List.range 640).map fun k => match ps.2.getD (k / 128) none with
      | some p => (s2.die 0).view.get (p.1 + k % 128)
      | none => 0
    let r := if good then
        s2.tryLaunch 0 m.session (fun p => s2.service.parts.any fun q => q.part == p && q.vdev == x.vdev) bs
      else (s2, refused 1 0)
    (r.1, { status := if r.2.getLsbD 63 then 3 else 0, result := r.2 })

/-- KILL: every team ends with host-kill; a launch that waits completes at once. -/
def execKillCmd (m : Cmd) (launch : Nat) (s : State) : Out :=
  command 5 [0] m s fun x s1 =>
    match s1.launch? launch with
    | none => (s1, Done.refused)
    | some l =>
      if l.vdev != x.vdev then (s1, Done.refused)
      else if l.state == 2 then (s1, {})
      else
        let s2 := (s1.modLaunch launch fun y => { y with state := 1 }).killLaunch launch Cause.hostKill
        (if l.state == 0 then
           outState (execLaunchComplete launch (s2.modLaunch launch fun y => { y with phased := false })) s2
         else s2, {})

/-! ### Partitions (R249, R259, R266, R349, R360, R361, R365) -/

def partIdx : List Nat := List.range 192

/-- Tables of a die that no partition has as its share. -/
def State.unshared (s : State) (d : Nat) : Nat := 60 - s.service.parts.foldl (fun n p => n + p.shares.val d 0) 0

/-- The share of a partition on a die where PART names none: floor(60 ÷ p). -/
def State.defaultShare (s : State) (d : Nat) : Nat :=
  60 / ((s.service.parts.filter fun p => (s.partDies p.part).contains d).length + 1)

/-- A cluster that a partition may be given: not fused off, in no partition, and empty. -/
def State.clusterFree (s : State) (k : Nat) : Bool :=
  k < 192 && !(s.cluster k).fused && (s.cluster k).part.isNone && (s.residents k).isEmpty

/-- A cluster passes to a partition, or to none: what its cores held is zeroed, its settings are those given, and a partition
finds its permit bucket full (R255). -/
def State.giveCluster (s : State) (k : Nat) (part : Option Nat) (like : Cluster) (fresh : Bool) : State :=
  let s1 := s.modCluster k fun c =>
    { c with part := part, fresh := fresh, pfloor := like.pfloor, afloor := like.afloor, cap := like.cap, quota := like.quota, tlb := [],
             bal := if part.isSome then 64 else c.bal }
  ((List.range 8).foldl (fun (x : State) q => x.modCore (8 * k + q) fun c =>
    { c with attic := [], tlb := [], ibuf := [], borrow := [] }) s1).retarget k

def diesOf (ks : List Nat) : List Nat := (ks.map dieOfCluster).dedup

/-- PART, make: the virtual device's error queue is mapped for it (R318). -/
def execPartMake (m : Cmd) (part vdev : Nat) (clusters : List Nat) (share : Option Nat) (s : State) : Out :=
  command 6 [1] m s fun _ s1 =>
    let ds := diesOf clusters
    let shares := ds.map fun d => (d, share.getD (s1.defaultShare d))
    if part > 191 || vdev > 63 || clusters.isEmpty || (s1.service.parts.any fun p => p.part == part) ||
        !(clusters.all s1.clusterFree) || (shares.any fun x => decide (s1.unshared x.1 < x.2)) then (s1, Done.refused)
    else
      let p : Partition := { part := part, vdev := vdev, clusters := clusters,
                             shares := shares.foldl (fun (q : SMap Nat) x => q.put x.1 x.2) [] }
      (clusters.foldl (fun (x : State) k => x.giveCluster k (some part) {} false)
        ({ s1 with service := { s1.service with parts := s1.service.parts ++ [p] } }.mapQueue vdev), {})

/-- The partition holds cellar regions, combine contexts or loaded classes on a die. -/
def State.partHolds (s : State) (p : Partition) (d : Nat) : Bool :=
  ((s.die d).regions.any fun r => s.partOfRegion r == p.part) ||
  ((s.die d).ctxs.any fun (e : Nat × Ctx) => (s.launch? e.2.launch).elim false fun l => l.part == p.part) ||
  ((s.die d).tables.any fun t => t.1 == p.part)

/-- A team of a removed cluster is pre-empted for the resize, whatever was decided of it before; a SAVECTX of it waits for the
same capture (R361). -/
def State.decideResize (s : State) (t : Nat) : State :=
  match s.team? t with
  | none => s
  | some tm =>
    match tm.preempt with
    | .decided _ 2 _ _ => s
    | _ => ((s.modTeam t fun x => { x with preempt := .none }).choosePreempt t 2 0 (0, 0, 0)).modTeam t fun x =>
        { x with saveAsk := tm.savectx }

/-- The tables of a partition are copied to a die it did not hold. -/
def State.copyTables (s : State) (part source d : Nat) : State :=
  let ts := (s.die source).tables.filter fun t => t.1 == part
  s.modDie d fun q => { q with tables := q.tables ++ ts }

/-- PART, resize: to the clusters named. -/
def execPartResize (m : Cmd) (part : Nat) (clusters : List Nat) (s : State) : Out :=
  command 6 [1] m s fun _ s1 =>
    match s1.service.parts.find? fun p => p.part == part with
    | none => (s1, Done.refused)
    | some p =>
      let have_ := s1.partClusters part
      let added := clusters.filter fun k => !have_.contains k
      let removed := have_.filter fun k => !clusters.contains k
      let lost := (diesOf have_).filter fun d => !(diesOf clusters).contains d
      let gained := (diesOf clusters).filter fun d => !(diesOf have_).contains d
      let shares := gained.map fun d => (d, s1.defaultShare d)
      let tables := ((s1.die ((diesOf have_).headD 0)).tables.filter fun t => t.1 == part).length
      if clusters.isEmpty || !(added.all s1.clusterFree) || (lost.any fun d => s1.partHolds p d) ||
          (shares.any fun x => decide (s1.unshared x.1 < x.2) || decide (x.2 < tables)) then (s1, Done.refused)
      else
        let like := s1.cluster (have_.headD 0)
        let q : Partition := { p with
          clusters := clusters,
          shares := shares.foldl (fun (a : SMap Nat) x => a.put x.1 x.2) (p.shares.filter fun e => !lost.contains e.1) }
        let s2 := { s1 with service := { s1.service with parts := s1.service.parts.map fun x => if x.part == part then q else x } }
        let s3 := gained.foldl (fun (x : State) d => x.copyTables part ((diesOf have_).headD 0) d) s2
        let s4 := added.foldl (fun (x : State) k => x.giveCluster k (some part) like true) s3
        let ts := removed.flatMap fun k => (s4.residents k).map fun tm => tm.key
        (ts.foldl (fun (x : State) t => x.decideResize t)
          (removed.foldl (fun (x : State) k => x.modCluster k fun c => { c with part := none }) s4), {})

/-- PART, drop: of a partition none of whose launches is still to complete. -/
def execPartDrop (m : Cmd) (part : Nat) (s : State) : Out :=
  command 6 [1] m s fun _ s1 =>
    if !(s1.service.parts.any fun p => p.part == part) || (s1.launches.any fun l => l.part == part && l.state != 2) then
      (s1, Done.refused)
    else
      let s2 := (s1.partClusters part).foldl (fun (x : State) k => x.giveCluster k none {} false) s1
      let s3 := allDies.foldl (fun (x : State) d => x.modDie d fun q =>
        { q with tables := q.tables.filter (fun t => t.1 != part), live := q.live.filter (fun t => t.1 != part) }) s2
      ({ s3 with service := { s3.service with
          parts := s3.service.parts.filter (fun p => p.part != part), holders := s3.service.holders.filter (fun h => h.1 != part) } }, {})

/-- Settings inside their ranges. -/
def settingsOk (v : Settings) : Bool :=
  let inR (o : Option Nat) (lo hi : Nat) : Bool := o.elim true fun n => decide (lo ≤ n) && decide (n ≤ hi)
  inR v.pfloor 300 420 && inR v.afloor 220 350 && inR v.cap 4 6 && inR v.quota 1 16 && inR v.quantum 200000 200000000

/-- PART, settings: floors, cap and quota of the partition's clusters, or of one; its quantum. -/
def execPartSettings (m : Cmd) (part : Nat) (cluster : Option Nat) (v : Settings) (s : State) : Out :=
  command 6 [1] m s fun _ s1 =>
    let ks := (s1.partClusters part).filter fun k => cluster.elim true fun c => c == k
    if ks.isEmpty || !settingsOk v || !(s1.service.parts.any fun p => p.part == part) then (s1, Done.refused)
    else
      let s2 := ks.foldl (fun (x : State) k => (x.modCluster k fun c =>
        { c with pfloor := v.pfloor.getD c.pfloor, afloor := v.afloor.getD c.afloor, cap := v.cap.getD c.cap,
                 quota := v.quota.getD c.quota }).retarget k) s1
      ({ s2 with service := { s2.service with parts := s2.service.parts.map fun p =>
          if p.part == part then { p with quantum := v.quantum.getD p.quantum } else p } }, {})

/-! ### The fabric's settings (R370, R374, R376 to R379) -/

/-- WINDOW: one of 4,096 entries, whose reserved bits are zero. -/
def execWindow (m : Cmd) (idx : Nat) (w0 w1 : Word) (s : State) : Out :=
  command 7 [1] m s fun _ s1 =>
    if idx ≥ 4096 || w1.toNat / 2 ^ 52 != 0 || w1.toNat % 2 ^ 30 != 0 || w0.toNat / 2 ^ 48 % 2 ^ 15 != 0 ||
        w0.toNat / 2 ^ 30 % 4 != 0 || w0.toNat / 2 ^ 14 % 2 ^ 10 != 0 then (s1, Done.refused)
    else ({ s1 with fabric := { s1.fabric with windows := s1.fabric.windows.put idx (w0, w1) } }, {})

/-- A routing entry: its zeros, and PRIMARY in CAND when it is valid. -/
def routeOk (e : Nat × Word) : Bool :=
  let w := e.2.toNat
  decide (e.1 < 16384) && w / 2 ^ 56 % 64 == 0 && w / 2 ^ 32 % 2 ^ 19 == 0 && (w / 2 ^ 63 == 0 || w.testBit (w / 2 ^ 51 % 32))

/-- ROUTE: entries of the inactive bank, and the pod index that the next swap assigns. -/
def execRoute (m : Cmd) (entries : List (Nat × Word)) (pod : Option Nat) (s : State) : Out :=
  command 8 [2] m s fun _ s1 =>
    if !(entries.all routeOk) || pod.elim false (fun p => decide (p ≥ 16384)) then (s1, Done.refused)
    else
      let f := s1.fabric
      let put (b : SMap Word) : SMap Word := entries.foldl (fun (x : SMap Word) e => x.put e.1 e.2) b
      ({ s1 with fabric := { f with
          bankA := if f.useB then put f.bankA else f.bankA,
          bankB := if f.useB then f.bankB else put f.bankB,
          podNext := pod <|> f.podNext } }, {})

/-- ROUTESWAP: the swap comes at a mesh cycle that the service chooses (BANK_SWAP). -/
def execRouteswap (m : Cmd) (s : State) : Out :=
  command 8 [2] m s fun _ s1 => ({ s1 with fabric := { s1.fabric with swapDue := true } }, {})

/-- KEYS: the whole table of at most 64 entries at once. -/
def execKeys (m : Cmd) (table : List (BitVec 16)) (s : State) : Out :=
  command 9 [2] m s fun _ s1 =>
    if table.length > 64 then (s1, Done.refused) else ({ s1 with fabric := { s1.fabric with keyTable := table } }, {})

/-- SUBSCRIBE: the session gets a ring of notices. R379 lets a subscriber read its ring and names no way to it: here a session that
has one reads it by SUBSCRIBE, which answers the header and the unread records and moves READ past them (DESIGN CHOICE, log entry
34). -/
def execSubscribe (m : Cmd) (s : State) : Out :=
  command 10 [1, 2] m s fun x s1 =>
    match s1.fabric.rings.find? fun r => r.session == x.id with
    | none => ({ s1 with fabric := { s1.fabric with rings := s1.fabric.rings ++ [{ session := x.id }] } }, {})
    | some r =>
      ({ s1 with fabric := { s1.fabric with rings := s1.fabric.rings.map fun q => if q.session == x.id then { q with read := q.write } else q } },
        { body := r.header ++ r.unread.flatMap Notice.image })

/-! ### Logs and budgets (R314, R318 to R320) -/

/-- LOGREAD: log 0 the array log, 1 the transfer log, 2 the event log of die `d`; 3 the virtual error queue of device `d`. The body
holds the records' bytes, and the service, as the reader, writes READ (R314). -/
def execLogread (m : Cmd) (d log : Nat) (s : State) : Out :=
  command 11 [1] m s fun _ s1 =>
    if log > 3 || d ≥ (if log == 3 then 64 else 16) then (s1, Done.refused)
    else
      let r := if log == 3 then
          s1.drainRing (Config.queuePa d) (Config.queuePa d + 65536) 256 (s1.service.vqueues.val d {})
        else s1.drainRing (Config.logPa d log) (Config.logPa d log + 8) 4096 ((s1.die d).log log)
      (r.2, { body := r.1 })

/-- BUDGET: a device's bytes for each 10 µs interval of a stack. -/
def execBudget (m : Cmd) (stack vdev bytes : Nat) (s : State) : Out :=
  command 11 [1] m s fun _ s1 =>
    if stack ≥ 32 || vdev ≥ 64 then (s1, Done.refused)
    else (s1.modDie (stack / 2) fun q => q.modStack (stack % 2) fun k => { k with budget := k.budget.put vdev bytes }, {})

/-! ### ATTEST (R383, R384) -/

/-- The report that is signed over its SHA-512 digest, r then s big-endian (R384): nonce, pod index, the three digests, the fuse set's, the boot step reached, the step that failed. -/
def State.report512 (s : State) (nonce : List Byte) : List Byte :=
  let digest (k : Nat) : List Byte := natBytes 64 (Config.fusedDigest k).toNat
  nonce ++ natBytes 2 s.ownPod ++ digest 0 ++ digest 1 ++ digest 2 ++ digest 3 ++ natBytes 1 s.boot ++ natBytes 1 (s.bootFail.getD 0)

def State.attestation (s : State) (nonce : List Byte) : Done :=
  if nonce.length != 64 then Done.refused
  else
    let r := s.report512 nonce
    let g := packageSignature (sha512 r) s.free
    { body := r ++ (natBytes 66 g.1).reverse ++ (natBytes 66 g.2).reverse }

/-- ATTEST: a package whose boot has failed answers it too, outside any session. -/
def execAttest (m : Cmd) (nonce : List Byte) (s : State) : Out :=
  if s.power && s.boot != 5 then .next ({ s with free := s.free + 1 }.respond m (s.attestation nonce) false)
  else command 12 anyRole m s fun _ s1 => ({ s1 with free := s1.free + 1 }, s1.attestation nonce)

/-! ### SNAP and SNAPREAD (R385) -/

def execSnapCommand (m : Cmd) (code : Nat) (s : State) : Out := command 13 [1] m s fun _ s1 => (s1.trigger code 0 1, {})

/-- SNAPREAD: the held snapshot, and the end of the hold. -/
def execSnapread (m : Cmd) (s : State) : Out :=
  command 13 [1] m s fun _ s1 =>
    let n := s1.snapshot
    if !n.held then (s1, Done.refused)
    else ({ s1 with snapshot := {} },
      { result := BitVec.ofNat 64 n.missed,
        body := natBytes 1 n.code ++ natBytes 2 n.core ++ natBytes 1 n.source ++ natBytes 8 n.time ++ Config.snapshotImage n.blocks })

/-! ### DEBUG (R396) -/

/-- A team, resident or saved. -/
def State.anyTeam (s : State) (t : Nat) : Option Team :=
  s.team? t <|> (s.saved.find? fun v => v.team.key == t).map fun v => v.team

def State.modAnySheaf (s : State) (t j : Nat) (f : Sheaf → Sheaf) : State :=
  { (s.modSheaf t j f) with saved := s.saved.map fun v =>
      if v.team.key == t then { v with team := v.team.modSheaf j f } else v }

/-- The held sheaf, for a session of the launching tenant. -/
def State.heldSheaf (s : State) (x : Session) (t j : Nat) : Option Sheaf :=
  match s.anyTeam t with
  | none => none
  | some tm => if tm.vdev == x.vdev && (tm.sheaf j).hold == .debug then some (tm.sheaf j) else none

/-- Write bytes into a record. -/
def patch (bs : List Byte) (off : Nat) (new : List Byte) : List Byte := bs.take off ++ new ++ bs.drop (off + new.length)

/-- DEBUG, read: the record; entries of its PC array may be written first. -/
def execDebugRead (m : Cmd) (t j : Nat) (pcs : List (Nat × Nat)) (s : State) : Out :=
  command 14 [0] m s fun x s1 =>
    match s1.heldSheaf x t j with
    | none => (s1, Done.refused)
    | some sh =>
      let bs := pcs.foldl (fun (b : List Byte) p => if p.1 < 32 then patch b (0x80 + 8 * p.1) (natBytes 8 p.2) else b) sh.record
      (s1.modAnySheaf t j fun h => { h with record := bs }, { body := bs })

/-- DEBUG, resume: FMASK's lanes are active at their recorded PCs, as TRET takes them. -/
def execDebugResume (m : Cmd) (t j : Nat) (s : State) : Out :=
  command 14 [0] m s fun x s1 =>
    match s1.heldSheaf x t j with
    | none => (s1, Done.refused)
    | some sh =>
      let ls := lanesOf (BitVec.ofNat 32 (field sh.record 0 4))
      let pc (l : Nat) : Nat := field sh.record (0x80 + 8 * l) 8
      if ls.any fun l => pc l ≥ 2 ^ 48 || pc l % 8 != 0 then (s1, Done.refused)
      else
        let wake (h : Sheaf) (l : Nat) : Sheaf :=
          h.modStrand l fun st => { st with pc := BitVec.ofNat 48 (pc l), run := .active, park := .nothing }
        (s1.modAnySheaf t j fun h => { (ls.foldl wake h) with hold := .none, record := [], sCause := 0 }, {})

/-- DEBUG, end: the team ends with the breakpoint as its cause. -/
def execDebugEnd (m : Cmd) (t j : Nat) (s : State) : Out :=
  command 14 [0] m s fun x s1 =>
    match s1.heldSheaf x t j with
    | none => (s1, Done.refused)
    | some _ => (((s1.killTeam t Cause.breakpoint).settled t).endSaved t Cause.breakpoint, {})

/-! ### The management service (R111) -/

/-- SERVICE_ENDS_TEAM: the service acts on a record of an S cause: the team ends with that cause. -/
def execServiceEndsTeam (t : Nat) (s : State) : Out :=
  match s.team? t with
  | none => .next s
  | some tm =>
    match tm.sheaves.find? fun sh => sh.hold == .service with
    | none => .next s
    | some sh => .next ((s.killTeam t sh.sCause).settled t)

end Sys2Proof.Machine
end

