-- ==== Sys2Proof/Machine/IntArith.lean ====
section
/-! DEFINITION. Integer and address instructions (R123 to R129). -/

namespace Sys2Proof.Machine

/-- The integer family: an exact integer result, clamped under .sat, then wrapped (R123). -/
def intElem (ty : Ty) (sat : Bool) (f : Int → Int → Int → Int) : ElemFn := fun a b c =>
  let z (v : Nat) := toInt ty.signed ty.width v
  let v := f (z a) (z b) (z c)
  (ofInt ty.width (if sat then clampInt ty.signed ty.width v else v), 0)

/-- A bitwise member. -/
def bitElem (f : Nat → Nat → Nat) : ElemFn := fun a b _ => (f a b, 0)

def satOf (o : OpR) : Bool := o.x % 2 == 1

/-- An integer instruction at fixed latency `n`. -/
def intInstr (m fn n : Nat) (c : Ctl) (o : OpR) (f : Int → Int → Int → Int) (s : State) : Out :=
  elemInstr m fn c o none (intElem o.ty (satOf o) f) (some n) none noBad s

def bitInstr (m fn : Nat) (c : Ctl) (o : OpR) (f : Nat → Nat → Nat) (s : State) : Out :=
  elemInstr m fn c o none (bitElem f) (some 2) none noBad s

def execIadd (c : Ctl) (o : OpR) (s : State) : Out := intInstr 0x18 0 2 c o (fun x y _ => x + y) s
def execIsub (c : Ctl) (o : OpR) (s : State) : Out := intInstr 0x19 0 2 c o (fun x y _ => x - y) s
def execImul (c : Ctl) (o : OpR) (s : State) : Out := intInstr 0x1A 0 4 c o (fun x y _ => x * y) s
def execImulh (c : Ctl) (o : OpR) (s : State) : Out :=
  intInstr 0x1B 0 4 c o (fun x y _ => (x * y) / (2 : Int) ^ o.ty.width) s
def execImad (c : Ctl) (o : OpR) (s : State) : Out := intInstr 0x1C 0 4 c o (fun x y z => x * y + z) s

/-- A lane with a zero divisor in some sub-element (R124). -/
def zeroDivisor (m : Nat) (o : OpR) (i : Iss) (l : Nat) : Option Nat :=
  let b := (i.sources m 0 o none (if o.u then 0 else l)).2.1
  if (elemIdx o.ty.width).any fun k => elem o.ty.width k b == 0 then some Cause.divZero else none

def execIdiv (c : Ctl) (o : OpR) (s : State) : Out :=
  elemInstr 0x1D 0 c o none (intElem o.ty false fun x y _ => x.tdiv y) none none (zeroDivisor 0x1D o) s
def execIrem (c : Ctl) (o : OpR) (s : State) : Out :=
  elemInstr 0x1E 0 c o none (intElem o.ty false fun x y _ => x - y * x.tdiv y) none none (zeroDivisor 0x1E o) s

def execImin (c : Ctl) (o : OpR) (s : State) : Out := intInstr 0x1F 0 2 c o (fun x y _ => min x y) s
def execImax (c : Ctl) (o : OpR) (s : State) : Out := intInstr 0x20 0 2 c o (fun x y _ => max x y) s
def execIabs (c : Ctl) (o : OpR) (s : State) : Out := intInstr 0x21 0 2 c o (fun x _ _ => (x.natAbs : Int)) s
def execIneg (c : Ctl) (o : OpR) (s : State) : Out := intInstr 0x22 0 2 c o (fun x _ _ => -x) s

def execAnd (c : Ctl) (o : OpR) (s : State) : Out := bitInstr 0x23 0 c o (fun a b => a &&& b) s
def execOr (c : Ctl) (o : OpR) (s : State) : Out := bitInstr 0x23 1 c o (fun a b => a ||| b) s
def execXor (c : Ctl) (o : OpR) (s : State) : Out := bitInstr 0x23 2 c o (fun a b => a ^^^ b) s
def execNot (c : Ctl) (o : OpR) (s : State) : Out :=
  bitInstr 0x23 3 c o (fun a _ => a ^^^ (2 ^ o.ty.width - 1)) s
def execAndn (c : Ctl) (o : OpR) (s : State) : Out :=
  bitInstr 0x23 4 c o (fun a b => a &&& (b ^^^ (2 ^ o.ty.width - 1))) s

/-- SHL and SHR: y read as natural (R123). -/
def shlElem (ty : Ty) : ElemFn := fun a b _ => (if b ≥ ty.width then 0 else a * 2 ^ b % 2 ^ ty.width, 0)
def shrElem (ty : Ty) : ElemFn := fun a b _ =>
  (ofInt ty.width (toInt ty.signed ty.width a / (2 : Int) ^ min b ty.width), 0)
def rotElem (ty : Ty) : ElemFn := fun a b _ =>
  let n := b % ty.width
  ((a * 2 ^ n + a / 2 ^ (ty.width - n)) % 2 ^ ty.width, 0)

def execShl (c : Ctl) (o : OpR) (s : State) : Out := elemInstr 0x24 0 c o none (shlElem o.ty) (some 2) none noBad s
def execShr (c : Ctl) (o : OpR) (s : State) : Out := elemInstr 0x24 1 c o none (shrElem o.ty) (some 2) none noBad s
def execRot (c : Ctl) (o : OpR) (s : State) : Out := elemInstr 0x25 0 c o none (rotElem o.ty) (some 2) none noBad s

def popCount (w a : Nat) : Nat := ((List.range w).filter fun k => a.testBit k).length
def bitReverse (w a : Nat) : Nat := (List.range w).foldl (fun n k => n + (if a.testBit k then 2 ^ (w - 1 - k) else 0)) 0

def execPopc (c : Ctl) (o : OpR) (s : State) : Out := bitInstr 0x26 0 c o (fun a _ => popCount o.ty.width a) s
def execClz (c : Ctl) (o : OpR) (s : State) : Out := bitInstr 0x26 1 c o (fun a _ => o.ty.width - bitLen a) s
def execBrev (c : Ctl) (o : OpR) (s : State) : Out := bitInstr 0x26 2 c o (fun a _ => bitReverse o.ty.width a) s

/-- BFX (R125). -/
def bfxElem (ty : Ty) : ElemFn := fun a b _ =>
  let pos := b % 256
  let len := b / 256 % 256
  if pos ≥ ty.width || len = 0 then (0, 0)
  else
    let n := min len (ty.width - pos)
    (ofInt ty.width (toInt ty.signed n (a / 2 ^ pos % 2 ^ n)), 0)

/-- BFI (R125). -/
def bfiElem (ty : Ty) : ElemFn := fun a b c =>
  let pos := b % 256
  let len := b / 256 % 256
  if pos ≥ ty.width || len = 0 then (c, 0)
  else
    let n := min len (ty.width - pos)
    (c - c / 2 ^ pos % 2 ^ n * 2 ^ pos + a % 2 ^ n * 2 ^ pos, 0)

def execBfx (c : Ctl) (o : OpR) (s : State) : Out := elemInstr 0x27 0 c o none (bfxElem o.ty) (some 2) none noBad s
def execBfi (c : Ctl) (o : OpR) (s : State) : Out := elemInstr 0x28 0 c o none (bfiElem o.ty) (some 2) none noBad s

/-- The predicate of SEL's c slot. -/
def selP (o : OpR) : Nat :=
  match o.bc with
  | .regs _ sc => sc.idx
  | .imm _ => 15

/-- SEL's column of one lane: whole registers, exposed as one 64-bit integer element (R126). In the uniform form the
predicate is that of the lowest lane whose guard is true. -/
def Iss.selLane (i : Iss) (o : OpR) (l : Nat) : Word × Bool × Flags :=
  let st := i.sh.strand (if o.u then i.on.headD 0 else l)
  let (a, b, _, t) := i.sources 0x29 0 o none l
  let v := if st.pval (selP o) then a else b
  ((if c then BitVec.ofNat 64 (expose .n64 i.grade i.draw l v.toNat) else v), t || st.ptag (selP o) || c, 0)
where c := i.c.apx

def execSel (c : Ctl) (o : OpR) (s : State) : Out :=
  issue c s (fun i => rChecks 0x29 0 o c.apx none i.sh.w) fun i =>
    i.colRun (readsOf 0x29 0 o) o (i.selLane o) (some 2) fun _ => none

def execIcmp (c : Ctl) (k : Cmp) (o : OpR) (s : State) : Out := compare 0x2A k c o 2 s

/-- MOV: a register whole, as one 64-bit element; an immediate by sub-elements of the type (R126). -/
def execMov (c : Ctl) (o : OpR) (s : State) : Out :=
  issue c s (fun i => rChecks 0x2B 0 o c.apx none i.sh.w) fun i =>
    i.colRun (readsOf 0x2B 0 o) o
      (i.elemLane 0x2B 0 (if o.bc.isImm then o else { o with ty := .n64 }) none fun _ b _ => (b, 0)) (some 2) fun _ => none

/-- MOVI's value and tag over the destination's old column (R129). -/
def moviVal (o : OpW) : Word × Word :=
  if o.h then (0xFFFFFFFF00000000, BitVec.ofNat 64 (o.imm * 2 ^ 32)) else (allOnes, BitVec.ofNat 64 o.imm)

/-- MOVI: with H = 1 the low half and the previous tag stay. -/
def execMovi (c : Ctl) (o : OpW) (s : State) : Out :=
  issue c s (fun i => firstCause [(!o.u && o.d ≥ i.sh.w, Cause.registerRange), (c.apx, Cause.illApprox)]) fun i s1 =>
    let (m, v) := moviVal o
    let tagOf (guard : Bool) : Option Bool := if guard then some true else if o.h then none else some false
    let ws :=
      if o.u then
        if i.on.isEmpty then (if i.aG.isEmpty then [] else [Wr.u o.d 0 0 (some true)])
        else [Wr.u o.d m v (tagOf (!i.aG.isEmpty))]
      else
        (i.on.map fun l => Wr.v l (i.sh.ring l o.d) m v (tagOf (i.aG.contains l))) ++
        ((i.offLanes.filter fun l => i.aG.contains l).map fun l => Wr.v l (i.sh.ring l o.d) 0 0 (some true))
    i.finish (if ws.isEmpty then none else some (i.fixed 2 ws)) [] s1

/-- LEA: (a × 2^x) + b, an immediate sign-extended (R127). -/
def execLea (c : Ctl) (o : OpR) (s : State) : Out :=
  let bx := match o.bc with
    | .imm v => some (BitVec.ofNat 64 (ofInt 64 (toInt true 16 v)))
    | .regs _ _ => none
  elemInstr 0x2D 0 c o bx (fun a b _ => ((a * 2 ^ o.x + b) % 2 ^ 64, 0)) (some 2) none noBad s

end Sys2Proof.Machine
end

