-- ==== Sys2Proof/Machine/Sched.lean ====
section
/-! DEFINITION. The scheduler at interval boundaries (R254, R349) and thermal trips and migrations (R359). -/

namespace Sys2Proof.Machine

/-! ### Claims at a boundary (R349) -/

/-- A partition's quantum in mesh cycles. -/
def State.quantumOf (s : State) (part : Nat) : Nat :=
  match s.service.parts.find? fun p => p.part == part with
  | some p => p.quantum
  | none => 2000000

/-- A stage's team is not fed, or is blocked. -/
def State.starved (s : State) (tm : Team) : Bool :=
  match s.stageRun? tm.launch tm.stage with
  | some g => !s.fed tm.vdev g || s.blocked tm.vdev g
  | none => false

/-- The scheduler has claimed this team for a wanting stage at this very boundary. -/
def State.claimedNow (s : State) (tm : Team) : Bool :=
  match tm.preempt with
  | .decided since 0 _ _ => since == s.time
  | _ => false

/-- The teams that a wanting stage may claim a core from: one of a core at a boundary, and the stage's attic region may take the
place of one that leaves with the team. -/
def State.claimable (s : State) (l : Launch) (k : Nat) (g : StageRun) (n : Need) : List Team :=
  let cores := s.allowedCores l.part g.dies
  (s.teams.map Prod.snd).filter fun tm =>
    cores.contains tm.core && tm.preempt == .none && !tm.waitsRail && tm.since + s.quantumOf l.part ≤ s.time &&
    (tm.st.pri < g.st.pri || (tm.st.pri == g.st.pri && s.starved tm)) &&
    s.roomFor tm.core [tm.key] n && s.atticFits tm.core (s.atticLeaves tm) l.n k g.st.attic &&
    !((s.teamsOn tm.core).any s.claimedNow)

/-- Lowest PRI, then longest resident. -/
def claimBefore (a b : Team) : Bool := a.st.pri < b.st.pri || (a.st.pri == b.st.pri && a.since < b.since)

/-- What the stage's next team needs: a saved one first. -/
def State.nextNeed (s : State) (l : Launch) (k : Nat) (g : StageRun) : Need :=
  match s.schedSaved l.n k with
  | v :: _ => v.team.need
  | [] => g.st.need

/-- One wanting stage claims a core, when its team fits on none. -/
def State.claim (s : State) (l : Launch) (k : Nat) (g : StageRun) : State :=
  let n := s.nextNeed l k g
  if !(s.accepting l k g n).isEmpty then s
  else
    match (s.claimable l k g n).foldl (fun (b : Option Team) x => match b with
        | none => some x
        | some y => if claimBefore x y then some x else b) none with
    | none => s
    | some tm => s.choosePreempt tm.key 0 0 (0, 0, 0)

/-- INTERVAL_BOUNDARY: levels and permits settle, then wanting stages claim cores. -/
def execIntervalBoundary (s : State) : Out :=
  if s.time % 20000 == 0 && s.lastBoundary != some s.time then
    let s1 := s.powerBoundary
    .next ((sortStages s1.wantingStages).foldl (fun (x : State) w => x.claim w.1 w.2.1 w.2.2) s1)
  else .next s

/-! ### Thermal (R359) -/

/-- THERMAL_TRIP: a core's sensor takes a reading, in W/cm²; 400 trips the cluster, until every core reads below 360. -/
def execThermalTrip (core reading : Nat) (s : State) : Out :=
  let s1 := s.modCore core fun c =>
    { c with sensor := reading, hotSince := if reading ≥ 360 then some (c.hotSince.getD s.time) else none }
  let k := clusterOfCore core
  .next (s1.modCluster k fun c =>
    if reading ≥ 400 then { c with hot := true }
    else if (List.range 8).all fun q => decide ((s1.core (8 * k + q)).sensor < 360) then { c with hot := false }
    else c)

/-- THERMAL_MIGRATION: the longest resident team of a core that has been hot for 100 µs is decided. A decision that was withdrawn is
tried again from the next boundary (R351). -/
def execThermalMigration (core : Nat) (s : State) : Out :=
  let c := s.core core
  let hot := c.hotSince.elim false fun t => decide (t + 200000 ≤ s.time)
  let free := c.migratedAt.elim true fun t => decide (t + 2000000 ≤ s.time)
  match (s.teamsOn core).foldl (fun (b : Option Team) x => match b with
      | none => some x
      | some y => if x.since < y.since then some x else b) none with
  | none => .next s
  | some tm =>
    if hot && free && decide (c.retryAt ≤ s.time) && tm.since + 2000000 ≤ s.time && tm.preempt == .none then .next (s.choosePreempt tm.key 1 0 (0, 0, 0))
    else .next s

end Sys2Proof.Machine
end

