-- ==== Sys2Proof/Machine/Dispatch.lean ====
section
/-! DEFINITION. One arm per constructor of Instr: the direct call of its meaning. -/

namespace Sys2Proof.Machine

/-- What one instruction or event does. -/
def exec (i : Instr) (s : State) : Host.Outcome State Fault Refusal :=
  match i with
  | .nop c o => Sys2Proof.Machine.execNop c o s
  | .bra c o => Sys2Proof.Machine.execBra c o s
  | .brx c o => Sys2Proof.Machine.execBrx c o s
  | .land c o => Sys2Proof.Machine.execLand c o s
  | .call c o => Sys2Proof.Machine.execCall c o s
  | .callx c o => Sys2Proof.Machine.execCallx c o s
  | .ret c o => Sys2Proof.Machine.execRet c o s
  | .join c o => Sys2Proof.Machine.execJoin c o s
  | .leave c o => Sys2Proof.Machine.execLeave c o s
  | .waitm c o => Sys2Proof.Machine.execWaitm c o s
  | .spawn c o => Sys2Proof.Machine.execSpawn c o s
  | .refill c o => Sys2Proof.Machine.execRefill c o s
  | .exit c o => Sys2Proof.Machine.execExit c o s
  | .yield c o => Sys2Proof.Machine.execYield c o s
  | .trap c o => Sys2Proof.Machine.execTrap c o s
  | .bpt c o => Sys2Proof.Machine.execBpt c o s
  | .tret c o => Sys2Proof.Machine.execTret c o s
  | .iadd c o => Sys2Proof.Machine.execIadd c o s
  | .isub c o => Sys2Proof.Machine.execIsub c o s
  | .imul c o => Sys2Proof.Machine.execImul c o s
  | .imulh c o => Sys2Proof.Machine.execImulh c o s
  | .imad c o => Sys2Proof.Machine.execImad c o s
  | .idiv c o => Sys2Proof.Machine.execIdiv c o s
  | .irem c o => Sys2Proof.Machine.execIrem c o s
  | .imin c o => Sys2Proof.Machine.execImin c o s
  | .imax c o => Sys2Proof.Machine.execImax c o s
  | .iabs c o => Sys2Proof.Machine.execIabs c o s
  | .ineg c o => Sys2Proof.Machine.execIneg c o s
  | .and c o => Sys2Proof.Machine.execAnd c o s
  | .or c o => Sys2Proof.Machine.execOr c o s
  | .xor c o => Sys2Proof.Machine.execXor c o s
  | .not c o => Sys2Proof.Machine.execNot c o s
  | .andn c o => Sys2Proof.Machine.execAndn c o s
  | .shl c o => Sys2Proof.Machine.execShl c o s
  | .shr c o => Sys2Proof.Machine.execShr c o s
  | .rot c o => Sys2Proof.Machine.execRot c o s
  | .popc c o => Sys2Proof.Machine.execPopc c o s
  | .clz c o => Sys2Proof.Machine.execClz c o s
  | .brev c o => Sys2Proof.Machine.execBrev c o s
  | .bfx c o => Sys2Proof.Machine.execBfx c o s
  | .bfi c o => Sys2Proof.Machine.execBfi c o s
  | .sel c o => Sys2Proof.Machine.execSel c o s
  | .icmp c k o => Sys2Proof.Machine.execIcmp c k o s
  | .mov c o => Sys2Proof.Machine.execMov c o s
  | .movi c o => Sys2Proof.Machine.execMovi c o s
  | .lea c o => Sys2Proof.Machine.execLea c o s
  | .fadd c o => Sys2Proof.Machine.execFadd c o s
  | .fsub c o => Sys2Proof.Machine.execFsub c o s
  | .fmul c o => Sys2Proof.Machine.execFmul c o s
  | .ffma c o => Sys2Proof.Machine.execFfma c o s
  | .fmin c o => Sys2Proof.Machine.execFmin c o s
  | .fmax c o => Sys2Proof.Machine.execFmax c o s
  | .fcmp c k o => Sys2Proof.Machine.execFcmp c k o s
  | .fclass c o => Sys2Proof.Machine.execFclass c o s
  | .frcp c o => Sys2Proof.Machine.execFrcp c o s
  | .frsq c o => Sys2Proof.Machine.execFrsq c o s
  | .fsqrt c o => Sys2Proof.Machine.execFsqrt c o s
  | .fexp2 c o => Sys2Proof.Machine.execFexp2 c o s
  | .flog2 c o => Sys2Proof.Machine.execFlog2 c o s
  | .fsin c o => Sys2Proof.Machine.execFsin c o s
  | .fcos c o => Sys2Proof.Machine.execFcos c o s
  | .frnd c o => Sys2Proof.Machine.execFrnd c o s
  | .fdiv c o => Sys2Proof.Machine.execFdiv c o s
  | .fscale c o => Sys2Proof.Machine.execFscale c o s
  | .cvt c o => Sys2Proof.Machine.execCvt c o s
  | .cvtb c o => Sys2Proof.Machine.execCvtb c o s
  | .cvtx c o => Sys2Proof.Machine.execCvtx c o s
  | .pack c o => Sys2Proof.Machine.execPack c o s
  | .unpk c o => Sys2Proof.Machine.execUnpk c o s
  | .swz c o => Sys2Proof.Machine.execSwz c o s
  | .shfl c o => Sys2Proof.Machine.execShfl c o s
  | .shfli c o => Sys2Proof.Machine.execShfli c o s
  | .voteAny c o => Sys2Proof.Machine.execVoteAny c o s
  | .voteAll c o => Sys2Proof.Machine.execVoteAll c o s
  | .voteBallot c o => Sys2Proof.Machine.execVoteBallot c o s
  | .pand c o => Sys2Proof.Machine.execPand c o s
  | .por c o => Sys2Proof.Machine.execPor c o s
  | .pxor c o => Sys2Proof.Machine.execPxor c o s
  | .pnot c o => Sys2Proof.Machine.execPnot c o s
  | .pget c o => Sys2Proof.Machine.execPget c o s
  | .pset c o => Sys2Proof.Machine.execPset c o s
  | .flgrd c o => Sys2Proof.Machine.execFlgrd c o s
  | .flgclr c o => Sys2Proof.Machine.execFlgclr c o s
  | .endorse c o => Sys2Proof.Machine.execEndorse c o s
  | .endp c o => Sys2Proof.Machine.execEndp c o s
  | .atag c o => Sys2Proof.Machine.execAtag c o s
  | .ld c o => Sys2Proof.Machine.execLd c o s
  | .st c o => Sys2Proof.Machine.execSt c o s
  | .ldl c o => Sys2Proof.Machine.execLdl c o s
  | .stl c o => Sys2Proof.Machine.execStl c o s
  | .lds c o => Sys2Proof.Machine.execLds c o s
  | .pref c o => Sys2Proof.Machine.execPref c o s
  | .fenceAcq c o => Sys2Proof.Machine.execFenceAcq c o s
  | .fenceRel c o => Sys2Proof.Machine.execFenceRel c o s
  | .fenceFull c o => Sys2Proof.Machine.execFenceFull c o s
  | .role c o => Sys2Proof.Machine.execRole c o s
  | .bar c o => Sys2Proof.Machine.execBar c o s
  | .barx c o => Sys2Proof.Machine.execBarx c o s
  | .sread c o => Sys2Proof.Machine.execSread c o s
  | .plevel c o => Sys2Proof.Machine.execPlevel c o s
  | .setgrade c o => Sys2Proof.Machine.execSetgrade c o s
  | .pread c o => Sys2Proof.Machine.execPread c o s
  | .wld c o => Sys2Proof.Machine.execWld c o s
  | .wswp c o => Sys2Proof.Machine.execWswp c o s
  | .mma c o => Sys2Proof.Machine.execMma c o s
  | .zclr c o => Sys2Proof.Machine.execZclr c o s
  | .zrd c o => Sys2Proof.Machine.execZrd c o s
  | .zwr c o => Sys2Proof.Machine.execZwr c o s
  | .rdc c o => Sys2Proof.Machine.execRdc c o s
  | .scan c o => Sys2Proof.Machine.execScan c o s
  | .chain c o => Sys2Proof.Machine.execChain c o s
  | .cpy c o => Sys2Proof.Machine.execCpy c o s
  | .cpyr c o => Sys2Proof.Machine.execCpyr c o s
  | .cpos c o => Sys2Proof.Machine.execCpos c o s
  | .cwait c o => Sys2Proof.Machine.execCwait c o s
  | .ewait c o => Sys2Proof.Machine.execEwait c o s
  | .eqry c o => Sys2Proof.Machine.execEqry c o s
  | .dtab c o => Sys2Proof.Machine.execDtab c o s
  | .dec c o => Sys2Proof.Machine.execDec c o s
  | .aadd c o => Sys2Proof.Machine.execAadd c o s
  | .amin c o => Sys2Proof.Machine.execAmin c o s
  | .amax c o => Sys2Proof.Machine.execAmax c o s
  | .aand c o => Sys2Proof.Machine.execAand c o s
  | .aor c o => Sys2Proof.Machine.execAor c o s
  | .axor c o => Sys2Proof.Machine.execAxor c o s
  | .axchg c o => Sys2Proof.Machine.execAxchg c o s
  | .acas c o => Sys2Proof.Machine.execAcas c o s
  | .afadd c o => Sys2Proof.Machine.execAfadd c o s
  | .afaddO c o => Sys2Proof.Machine.execAfaddO c o s
  | .aflush c o => Sys2Proof.Machine.execAflush c o s
  | .stbl c o => Sys2Proof.Machine.execStbl c o s
  | .ldt c o => Sys2Proof.Machine.execLdt c o s
  | .stt c o => Sys2Proof.Machine.execStt c o s
  | .xtr c o => Sys2Proof.Machine.execXtr c o s
  | .ccfg c o => Sys2Proof.Machine.execCcfg c o s
  | .cslot c o => Sys2Proof.Machine.execCslot c o s
  | .cgate c o => Sys2Proof.Machine.execCgate c o s
  | .cput c o => Sys2Proof.Machine.execCput c o s
  | .cstat c o => Sys2Proof.Machine.execCstat c o s
  | .cfree c o => Sys2Proof.Machine.execCfree c o s
  | .settle c o => Sys2Proof.Machine.execSettle c o s
  | .codesync c o => Sys2Proof.Machine.execCodesync c o s
  | .tlbinv c o => Sys2Proof.Machine.execTlbinv c o s
  | .mapctlMap c o => Sys2Proof.Machine.execMapctlMap c o s
  | .mapctlUnmap c o => Sys2Proof.Machine.execMapctlUnmap c o s
  | .mapctlProtect c o => Sys2Proof.Machine.execMapctlProtect c o s
  | .mapctlMigrate c o => Sys2Proof.Machine.execMapctlMigrate c o s
  | .lnch c o => Sys2Proof.Machine.execLnch c o s
  | .savectx c o => Sys2Proof.Machine.execSavectx c o s
  | .restctx c o => Sys2Proof.Machine.execRestctx c o s
  | .snap c o => Sys2Proof.Machine.execSnap c o s
  | .trapDelivery t j => Sys2Proof.Machine.execTrapDelivery t j s
  | .roleGrant core => Sys2Proof.Machine.execRoleGrant core s
  | .forcedCommit t => Sys2Proof.Machine.execForcedCommit t s
  | .issueAging core memPort => Sys2Proof.Machine.execIssueAging core memPort s
  | .sequencerEntryBegin t id => Sys2Proof.Machine.execSequencerEntryBegin t id s
  | .sequencerEntryFinish t id => Sys2Proof.Machine.execSequencerEntryFinish t id s
  | .chainTimeout k launch key => Sys2Proof.Machine.execChainTimeout k launch key s
  | .completionRegistration k => Sys2Proof.Machine.execCompletionRegistration k s
  | .jobStart t seq => Sys2Proof.Machine.execJobStart t seq s
  | .jobComplete t seq => Sys2Proof.Machine.execJobComplete t seq s
  | .jobFail t seq => Sys2Proof.Machine.execJobFail t seq s
  | .engineArrival k => Sys2Proof.Machine.execEngineArrival k s
  | .atomicServe k => Sys2Proof.Machine.execAtomicServe k s
  | .stagedRequest k => Sys2Proof.Machine.execStagedRequest k s
  | .requestWithdrawal t j lane => Sys2Proof.Machine.execRequestWithdrawal t j lane s
  | .cslotGrant d ctx => Sys2Proof.Machine.execCslotGrant d ctx s
  | .poolGrant d ctx => Sys2Proof.Machine.execPoolGrant d ctx s
  | .contributionIntake d ctx => Sys2Proof.Machine.execContributionIntake d ctx s
  | .combineDeadline d ctx slot => Sys2Proof.Machine.execCombineDeadline d ctx slot s
  | .slotRelease d ctx slot => Sys2Proof.Machine.execSlotRelease d ctx slot s
  | .settleComplete n => Sys2Proof.Machine.execSettleComplete n s
  | .resultReturn t j seq lanes => Sys2Proof.Machine.execResultReturn t j seq lanes s
  | .walkComplete d vdev page => Sys2Proof.Machine.execWalkComplete d vdev page s
  | .faultService d vdev page => Sys2Proof.Machine.execFaultService d vdev page s
  | .writeStamp d n => Sys2Proof.Machine.execWriteStamp d n s
  | .writeApply d src => Sys2Proof.Machine.execWriteApply d src s
  | .levelClockSwitch k => Sys2Proof.Machine.execLevelClockSwitch k s
  | .gradeReached k => Sys2Proof.Machine.execGradeReached k s
  | .droop k injected => Sys2Proof.Machine.execDroop k injected s
  | .thermalMigration core => Sys2Proof.Machine.execThermalMigration core s
  | .capture t => Sys2Proof.Machine.execCapture t s
  | .captureTimeout t => Sys2Proof.Machine.execCaptureTimeout t s
  | .resizeKill t => Sys2Proof.Machine.execResizeKill t s
  | .launchRun n => Sys2Proof.Machine.execLaunchRun n s
  | .launchComplete n => Sys2Proof.Machine.execLaunchComplete n s
  | .phaseAdvance n => Sys2Proof.Machine.execPhaseAdvance n s
  | .burstRetry d id failed => Sys2Proof.Machine.execBurstRetry d id failed s
  | .laneSwap d id failed => Sys2Proof.Machine.execLaneSwap d id failed s
  | .burstComplete d b => Sys2Proof.Machine.execBurstComplete d b s
  | .retrain stack mandatory => Sys2Proof.Machine.execRetrain stack mandatory s
  | .retrainSaveTimeout stack => Sys2Proof.Machine.execRetrainSaveTimeout stack s
  | .rowDisturbance stack bank row vdev => Sys2Proof.Machine.execRowDisturbance stack bank row vdev s
  | .activationWindowEnd stack => Sys2Proof.Machine.execActivationWindowEnd stack s
  | .bandwidthInterval stack => Sys2Proof.Machine.execBandwidthInterval stack s
  | .packetArrival port p => Sys2Proof.Machine.execPacketArrival port p s
  | .remoteAtomicRequest m => Sys2Proof.Machine.execRemoteAtomicRequest m s
  | .remoteAtomicAnswer m => Sys2Proof.Machine.execRemoteAtomicAnswer m s
  | .remoteStagedRequest m => Sys2Proof.Machine.execRemoteStagedRequest m s
  | .remoteStagedAnswer m => Sys2Proof.Machine.execRemoteStagedAnswer m s
  | .copyReadRequest m => Sys2Proof.Machine.execCopyReadRequest m s
  | .copyReadData m => Sys2Proof.Machine.execCopyReadData m s
  | .copyWrite m => Sys2Proof.Machine.execCopyWrite m s
  | .writeAcknowledgement m => Sys2Proof.Machine.execWriteAcknowledgement m s
  | .contributionRequest m => Sys2Proof.Machine.execContributionRequest m s
  | .contributionData m => Sys2Proof.Machine.execContributionData m s
  | .remoteSettleRequest m => Sys2Proof.Machine.execRemoteSettleRequest m s
  | .remoteSettleAnswer m => Sys2Proof.Machine.execRemoteSettleAnswer m s
  | .journalQuery m => Sys2Proof.Machine.execJournalQuery m s
  | .linkNotice m => Sys2Proof.Machine.execLinkNotice m s
  | .operationUnreachable tag => Sys2Proof.Machine.execOperationUnreachable tag s
  | .powerOn failStep => Sys2Proof.Machine.execPowerOn failStep s
  | .snapshotTrigger source code => Sys2Proof.Machine.execSnapshotTrigger source code s
  | .openCmd m role vdev => Sys2Proof.Machine.execOpenCmd m role vdev s
  | .closeCmd m => Sys2Proof.Machine.execCloseCmd m s
  | .loadCmd m obj allocs => Sys2Proof.Machine.execLoadCmd m obj allocs s
  | .allocCmd m a => Sys2Proof.Machine.execAllocCmd m a s
  | .freeCmd m va => Sys2Proof.Machine.execFreeCmd m va s
  | .launchCmd m record => Sys2Proof.Machine.execLaunchCmd m record s
  | .killCmd m launch => Sys2Proof.Machine.execKillCmd m launch s
  | .partMake m part vdev clusters share => Sys2Proof.Machine.execPartMake m part vdev clusters share s
  | .partResize m part clusters => Sys2Proof.Machine.execPartResize m part clusters s
  | .partDrop m part => Sys2Proof.Machine.execPartDrop m part s
  | .partSettings m part cluster v => Sys2Proof.Machine.execPartSettings m part cluster v s
  | .window m idx w0 w1 => Sys2Proof.Machine.execWindow m idx w0 w1 s
  | .route m entries pod => Sys2Proof.Machine.execRoute m entries pod s
  | .routeswap m => Sys2Proof.Machine.execRouteswap m s
  | .keys m table => Sys2Proof.Machine.execKeys m table s
  | .subscribe m => Sys2Proof.Machine.execSubscribe m s
  | .logread m d log => Sys2Proof.Machine.execLogread m d log s
  | .budget m stack vdev bytes => Sys2Proof.Machine.execBudget m stack vdev bytes s
  | .attest m nonce => Sys2Proof.Machine.execAttest m nonce s
  | .snapCommand m code => Sys2Proof.Machine.execSnapCommand m code s
  | .snapread m => Sys2Proof.Machine.execSnapread m s
  | .debugRead m t j pcs => Sys2Proof.Machine.execDebugRead m t j pcs s
  | .debugResume m t j => Sys2Proof.Machine.execDebugResume m t j s
  | .debugEnd m t j => Sys2Proof.Machine.execDebugEnd m t j s
  | .illegal r => Sys2Proof.Machine.execIllegal r s
  | .writePointerAdvance t seq => Sys2Proof.Machine.execWritePointerAdvance t seq s
  | .interruptionPointReached t id => Sys2Proof.Machine.execInterruptionPointReached t id s
  | .droopClears k => Sys2Proof.Machine.execDroopClears k s
  | .retrainingComplete stack => Sys2Proof.Machine.execRetrainingComplete stack s
  | .preEmptionSaveEnd stack => Sys2Proof.Machine.execPreEmptionSaveEnd stack s
  | .serviceEndsTeam t => Sys2Proof.Machine.execServiceEndsTeam t s
  | .serviceSheafRestart k => Sys2Proof.Machine.execServiceSheafRestart k s
  | .serviceSheafHalt k => Sys2Proof.Machine.execServiceSheafHalt k s
  | .portDown port reason => Sys2Proof.Machine.execPortDown port reason s
  | .portUp port peer => Sys2Proof.Machine.execPortUp port peer s
  | .thermalTrip core reading => Sys2Proof.Machine.execThermalTrip core reading s
  | .intervalBoundary => Sys2Proof.Machine.execIntervalBoundary s
  | .quotaRotation => Sys2Proof.Machine.execQuotaRotation s
  | .placement => Sys2Proof.Machine.execPlacement s
  | .bankSwap => Sys2Proof.Machine.execBankSwap s
  | .fetchTrap => Sys2Proof.Machine.execFetchTrap s
  | .powerOff => Sys2Proof.Machine.execPowerOff s

end Sys2Proof.Machine
end

