-- ==== Sys2Proof/Machine/Policy.lean ====
section
/-! DEFINITION. Turns: what each does, and the one taken when the agenda is empty (log entry 4): the first of a list of
candidates that changes the state, else the next cycle of a core, else the next mesh cycle. -/

namespace Sys2Proof.Machine

/-! ### The issues of a shadow sheaf (R180) -/

/-- Instructions whose results a shadow takes from its leader: loads, atomics, staged, engine and combine instructions, SREAD and
PREAD, and what acts on more than the sheaf's own registers. One that approximates is taken too. -/
def takesResult : Instr → Bool
  | .ld _ _ | .lds _ _ | .ldl _ _ | .pref _ _ => true
  | .aadd _ _ | .amin _ _ | .amax _ _ | .aand _ _ | .aor _ _ | .axor _ _ | .axchg _ _ | .acas _ _ | .afadd _ _ | .afaddO _ _
  | .aflush _ _ => true
  | .ldt _ _ | .stt _ _ | .xtr _ _ | .stbl _ _ => true
  | .cpy _ _ | .cpyr _ _ | .cpos _ _ | .dtab _ _ | .dec _ _ | .cwait _ _ | .ewait _ _ | .eqry _ _ => true
  | .ccfg _ _ | .cslot _ _ | .cgate _ _ | .cput _ _ | .cstat _ _ | .cfree _ _ => true
  | .sread _ _ | .pread _ _ | .plevel _ _ | .setgrade _ _ | .role _ _ | .bar _ _ | .barx _ _ => true
  | .wld _ _ | .wswp _ _ | .mma _ _ | .zclr _ _ | .zrd _ _ | .zwr _ _ | .rdc _ _ | .scan _ _ | .chain _ _ => true
  | .settle _ _ | .codesync _ _ | .tlbinv _ _ | .mapctlMap _ _ | .mapctlUnmap _ _ | .mapctlProtect _ _ | .mapctlMigrate _ _
  | .lnch _ _ | .savectx _ _ | .restctx _ _ | .snap _ _ => true
  | .fenceAcq _ _ | .fenceRel _ _ | .fenceFull _ _ | .spawn _ _ | .refill _ _ | .exit _ _ => true
  | _ => false

/-- A RET's entry came from memory, as a load's result does. -/
def toldEntry : Told → Bool
  | .entry _ _ _ => true
  | _ => false

/-- A leader has issued: its shadow will, with what the leader was given before. -/
def State.toShadow (s0 s1 : State) (t j : Nat) (ins : Instr) (mem apx : Bool) : State :=
  match s0.team? t, s1.team? t with
  | some a, some b =>
    match a.shadow? j, b.shadow? j with
    | some d, some d1 =>
      let x := a.sheaf j
      let y := b.sheaf j
      if d != d1 || x.iss == y.iss then s1
      else
        let told := y.told.drop x.told.length
        let took := apx || takesResult ins || told.any toldEntry
        let r : ShadowRec :=
          { instr := ins, seq := x.iss, mem := mem, taken := took, got := x.given, told0 := x.told,
            sync := changesOf d.last x.strands, told := told, after := changesOf x.strands y.strands, masks := y.masks,
            free := s0.free, tmode := x.tmode, hmask := x.hmask, safeAt := x.safeAt, maps := s0.translations a.core a.vdev }
        s1.modTeam t fun z => (z.modShadow j fun q => { q with stream := q.stream ++ [r], last := y.strands }).modSheaf j fun sh =>
          { sh with told := [], given := (y.given.drop x.given.length).filter fun p => took || p.seq != x.iss }
    | _, _ => s1
  | _, _ => s1

/-- The shadow's own issue: it takes what the leader was given, and performs the instruction itself or takes its results. Its
cluster is not idle in the interval (R255). -/
def State.shadowIssue (s : State) (t j : Nat) (d : Shadow) (r : ShadowRec) : State :=
  let sh0 := d.sheaf.takeIn r.sync r.got r.told0
  let sh := { sh0 with iss := r.seq, tmode := r.tmode, hmask := r.hmask, safeAt := r.safeAt }
  let rest := d.stream.drop 1
  let next := (s.team? t).elim 0 fun tm => (s.core tm.core).cycle + 1
  let d1 : Shadow :=
    if r.taken then
      { d with stream := rest,
               sheaf := { (r.told.foldl Sheaf.hear (sh.follow r.after)) with iss := r.seq + 1, masks := r.masks, nextAt := next } }
    else
      let d0 := { d with sheaf := sh, stream := rest }
      d0.back (outState (exec r.instr ({ s with free := r.free }.asShadow t j d0 r.maps)) s) t j
  let s1 := s.modTeam t fun x => x.modShadow j fun _ => d1
  ((s.team? t).elim s1 fun tm => s1.modCluster (clusterOfCore tm.core) fun k => { k with busy := true }).settled t

/-- Shadow sheaves of a core that can issue on a port: slot, team, sheaf, shadow and its next issue. -/
def State.shadowsOn (s : State) (core : Nat) (mem : Bool) : List (Nat × Nat × Nat × Shadow × ShadowRec) :=
  if (s.cluster (clusterOfCore core)).skips then []
  else (s.teamsOn core).flatMap fun tm => tm.sheafIdx.filterMap fun j =>
    match tm.shadow? j, (tm.sheaf j).shadow with
    | some d, some slot => match d.stream.head? with
      | some r => if r.mem == mem && decide (d.sheaf.nextAt ≤ (s.core core).cycle) && !s.powerParked tm j then some (slot, tm.key, j, d, r)
                  else none
      | none => none
    | _, _ => none

/-- A port that no leader uses in this cycle issues for a shadow, that of the lowest slot. -/
def State.shadowTurn (s : State) (core : Nat) (mem : Bool) : State :=
  match (s.shadowsOn core mem).foldl (fun (b : Option (Nat × Nat × Nat × Shadow × ShadowRec)) x => match b with
      | none => some x
      | some y => if x.1 < y.1 then some x else b) none with
  | none => s
  | some (_, t, j, d, r) => (s.modCore core fun c => if mem then { c with usedM := true } else { c with usedV := true }).shadowIssue t j d r

/-! ### Turns -/

/-- An issue's word approximates (R56). -/
def State.nextApx (s : State) (tm : Team) (pc : Nat) : Bool :=
  match s.fetchAt tm.core tm.vdev pc with
  | .word _ w => w.getLsbD 57
  | _ => false

/-- One issue port's turn: it chooses a sheaf, whose next instruction is performed, or a shadow where no sheaf is ready. The memory
port chooses after the vector port. A word that does not issue, refused or held for a commit (R72, R178), leaves the port and the
sheaf's turn as they are (R174). With `late` the loads that issue are performed by turns of their own (R157). -/
def State.issueOn (s : State) (core : Nat) (mem : Bool) (late : Bool := false) : Out :=
  let s0 := s.markCore core
  if (if mem then (s0.core core).usedM else (s0.core core).usedV) then .next s0
  else if mem && !(s0.core core).usedV && (s0.pick core false).isSome then .next s0
  else
    match s0.pick core mem with
    | none => .next (s0.shadowTurn core mem)
    | some r =>
      let ins := s0.chosenInstr r.1 r.2
      match exec ins { (s0.issuing r.1 r.2) with late := late } with
      | .next s2 =>
        let s1 : State := { s2 with late := false }
        if ((s1.team? r.1.key).elim true fun tm => (tm.sheaf r.2).iss != (r.1.sheaf r.2).iss) then
          .next ((s0.toShadow s1 r.1.key r.2 ins mem (s0.nextApx r.1 (((r.1.sheaf r.2).front).elim 0 Prod.snd))).issued core mem
            r.1.key r.2)
        else .next (s1.markSafe r.1.key)
      | .fault f => .fault f
      | .refused f => .refused f

/-- Instructions by which a team can draw items: REFILL, and the EXIT that leaves a sheaf empty (R89, R90). -/
def drawsItems : Instr → Bool
  | .refill _ _ | .exit _ _ => true
  | _ => false

/-- A port's next issue draws from the item counter of a stage. -/
def State.drawsNext (s : State) (core : Nat) (mem : Bool) : Option Team :=
  if (if mem then (s.core core).usedM else (s.core core).usedV) then none
  else (s.pick core mem).bind fun r => if !r.1.st.phased && drawsItems (s.chosenInstr r.1 r.2) then some r.1 else none

/-- Cores of a stage's teams of lower lid.team that draw from the counter in this cycle too: their requests are served first (R347).
What a core issues in a later cycle of its own counts as a later request (DEDUCED, log entry 29). -/
def State.drawsBefore (s : State) (core : Nat) (mem : Bool) : List Nat :=
  match s.drawsNext core mem with
  | none => []
  | some tm =>
    ((s.teams.filter fun (e : Nat × Team) => e.2.launch == tm.launch && e.2.stage == tm.stage && decide (e.2.lid < tm.lid) &&
      e.2.core != core && [false, true].any fun m => (s.drawsNext e.2.core m).elim false fun x => x.key == e.1).map
        fun (e : Nat × Team) => e.2.core).dedup

/-- An issue port's turn: draws of teams of lower lid.team that fall in the cycle go before its own (R347). -/
def State.issueTurn (s : State) (core : Nat) (mem : Bool) (late : Bool := false) : Out :=
  let run (x : State) (c : Nat) (m : Bool) : State := outState (x.issueOn c m) x
  ((s.drawsBefore core mem).foldl (fun (x : State) c => run (run x c false) c true) s).issueOn core mem late

/-- Corrected errors of a die's cellar are counted: in a service sheaf's store of a cluster, else of the die (R183, R263). -/
def State.countCellar (s : State) (d : Nat) : State :=
  (s.die d).corrected.foldl (fun (x : State) e =>
      x.sramEvent d true (if e.1 < 192 then srcCluster e.1 else srcDie) 4 e.2 255 (if e.1 < 192 then 0 else lineOf (cellarPa d (8 * e.2))))
    (s.modDie d fun q => { q with corrected := [] })

/-- What a mesh cycle begins with: the interval's boundary and the quotas' rotation at their times (R254, R259, R261), then what is
due of the stacks, the rails and the clocks (R254, R258, R311, R312, R320, R392), of decided teams and of hot cores (R351, R359,
R361). At a boundary the scheduler places teams (R348), after the claims of R349 (DEDUCED, log entry 29). -/
def State.cycleBegins (s : State) : State :=
  let run (x : State) (f : State → Out) : State := outState (f x) x
  let s0 := run (run s execIntervalBoundary) execQuotaRotation
  let sp := if s0.time % 20000 == 0 then s0.placeWaiting else s0
  let sd := sp.teams.foldl (fun (x : State) (e : Nat × Team) =>
    if e.2.preempt == .none then x else run (run x (execCaptureTimeout e.1)) (execResizeKill e.1)) sp
  let s1 := sd.cores.foldl (fun (x : State) (e : Nat × Core) =>
    if e.2.hotSince.isSome then run x (execThermalMigration e.1) else x) sd
  let s2 := s1.clusters.foldl (fun (x : State) (e : Nat × Cluster) =>
    run (run (x.cutDroop e.1) (execGradeReached e.1)) (execLevelClockSwitch e.1)) s1
  s2.dies.foldl (fun (x : State) (e : Nat × Die) => (x.stackTime (2 * e.1)).stackTime (2 * e.1 + 1)) s2

/-- What a mesh cycle ends with: the combine units' work, room that has freed in park queues and on cores, and the error logs (R270,
R302, R317, R348). -/
def State.cycleEnds (s : State) : State :=
  let s0 := s.unitCycles.refillAll
  let s1 := (if s0.roomGrew then s0.placeWaiting else s0).noteRoom
  (s1.dies.foldl (fun (x : State) (e : Nat × Die) => x.countCellar e.1) s1).writeLogs

/-- The next mesh cycle: the last one ends, time advances, messages leave, every port sends 100 bytes (R368), the new one begins. -/
def State.meshTurn (s : State) : State :=
  if !s.power then s
  else
    let s0 := s.cycleEnds
    let s1 := { s0 with time := s0.time + 1, cycled := [] }.drainOutbox
    let s2 : State := { s1 with fabric := { s1.fabric with ports := s1.fabric.ports.map fun p => { p with queued := p.queued - 100 } } }
    s2.cycleBegins

def State.turn (s : State) (t : Turn) : Out :=
  match t with
  | .event i => exec i s
  | .issue core mem => s.issueTurn core mem
  | .issueLate core mem => s.issueTurn core mem true
  | .cycle core => .next { (s.nextCycle core) with cycled := core :: s.cycled }
  | .mesh => .next s.meshTurn
  | .perform n => .next (s.performNth n)
  | .reveal n sc => .next (s.revealNth n sc)
  | .read n => .next (s.readNth n)
  | .send n => .next ((s.sending[n]?).elim s fun r => s.trySend r.id)
  | .refetch core => .next (s.modCore core fun c => { c with ibuf := [] })

/-! ### Candidates -/

/-- The event of a delivered message. -/
def msgEvent (m : Msg) : Option Instr :=
  match m.op with
  | 0x01 => some (.remoteAtomicRequest m) | 0x02 => some (.remoteAtomicAnswer m) | 0x03 => some (.remoteStagedRequest m)
  | 0x04 => some (.remoteStagedAnswer m) | 0x05 => some (.copyReadRequest m) | 0x06 => some (.copyReadData m)
  | 0x07 => some (.copyWrite m) | 0x08 => some (.writeAcknowledgement m) | 0x09 => some (.contributionRequest m)
  | 0x0B => some (.contributionData m) | 0x0C => some (.remoteSettleRequest m) | 0x0D => some (.remoteSettleAnswer m)
  | 0x12 => some (.journalQuery m) | 0x18 => some (.linkNotice m)
  | _ => none

def Sheaf.returns (sh : Sheaf) : List Nat := (sh.pend.filter fun p => p.due.isNone && p.ready && p.waits == 0).map fun p => p.seq

/-- Events of a team. -/
def teamEvents (t : Nat) (tm : Team) : List Instr :=
  tm.sheafIdx.flatMap (fun j =>
    Instr.trapDelivery t j :: (tm.sheaf j).returns.map fun q => Instr.resultReturn t j q (BitVec.allOnes 32)) ++
  (if tm.sheaves.any fun sh => sh.hold == .service then [Instr.serviceEndsTeam t] else []) ++
  (if tm.guarded.isSome then [Instr.forcedCommit t] else []) ++
  (if tm.preempt != .none then [Instr.capture t, Instr.captureTimeout t, Instr.resizeKill t] else []) ++
  (tm.matrix.queue.flatMap fun e => [Instr.sequencerEntryBegin t e.id, Instr.sequencerEntryFinish t e.id] ++
    (if tm.preempt != .none then [Instr.interruptionPointReached t e.id] else [])) ++
  ((tm.jobs.filter fun j => !j.settled).flatMap fun j =>
    [Instr.jobStart t j.seq, Instr.writePointerAdvance t j.seq, Instr.jobComplete t j.seq, Instr.jobFail t j.seq])

/-- Events of a cluster. -/
def clusterEvents (k : Nat) (c : Cluster) : List Instr :=
  (if c.queue.isEmpty then [] else
    [Instr.completionRegistration k, Instr.engineArrival k, Instr.atomicServe k, Instr.stagedRequest k]) ++
  (c.chains.map fun g => Instr.chainTimeout k g.launch g.key) ++ [Instr.levelClockSwitch k, Instr.gradeReached k]

/-- Events of a die. -/
def dieEvents (d : Nat) (q : Die) : List Instr :=
  (if q.unstamped.isEmpty then [] else [Instr.writeStamp d 0]) ++
  ((q.inbox.map fun m => m.die).dedup.map fun src => Instr.writeApply d src) ++
  (q.walks.flatMap fun w => [Instr.walkComplete d w.vdev w.page, Instr.faultService d w.vdev w.page]) ++
  (q.ctxs.flatMap fun (e : Nat × Ctx) =>
    [Instr.cslotGrant d e.1, Instr.poolGrant d e.1, Instr.contributionIntake d e.1] ++
    e.2.slots.flatMap fun (x : Nat × CSlot) => [Instr.combineDeadline d e.1 x.1, Instr.slotRelease d e.1 x.1]) ++
  ((q.stackA.retries ++ q.stackB.retries).map fun r => Instr.burstRetry d r.id false) ++
  [Instr.retrainSaveTimeout (2 * d), Instr.retrainSaveTimeout (2 * d + 1), Instr.preEmptionSaveEnd (2 * d),
   Instr.preEmptionSaveEnd (2 * d + 1)] ++
  (if q.stackA.out.isSome then [Instr.retrainingComplete (2 * d)] else []) ++
  (if q.stackB.out.isSome then [Instr.retrainingComplete (2 * d + 1)] else [])

/-- Events at fixed times. -/
def State.timedEvents (s : State) : List Instr :=
  (if s.time % 20000 == 0 then .intervalBoundary :: (List.range 32).map Instr.bandwidthInterval else []) ++
  (if s.time % 100000 == 0 then [Instr.quotaRotation] else []) ++
  (if s.time % 64000000 == 0 then (List.range 32).map Instr.activationWindowEnd else [])

def State.candidates (s : State) : List Turn :=
  (s.timedEvents ++
   (s.teams.flatMap fun (e : Nat × Team) => teamEvents e.1 e.2) ++
   (s.cores.filterMap fun (e : Nat × Core) => if e.2.borrow.isEmpty then none else some (Instr.roleGrant e.1)) ++
   (s.clusters.flatMap fun (e : Nat × Cluster) => clusterEvents e.1 e.2) ++
   (s.dies.flatMap fun (e : Nat × Die) => dieEvents e.1 e.2) ++
   (s.settles.map fun m => Instr.settleComplete m.n) ++
   (if s.finishes.isEmpty then [] else [Instr.writeApply 0 0]) ++
   (s.fabric.delivered.filterMap fun p => msgEvent p.msg) ++
   (if s.fabric.swapDue then [Instr.bankSwap] else []) ++
   (s.launches.flatMap fun l => if l.state == 2 then [] else
      [Instr.launchRun l.n, Instr.phaseAdvance l.n, Instr.launchComplete l.n]) ++
   [Instr.placement]).map Turn.event ++
  ((List.range s.loads.length).map Turn.read) ++
  ((List.range s.stores.length).map Turn.perform) ++
  ((List.range s.sending.length).map Turn.send) ++
  ((s.teams.map fun (e : Nat × Team) => e.2.core).dedup.flatMap fun c => [Turn.issue c false, Turn.issue c true])

/-- The turn changes the state. -/
def State.moves (s : State) (t : Turn) : Bool :=
  match s.turn t with
  | .next x => x != s
  | _ => true

/-- The turn taken when the agenda is empty: the boot first. -/
def State.defaultTurn (s : State) : Turn :=
  if !s.power then .mesh
  else if s.boot == 0 && s.bootFail.isNone then .event (.powerOn none)
  else
    match s.candidates.find? s.moves with
    | some t => t
    | none =>
      match (s.teams.map fun (e : Nat × Team) => e.2.core).find? fun c => !s.cycled.contains c with
      | some c => .cycle c
      | none => .mesh

/-! ### A word where the next step fetches -/

/-- The place of the word: a virtual page of device 0, at the first physical page of die 0. -/
def fetchVa : Nat := 0x10000

/-- A team of one sheaf with 32 active lanes at the word. -/
def fetchTeam : Team where
  key := teamKey 1 0 0
  launch := 1
  priv := true
  st := { roles := [{ k := 0, regs := 128 }] }
  code := fetchVa
  codeSize := 65536
  sheaves := [{ allot := 128, entry := BitVec.ofNat 48 fetchVa,
                strands := List.replicate 32 { pc := BitVec.ofNat 48 fetchVa, run := .active } }]

/-- The booted package, with only that team, whose page holds the word, and the word's port to move next. -/
def State.withWord (s : State) (w : Nat) : State :=
  let page : Mapping := { vdev := 0, va := fetchVa, pa := 0, w := false, x := true }
  let s1 := { s with
    power := true
    boot := 5
    bootFail := none
    teams := [(fetchTeam.key, fetchTeam)]
    pages := page :: s.pages.filter (fun m => !m.covers 0 fetchVa)
    turns := [.issue 0 (!vectorMajor (wordMajor w))] }
  ((s1.modCore 0 fun c => { c with usedV := false, usedM := false, agedV := none, agedM := none, ibuf := [], tlb := [] }).modCluster 0
    fun k => { k with injecting := none, tlb := [] }).modDie 0 fun d =>
      { d with view := d.view.setN 0 (natBytes 8 w), tlb := [] }

end Sys2Proof.Machine
end

