-- ==== Sys2Proof/Machine/Step.lean ====
section
/-! DEFINITION. One step: the next turn of the agenda, or the default turn. -/

namespace Sys2Proof.Machine

/-- One step of the package. -/
def step (s : State) : Host.Outcome State Fault Refusal :=
  match s.turns with
  | t :: r => { s with turns := r }.turn t
  | [] => s.turn s.defaultTurn

/-- The state in which the next step fetches and runs an instruction whose bits are `w` (log entry 4): a word stands for
eight bytes, lowest first. -/
def State.withFetchWord (s : State) (nbits w : Nat) : State := s.withWord (w % 2 ^ nbits % 2 ^ 64)

end Sys2Proof.Machine
end

