-- ==== Sys2Proof/Safety.lean ====
section
/-! DEFINITION. The terms claims use: the canonical form of memory, what an issue changes and leaves alone, and the writes
of an outstanding result. -/

namespace Sys2Proof.Machine

/-! ### Memory -/

/-- Every die's bytes are in canonical form. -/
def State.memWf (s : State) : Prop := ∀ e ∈ s.dies, Mem.wf e.2.view = true

/-- Every die reads the same byte at every physical address. -/
def SameBytes (s t : State) : Prop := ∀ d a, (t.die d).view.get a = (s.die d).view.get a

/-! ### One issue -/

/-- Sheaf `j` of a resident team. -/
def State.sheafAt (s : State) (t j : Nat) : Sheaf := ((s.team? t).getD {}).sheaf j

/-- From `s` to `t` one instruction of batch `i.batch` has issued and changed only its own sheaf: lane l of the batch has
become `next l` of its strand, the sheaf is what `f` makes of it, and everything else of the sheaf but its issue
bookkeeping, of its team and of the package is as it was (the cluster counts as busy; the counter of free-value draws may
have moved). -/
def IssuedAs (s t : State) (i : Iss) (f : Sheaf → Sheaf) (next : Nat → Strand → Strand) : Prop :=
  ∃ (strands : List Strand) (free : Nat),
    t = { s with
      teams := s.teams.put i.t (i.tm.modSheaf i.j fun sh => f { sh with
        strands := strands
        iss := sh.iss + 1
        marked := i.c.sw
        cleared := false
        nextAt := if i.c.ver1 then i.cycle + 1 + i.c.hold else i.cycle + 1 })
      clusters := s.clusters.upd i.cluster {} fun k => { k with busy := true }
      free := free } ∧
    strands.length = i.sh.strands.length ∧
    ∀ l, strands.getD l {} = if l ∈ i.batch then next l (i.sh.strand l) else i.sh.strand l

/-- The same where the sheaf gains only the further outstanding results `new`. -/
def Issued (s t : State) (i : Iss) (new : List Pending) (next : Nat → Strand → Strand) : Prop :=
  IssuedAs s t i (fun sh => { sh with pend := sh.pend ++ new }) next

/-- A lane that has performed no part of its instruction (R107). -/
def stay (_ : Nat) (st : Strand) : Strand := { st with run := .active }

/-- A lane past its instruction (R51, R81). -/
def past (_ : Nat) (st : Strand) : Strand := { st with pc := st.pc + 8, run := .active, refused := none }

/-! ### Writes of a result -/

/-- The writes of a vector or uniform result column (R49, R119): each lane whose guard is true takes its value and tag, a
uniform takes lane 0's; a lane whose guard is false and tagged A becomes A and keeps its bits; nothing else is written but
flags of lanes whose guard is true. -/
structure WritesColumn (i : Iss) (u : Bool) (d : Nat) (val : Nat → Word) (tag : Nat → Bool) (ws : List Wr) : Prop where
  vector : u = false → ∀ l ∈ i.on, Wr.v l (i.sh.ring l d) allOnes (val l) (some (tag l || i.aG.contains l)) ∈ ws
  uniform : u = true → i.on ≠ [] → Wr.u d allOnes (val 0) (some (tag 0 || !i.aG.isEmpty)) ∈ ws
  tagged : u = false → ∀ l ∈ i.offLanes, l ∈ i.aG → Wr.v l (i.sh.ring l d) 0 0 (some true) ∈ ws
  taggedUniform : u = true → i.on = [] → i.aG ≠ [] → Wr.u d 0 0 (some true) ∈ ws
  only : ∀ w ∈ ws, match w with
    | .v l e m b t => u = false ∧ e = i.sh.ring l d ∧
        (l ∈ i.on ∧ m = allOnes ∧ b = val l ∧ t = some (tag l || i.aG.contains l) ∨
          l ∈ i.offLanes ∧ l ∈ i.aG ∧ m = 0 ∧ t = some true)
    | .u k m b t => u = true ∧ k = d ∧
        (i.on ≠ [] ∧ m = allOnes ∧ b = val 0 ∧ t = some (tag 0 || !i.aG.isEmpty) ∨ i.on = [] ∧ i.aG ≠ [] ∧ m = 0 ∧ t = some true)
    | .f l _ clr => l ∈ i.on ∧ clr = 0
    | .p _ _ _ _ => False

/-- The writes of a predicate result. -/
structure WritesPredicate (i : Iss) (d : Nat) (val tag : Nat → Bool) (ws : List Wr) : Prop where
  lanes : ∀ l ∈ i.on, Wr.p l d (some (val l)) (some (tag l || i.aG.contains l)) ∈ ws
  tagged : ∀ l ∈ i.offLanes, l ∈ i.aG → Wr.p l d none (some true) ∈ ws
  only : ∀ w ∈ ws, match w with
    | .p l k v t => k = d ∧ (l ∈ i.on ∧ v = some (val l) ∧ t = some (tag l || i.aG.contains l) ∨
        l ∈ i.offLanes ∧ l ∈ i.aG ∧ v = none ∧ t = some true)
    | .f l _ clr => l ∈ i.on ∧ clr = 0
    | _ => False

/-- The flags a result ORs into F (R33): in every lane whose guard is true, unless A is set, a source or the guard is
approximate, or there is none. -/
def WritesFlags (i : Iss) (fl : Nat → Flags) (tag : Nat → Bool) (ws : List Wr) : Prop :=
  ∀ l x, Wr.f l x 0 ∈ ws ↔ l ∈ i.on ∧ x = fl l ∧ fl l ≠ 0 ∧ i.c.apx = false ∧ tag l = false ∧ l ∉ i.aG

/-- The outstanding result of writes `ws` (R59): written `n` cycles after the issue (R61), or, with none, when it returns
(R62). No writes make none. -/
def Iss.outstanding (i : Iss) (n : Option Nat) (ws : List Wr) : List Pending :=
  if ws = [] then [] else [{ seq := i.seq, due := n.map (i.cycle + ·), writes := ws }]

/-- `ins` completes with a result column: value, tag and flags of each lane (lane 0's for a uniform). -/
def CompletesColumn (ins : Instr) (s : State) (i : Iss) (u : Bool) (d : Nat) (n : Option Nat) (val : Nat → Word)
    (tag : Nat → Bool) (fl : Nat → Flags) : Prop :=
  ∃ t ws, exec ins s = .next t ∧ Issued s t i (i.outstanding n ws) past ∧ WritesColumn i u d val tag ws ∧
    WritesFlags i (fun l => fl (if u then 0 else l)) (fun l => tag (if u then 0 else l)) ws

/-- `ins` completes with a predicate result. -/
def CompletesPredicate (ins : Instr) (s : State) (i : Iss) (d n : Nat) (val tag : Nat → Bool) (fl : Nat → Flags) : Prop :=
  ∃ t ws, exec ins s = .next t ∧ Issued s t i (i.outstanding (some n) ws) past ∧ WritesPredicate i d val tag ws ∧
    WritesFlags i fl tag ws

/-- `ins` completes with one outstanding result whose writes satisfy `P`. -/
def CompletesWrites (ins : Instr) (s : State) (i : Iss) (n : Option Nat) (P : List Wr → Prop) : Prop :=
  ∃ t ws, exec ins s = .next t ∧ Issued s t i (i.outstanding n ws) past ∧ P ws

/-- Each sub-element of a column is the given one; under the A bit it may differ in the L(w, g) bits that R45 exposes. -/
def Elements (i : Iss) (ty : Ty) (v : Word) (f : Nat → Nat) : Prop :=
  ∀ k, k < 64 / ty.width →
    (i.c.apx = false → elem ty.width k v = f k) ∧
    (i.c.apx = true → elem ty.width k v / 2 ^ exposureBits ty.width i.grade = f k / 2 ^ exposureBits ty.width i.grade)

/-! ### Caches -/

/-- From `s` to `t` only translation buffers and cellar caches have changed. -/
def OnlyCaches (s t : State) : Prop :=
  t = { s with cores := t.cores, clusters := t.clusters, dies := t.dies } ∧
  (∀ c, t.core c = { s.core c with tlb := (t.core c).tlb }) ∧
  (∀ k, t.cluster k = { s.cluster k with tlb := (t.cluster k).tlb }) ∧
  ∀ d, t.die d = { s.die d with tlb := (t.die d).tlb, cache := (t.die d).cache }

end Sys2Proof.Machine
end

