-- ==== Sys2Proof/Certificates/Slice0/Obligations.lean ====
section
/-! DEFINITION. The statements for the provers. -/

namespace Sys2Proof.Machine

/-! ### Integer family -/

/-- One row of R123's table: major and fn, control, operands, latency (none: variable), whether it divides, and its exact
result from the patterns of a, b and c. -/
structure IntRow where
  m : Nat
  fn : Nat
  c : Ctl
  o : OpR
  lat : Option Nat := some 2
  divides : Bool := false
  exact : Nat → Nat → Nat → Int

/-- The table of R123. -/
def integerRow : Instr → Option IntRow
  | .iadd c o => some { m := 0x18, fn := 0, c := c, o := o, exact := fun a b _ => z o a + z o b }
  | .isub c o => some { m := 0x19, fn := 0, c := c, o := o, exact := fun a b _ => z o a - z o b }
  | .imul c o => some { m := 0x1A, fn := 0, c := c, o := o, lat := some 4, exact := fun a b _ => z o a * z o b }
  | .imulh c o => some { m := 0x1B, fn := 0, c := c, o := o, lat := some 4, exact := fun a b _ => z o a * z o b / 2 ^ o.ty.width }
  | .imad c o => some { m := 0x1C, fn := 0, c := c, o := o, lat := some 4, exact := fun a b d => z o a * z o b + z o d }
  | .idiv c o => some { m := 0x1D, fn := 0, c := c, o := o, lat := none, divides := true, exact := fun a b _ => (z o a).tdiv (z o b) }
  | .irem c o => some { m := 0x1E, fn := 0, c := c, o := o, lat := none, divides := true,
                        exact := fun a b _ => z o a - z o b * (z o a).tdiv (z o b) }
  | .imin c o => some { m := 0x1F, fn := 0, c := c, o := o, exact := fun a b _ => min (z o a) (z o b) }
  | .imax c o => some { m := 0x20, fn := 0, c := c, o := o, exact := fun a b _ => max (z o a) (z o b) }
  | .iabs c o => some { m := 0x21, fn := 0, c := c, o := o, exact := fun a _ _ => |z o a| }
  | .ineg c o => some { m := 0x22, fn := 0, c := c, o := o, exact := fun a _ _ => -z o a }
  | .and c o => some { m := 0x23, fn := 0, c := c, o := o, exact := fun a b _ => (a &&& b : Nat) }
  | .or c o => some { m := 0x23, fn := 1, c := c, o := o, exact := fun a b _ => (a ||| b : Nat) }
  | .xor c o => some { m := 0x23, fn := 2, c := c, o := o, exact := fun a b _ => (a ^^^ b : Nat) }
  | .not c o => some { m := 0x23, fn := 3, c := c, o := o, exact := fun a _ _ => 2 ^ o.ty.width - 1 - a }
  | .andn c o => some { m := 0x23, fn := 4, c := c, o := o, exact := fun a b _ => (a &&& (2 ^ o.ty.width - 1 - b) : Nat) }
  | .shl c o => some { m := 0x24, fn := 0, c := c, o := o, exact := fun a b _ => z o a * 2 ^ b }
  | .shr c o => some { m := 0x24, fn := 1, c := c, o := o, exact := fun a b _ => z o a / 2 ^ b }
  | .rot c o => some { m := 0x25, fn := 0, c := c, o := o,
                       exact := fun a b _ => (a * 2 ^ (b % o.ty.width) + a / 2 ^ (o.ty.width - b % o.ty.width) : Nat) }
  | .popc c o => some { m := 0x26, fn := 0, c := c, o := o,
                        exact := fun a _ _ => ((List.range o.ty.width).countP fun k => a.testBit k : Nat) }
  | .clz c o => some { m := 0x26, fn := 1, c := c, o := o, exact := fun a _ _ => (o.ty.width - a.size : Nat) }
  | .brev c o => some { m := 0x26, fn := 2, c := c, o := o, exact := fun a _ _ =>
      (((List.range o.ty.width).map fun k => if a.testBit k then 2 ^ (o.ty.width - 1 - k) else 0).sum : Nat) }
  | _ => none
where
  /-- Int(v, type) of R123. -/
  z (o : OpR) (v : Nat) : Int := toInt o.ty.signed o.ty.width v

/-! ### Comparisons -/

/-- The compare rows of R128 and R132: major, comparison, control, operands, latency. -/
def compareRow : Instr → Option (Nat × Cmp × Ctl × OpR × Nat)
  | .icmp c k o => some (0x2A, k, c, o, 2)
  | .fcmp c k o => some (0x36, k, c, o, if o.ty = .f64 then 8 else 4)
  | _ => none

/-- The outcome of a comparison of element lists by its mode (R128). -/
def compareOutcome (mode : Nat) (rs : List (Bool × Flags)) : Bool × Flags :=
  match mode with
  | 0 => rs.headD (false, 0)
  | 1 => (rs.all Prod.fst, rs.foldl (fun f r => f ||| r.2) 0)
  | _ => (rs.any Prod.fst, rs.foldl (fun f r => f ||| r.2) 0)

/-! ### Floating point -/

/-- A float row: major and fn, control, operands, latency, and the member of R130 and R131. -/
structure FloatRow where
  m : Nat
  fn : Nat
  c : Ctl
  o : OpR
  slow : Bool := false
  op : FOp

/-- The members of R130 and R131. -/
def floatRow : Instr → Option FloatRow
  | .fadd c o => some { m := 0x30, fn := 0, c := c, o := o, op := .add }
  | .fsub c o => some { m := 0x31, fn := 0, c := c, o := o, op := .sub }
  | .fmul c o => some { m := 0x32, fn := 0, c := c, o := o, op := .mul }
  | .ffma c o => some { m := 0x33, fn := 0, c := c, o := o, op := .fma }
  | .fmin c o => some { m := 0x34, fn := 0, c := c, o := o, op := .min }
  | .fmax c o => some { m := 0x35, fn := 0, c := c, o := o, op := .max }
  | .frcp c o => some { m := 0x38, fn := 0, c := c, o := o, slow := true, op := .rcp }
  | .frsq c o => some { m := 0x38, fn := 1, c := c, o := o, slow := true, op := .rsq }
  | .fsqrt c o => some { m := 0x38, fn := 2, c := c, o := o, slow := true, op := .sqrt }
  | .fexp2 c o => some { m := 0x38, fn := 3, c := c, o := o, slow := true, op := .exp2 }
  | .flog2 c o => some { m := 0x38, fn := 4, c := c, o := o, slow := true, op := .log2 }
  | .fsin c o => some { m := 0x38, fn := 5, c := c, o := o, slow := true, op := .sin }
  | .fcos c o => some { m := 0x38, fn := 6, c := c, o := o, slow := true, op := .cos }
  | .frnd c o => some { m := 0x38, fn := 7, c := c, o := o, slow := true, op := .rnd }
  | .fdiv c o => some { m := 0x39, fn := 0, c := c, o := o, slow := true, op := .div }
  | _ => none

/-- The exact value of a finite pattern as a rational number; infinities and NaNs have none. -/
def FV.rational : FV → Option Rat
  | .fin n m e => some ((if n then -(m : Rat) else m) * (2 : Rat) ^ e)
  | _ => none

/-- The value of a pattern among the extended rationals; a NaN has none, and no claim reads it there. -/
def FV.extended : FV → WithBot (WithTop Rat)
  | .fin n m e => (((if n then -(m : Rat) else m) * (2 : Rat) ^ e : Rat) : WithTop Rat)
  | .inf false => (⊤ : WithTop Rat)
  | _ => ⊥

/-- The IEEE formats (R26). -/
def FFmt.ieee (f : FFmt) : Prop := f = .f16 ∨ f = .bf16 ∨ f = .f32 ∨ f = .f64

/-- n is x rounded to an integer in a mode (R28). -/
def IsRounded {K : Type} [Ring K] [LinearOrder K] [FloorRing K] [Div K] (mode : Rnd) (x : K) (n : Int) : Prop :=
  match mode with
  | .rne => |x - n| < 1 / 2 ∨ |x - n| = 1 / 2 ∧ Even n
  | .rtz => if 0 ≤ x then n = ⌊x⌋ else n = ⌈x⌉
  | .rup => n = ⌈x⌉
  | .rdn => n = ⌊x⌋

/-- y is the multiple of u to which x rounds in a mode (R28). -/
def NearestMultiple (mode : Rnd) (u x y : ℝ) : Prop := ∃ n : Int, IsRounded mode (x / u) n ∧ y = n * u

/-- The outcome r of RoundF on an exact nonzero real x (R28, R29, R31). With 2^k ≤ |x| < 2^(k+1): t is x at p bits, y is x on
the format's grid; a t beyond the largest finite number overflows as R28's table says; else r encodes y with the sign of x,
and raises inexact when y is not x, and underflow too when t is tiny. -/
def RoundsTo (f : FFmt) (mode : Rnd) (x : ℝ) (r : Nat × Flags) : Prop :=
  ∃ (k : Int) (t y : ℝ), (2 : ℝ) ^ k ≤ |x| ∧ |x| < (2 : ℝ) ^ (k + 1) ∧
    NearestMultiple mode ((2 : ℝ) ^ (k - f.p + 1)) x t ∧ NearestMultiple mode ((2 : ℝ) ^ (max k f.emin - f.p + 1)) x y ∧
    let largest : ℝ := (2 - (2 : ℝ) ^ (1 - (f.p : Int))) * (2 : ℝ) ^ (f.bias : Int)
    (largest < |t| →
      r.2 = flagOF ||| flagNX ∧
      (0 < x → r.1 = if mode = .rne ∨ mode = .rup then f.inf else f.maxFinite) ∧
      (x < 0 → r.1 = f.signBit + if mode = .rne ∨ mode = .rdn then f.inf else f.maxFinite)) ∧
    (|t| ≤ largest →
      r.1 < 2 ^ f.w ∧ (∃ q : Rat, (f.value r.1).rational = some q ∧ (q : ℝ) = y) ∧ ((f.value r.1).neg? = true ↔ x < 0) ∧
      (y = x → r.2 = 0) ∧ (y ≠ x → |t| < (2 : ℝ) ^ f.emin → r.2 = flagNX ||| flagUF) ∧
      (y ≠ x → (2 : ℝ) ^ f.emin ≤ |t| → r.2 = flagNX))

/-- The invalid cases of R130's table, on operands none of which is a NaN but as FFMA's says. -/
def InvalidCase (op : FOp) (x y z : FV) : Prop :=
  let zeroTimesInf (a b : FV) : Prop := a.isZero = true ∧ b.isInf = true ∨ a.isInf = true ∧ b.isZero = true
  let number (a : FV) : Prop := a.isNan = false
  match op with
  | .add => ∃ g, x = .inf g ∧ y = .inf (!g)
  | .sub => ∃ g, x = .inf g ∧ y = .inf g
  | .mul => zeroTimesInf x y
  | .fma => zeroTimesInf x y ∨
      number x ∧ number y ∧ (x.isInf = true ∨ y.isInf = true) ∧ ∃ g, z = .inf g ∧ (x.neg? != y.neg?) = !g
  | .div => x.isZero = true ∧ y.isZero = true ∨ x.isInf = true ∧ y.isInf = true
  | .sqrt | .rsq | .log2 => x = .inf true ∨ x.neg? = true ∧ x.isInf = false ∧ x.isZero = false
  | .sin | .cos => x.isInf = true
  | _ => False

/-- The float operands that a member reads. -/
def operandsOf (op : FOp) (x y z : FV) : List FV :=
  match op with
  | .add | .sub | .mul | .div | .min | .max => [x, y]
  | .fma => [x, y, z]
  | _ => [x]

/-! ### Conversions -/

/-- The sources PACK narrows and UNPK widens have T's kind and the given width (R135). -/
def SameKind (t src : Ty) (w : Nat) : Prop :=
  src ≠ .tb8 ∧ src.width = w ∧ src.float = t.float ∧ src.signed = t.signed

/-- The results of converted elements: v at element k, and the OR of their flags. -/
def conversions (src dst : Ty) (mode : Rnd) (es : List Nat) : List Nat × Flags :=
  (es.map fun e => (cvtElem src dst mode e).1 % 2 ^ dst.width, es.foldl (fun f e => f ||| (cvtElem src dst mode e).2) 0)

/-- Sub-elements `start` to `start + n - 1` at width w. -/
def elemsAt (w start n : Nat) (v : Word) : List Nat := (List.range n).map fun k => elem w (start + k) v

/-- The two-source members of R143, in fn order. -/
def predicateRow : Instr → Option (Nat × Ctl × OpR × (Bool → Bool → Bool))
  | .pand c o => some (0, c, o, fun a b => a && b)
  | .por c o => some (1, c, o, fun a b => a || b)
  | .pxor c o => some (2, c, o, fun a b => a ^^ b)
  | _ => none

/-! ### Control -/

/-- The verdict of R98 on a target: the first failing check, in the table's order. -/
def targetVerdict (s : State) (i : Iss) (callx : Bool) (v : Val) (st : Strand) : Option Nat :=
  if v.tag then some 0x402
  else if callx ∧ 255 ≤ st.depth then some 0x503
  else if v.bits.toNat % 8 ≠ 0 then some 0x506
  else if 2 ^ 48 ≤ v.bits.toNat then some 0x702
  else match s.fetchAt i.core i.tm.vdev v.bits.toNat with
    | .unmapped => some 0x702
    | .notExecutable => some 0x704
    | .approx => some 0x507
    | .word _ w => match decode w with
      | .ok (.land _ _) => none
      | _ => some 0x507

/-- What remains of outstanding results once an instruction of number `n` has written the ring entries that `here` names: an
earlier-issued one loses those entries (R62). -/
def stripped (here : Nat → Nat → Bool) (n : Nat) (ps : List Pending) : List Pending :=
  ps.map fun q => if q.seq ≤ n then { q with writes := q.writes.map fun w => match w with
    | .v l e m b t => if here l e then Wr.v l e 0 b none else .v l e m b t
    | x => x } else q

/-- The ring entries that a call with frame `f` writes: the link, and the callee's new registers (R85). -/
def callWrites (i : Iss) (f l e : Nat) : Bool :=
  i.on.contains l && (e == i.sh.ring l (8 * f - 1) || (List.range (8 * f)).any fun k => e == i.sh.ring l (i.sh.w + k))

/-- The link word of R85. -/
def linkOf (i : Iss) (f : Nat) : Val := { bits := BitVec.ofNat 64 ((i.pc + 8).toNat + f % 32 * 2 ^ 48) }

/-- `ins` is a CALL or CALLX with frame `f`, whose lanes' targets pass their checks. -/
def Calls (s : State) (i : Iss) (c : Ctl) (ins : Instr) (f : Nat) (tgt : Nat → Pc) : Prop :=
  (∃ o : OpB, ins = .call c o ∧ f = o.frame ∧
      ∀ l, tgt l = BitVec.ofInt 48 ((i.pc.toNat : Int) + 8 * (BitVec.ofNat 36 o.off).toInt)) ∨
    ∃ o : OpJ, ins = .callx c o ∧ f = o.frame ∧ o.target < i.sh.w ∧
      ∀ l, tgt l = (i.sh.v l o.target).bits.setWidth 48 ∧
        (l ∈ i.on → i.poisoned l [o.target] = false ∧
          targetVerdict s i true (i.sh.v l o.target) (i.sh.strand l) = none)

/-- Entries `a` to `b - 1` of a lane's spill area, and their tags, lie in one precise page that the lane may access (R391). -/
def SpillReach (s : State) (i : Iss) (l : Nat) (r w : Bool) (m : Mapping) (a b : Nat) : Prop :=
  m.grade = 8 ∧ ∀ e, a ≤ e → e < b → ∀ va, va = spillVa i.tm i.j l e ∨ va = spillTagVa i.tm i.j l e →
    s.spillAccess i.tm (i.sh.strand l).refused r w va = .ok m (m.pa + (va - m.va))

/-- What a lane's spill area holds for entry `e`, as the lane sees it: bits and tag (R84). -/
def spilledVal (s : State) (i : Iss) (l : Nat) (m : Mapping) (e : Nat) : Val :=
  let ws := s.ownWrites i.tm i.j (laneBit l)
  { bits := BitVec.ofNat 64 (bytesNat ((List.range 8).map fun k =>
      s.byteAt i.die ws (m.pa + (spillVa i.tm i.j l e - m.va) + k)))
    tag := (s.byteAt i.die ws (m.pa + (spillTagVa i.tm i.j l e - m.va))).getLsbD (e % 8) }

/-! ### Memory -/

/-- The verdict of R153 on a global access of a lane, rows 2 to 4: a cause, or the mapping and the physical address; `none` in
its place where the lane parks for its page (R154). -/
def pageVerdict (s : State) (i : Iss) (store : Bool) (o : OpM) (l : Nat) : Option (Nat ⊕ (Mapping × Nat)) :=
  let a := i.memAddr o l
  if a % (o.ty.width / 8) ≠ 0 then some (.inl 0x701)
  else if 2 ^ 52 ≤ a then some (.inl 0x702)
  else match s.lookup i.core i.tm.vdev a with
    | none => if (i.sh.strand l).refused = some (a / 65536) then some (.inl 0x702) else none
    | some m =>
      let pa := m.pa + (a - m.va)
      let held : Bool := match s.region? pa with
        | some g => g.ctx.isSome
        | none => false
      if (if store then m.w else m.r) = false ∨ isFabric pa = true ∨ held = true then some (.inl 0x703)
      else some (.inr (m, pa))

/-- Rows 1 to 4. -/
def globalVerdict (s : State) (i : Iss) (store : Bool) (o : OpM) (l : Nat) : Option (Nat ⊕ (Mapping × Nat)) :=
  if i.addrTag o.base o.index l then some (.inl 0x401) else pageVerdict s i store o l

/-- The lanes whose access is made: each lane whose guard is true, or the first of them for a uniform (R149). -/
def accessLanes (i : Iss) (u : Bool) : List Nat := if u then i.on.take 1 else i.on

/-- The lanes for which the access of lane l is made. -/
def accessFor (i : Iss) (u : Bool) (l : Nat) : List Nat := if u then i.on else [l]

/-- The lane whose access gives lane l's result. -/
def resultLane (i : Iss) (u : Bool) (l : Nat) : Nat := if u then i.on.headD 0 else l

/-- The store of a lane on its die (R152): its address is the lane's address translated, its width is kept by approximate
storage alone (R48). -/
def storeOf (i : Iss) (o : OpM) (x : Mapping × Nat) (l : Nat) : Nat × Write :=
  (i.tm.die, {
    pa := x.2
    bytes := natBytes (o.ty.width / 8) (if o.u then i.sh.u o.t else i.sh.v l o.t).bits.toNat
    width := if x.1.grade = 8 then 0 else o.ty.width
    sheaf := i.tm.key * 16 + i.j
    lanes := maskOf (accessFor i o.u l)
    iss := i.seq + 1
    core := i.tm.core })

/-- A unit of approximate storage is `x`, of which `v` was stored last: its exposed bits may differ, and none of a unit that R48
treats as a NaN or an infinity does. -/
def UnitReads (w grade v x : Nat) : Prop :=
  let cut := 2 ^ exposureBits w grade
  let field (lo n : Nat) : Prop := v / 2 ^ lo % 2 ^ n = 2 ^ n - 1
  let kept : Prop := w = 16 ∧ (field 10 5 ∨ field 7 8) ∨ w = 32 ∧ field 23 8 ∨ w = 64 ∧ field 52 11
  x < 2 ^ w ∧ (kept → x = v) ∧ (¬ kept → x / cut = v / cut)

/-- The register that a load of a type fills from address `a` of a space whose bytes are `get` (R151, R48): its bytes,
little-endian, extended by the type's signedness; of approximate storage each naturally aligned unit of the line's storage
width is exposed. -/
def LoadedAs (ty : Ty) (val : Word) (get : Nat → Byte) (grade width a : Nat) : Prop :=
  ∃ v : Nat, val = (if ty.signed then BitVec.ofInt 64 (toInt true ty.width v) else BitVec.ofNat 64 v) ∧ v < 2 ^ ty.width ∧
    (8 ≤ ty.width →
      (grade = 8 → ∀ k < ty.width / 8, BitVec.ofNat 8 (v / 256 ^ k) = get (a + k)) ∧
      (grade ≠ 8 → width = 8 ∨ width = 16 ∨ width = 32 ∨ width = 64 → ∃ unit : Nat → Nat,
        (∀ b, UnitReads width grade (bytesNat ((List.range (width / 8)).map fun q => get (b + q))) (unit b)) ∧
        ∀ k < ty.width / 8, let b := (a + k) / (width / 8) * (width / 8)
          BitVec.ofNat 8 (v / 256 ^ k) = BitVec.ofNat 8 (unit b / 256 ^ (a + k - b))))

/-- A load of a line that is no precise cellar line passes its checks: LD of a global address, LDS of an offset in a cellar region
of the launch; the place and its grade. -/
def PlainLoad (s : State) (i : Iss) (c : Ctl) (o : OpM) (ins : Instr) (pa grade : Nat → Nat) : Prop :=
  (∀ l ∈ accessLanes i o.u, i.poisoned l (memRegs o false) = false ∧ s.poisonAt (pa l) (o.ty.width / 8) = false ∧
    (grade l ≠ 8 ∨ s.preciseCellar (pa l) = false)) ∧
  (ins = .ld c o ∧ (∀ l ∈ accessLanes i o.u, ∃ m, globalVerdict s i false o l = some (.inr (m, pa l)) ∧ m.grade = grade l) ∨
    ins = .lds c o ∧ ∀ l ∈ accessLanes i o.u, i.addrTag o.base o.index l = false ∧ i.memAddr o l % (o.ty.width / 8) = 0 ∧
      i.memAddr o l < 201326592 ∧ pa l = 2 ^ 44 + i.die * 2 ^ 28 + i.memAddr o l ∧
      ∃ g, s.region? (pa l) = some g ∧ g.launch = some i.tm.launch ∧ g.ctx = none ∧ g.grade = grade l)

/-! ### The matrix array -/

/-- The matrix instructions. -/
def matrixRow : Instr → Option (SeqOp × Ctl × OpQ)
  | .wld c o => some (.wld, c, o)
  | .wswp c o => some (.wswp, c, o)
  | .mma c o => some (.mma, c, o)
  | .zclr c o => some (.zclr, c, o)
  | .zrd c o => some (.zrd, c, o)
  | .zwr c o => some (.zwr, c, o)
  | .rdc c o => some (.rdc, c, o)
  | .scan c o => some (.scan, c, o)
  | .chain c o => some (.chain, c, o)
  | _ => none

/-- One precise element of R204: the products of a row and a column, in ascending k, accumulated into a pair; FP32 products one
at a time, the others in exact block sums of 32. -/
def accumulated (ty : Ty) (ps : List FV) (p : Nat × Nat) : Nat × Nat :=
  if ty = .f32 then ps.foldl (fun q x => accBlock q.1 q.2 x) p
  else (List.range (recordK ty / 32)).foldl (fun q b => accBlock q.1 q.2 (sumFV ((ps.drop (32 * b)).take 32))) p

/-- What an array entry makes of a pair (R204): the precise form accumulates into it; the approximate form rounds each block's exact
sum with the pair once, and exposes the result, of which it leaves a NaN or an infinity alone. -/
def Accumulates (ty : Ty) (apx : Bool) (g : Nat) (ps : List FV) (p q : Nat × Nat) : Prop :=
  (apx = false → q = accumulated ty ps p) ∧
  (apx = true → ∃ f : Nat → Nat × Nat, f 0 = p ∧ f (recordK ty / 32) = q ∧ ∀ b < recordK ty / 32,
    let v := rn32 (sumFV [val32 (f b).1, val32 (f b).2, sumFV ((ps.drop (32 * b)).take 32)])
    (f (b + 1)).2 = 0 ∧ (f (b + 1)).1 / 2 ^ exposureBits 32 g = v / 2 ^ exposureBits 32 g ∧
      (v / 2 ^ 23 % 2 ^ 8 = 2 ^ 8 - 1 → (f (b + 1)).1 = v))

/-- `get` is what a read of n larder bytes from address a gives: precise lines as they stand, approximate ones with each unit of the
line's storage width exposed (R48). -/
def LarderReads (tm : Team) (a n : Nat) (get : Nat → Byte) : Prop :=
  let width (b : Nat) : Nat := tm.larderW.val (lineOf b) 32
  let known (w : Nat) : Prop := w = 8 ∨ w = 16 ∨ w = 32 ∨ w = 64
  ∃ unit : Nat → Nat,
    (∀ b, tm.larderGrade b ≠ 8 → known (width b) → UnitReads (width b) (tm.larderGrade b)
      (bytesNat ((List.range (width b / 8)).map fun q => tm.larderByte (b + q))) (unit b)) ∧
    ∀ k < n, let u := width (a + k) / 8
      (tm.larderGrade (a + k) = 8 → get k = tm.larderByte (a + k)) ∧
      (tm.larderGrade (a + k) ≠ 8 → known (width (a + k)) →
        get k = BitVec.ofNat 8 (unit ((a + k) / u * u) / 256 ^ ((a + k) % u)))

/-- The tag of the larder lines that an instruction's entry reads, as its issue knows it (R200, R201). -/
def linesTag (i : Iss) (op : SeqOp) (o : OpQ) : Bool :=
  let a := (i.sh.u o.sA).bits.toNat
  let d := (i.sh.u o.sN).bits
  match op with
  | .wld => o.x % 2 == 1 && decide (a < i.tm.st.larderA)
  | .mma | .rdc | .scan | .zwr => (List.range (descRows d)).any fun j => decide (a + 128 * descStride d * j < i.tm.st.larderA)
  | _ => false

/-- The issued formats and tags of the latches, and the issued tags of the bins, that an entry leaves in `m` (R200, R201). -/
def IssuedTags (i : Iss) (op : SeqOp) (c : Ctl) (o : OpQ) (m : Matrix) : Prop :=
  let old := i.tm.matrix
  let guard := !i.aG.isEmpty
  let lines := linesTag i op o
  let bin := old.issuedBinTag.getLsbD o.z
  let latch := (old.issuedOf o.latch).2
  let load (tag : Bool) : Prop :=
    if o.latch = 0 then m.issued0 = (latchFmt o.ty, tag) ∧ m.issued1 = old.issued1
    else m.issued1 = (latchFmt o.ty, tag) ∧ m.issued0 = old.issued0
  (match op with
    | .wld => load (lines || guard)
    | .rdc | .scan => load (c.apx || guard)
    | .wswp => m.issued0 = old.issued1 ∧ m.issued1 = old.issued0
    | _ => m.issued0 = old.issued0 ∧ m.issued1 = old.issued1) ∧
  ∀ z < 16, m.issuedBinTag.getLsbD z = if z = o.z then (match op with
      | .mma => bin || c.apx || latch || lines || guard
      | .chain => bin || latch || guard
      | .rdc | .scan => bin || c.apx || lines || guard
      | .zclr => false
      | .zwr => if descRows (i.sh.u o.sN).bits = 64 then lines || guard else bin || lines || guard
      | _ => bin) else old.issuedBinTag.getLsbD z

/-- The bin rows that rows `j0` to `j1 - 1` of a descriptor name. -/
def rowWithin (d : Word) (j0 j1 row : Nat) : Prop := descFirst d + j0 ≤ row ∧ row < descFirst d + j1

/-- An entry that may begin (R192), and is not held by a job that writes its tile (R216), by a decision (R194) or by a rail that has
not reached its team's grade (R253). -/
def mayBegin (tm : Team) (e : SeqEntry) : Prop :=
  tm.matrix.mayBegin e = true ∧ tm.jobBlocks e = false ∧ tm.entryHeld e = false ∧ tm.waitsRail = false

/-- The lanes of the sheaf whose guard is true and not vacant: none (R94). -/
def guardNowhere (i : Iss) : Prop := ∀ l < 32, (i.sh.strand l).run = .vacant ∨ guardOf i.c (i.sh.strand l) = false

/-- An entry that its event advances or finishes alone: begun, not held by a decision, of no chain, in a team whose sequencer
has met no difference. -/
def Runs (s : State) (t : Nat) (tm : Team) (e : SeqEntry) : Prop :=
  e.started = true ∧ tm.entryHeld e = false ∧ s.chainOf (clusterOfCore tm.core) t e.id = none ∧
    ∀ g, tm.guarded = some g → g.mismatch = none

/-! ### Engines, atomics, staged objects -/

/-- The job instructions. -/
def jobRow : Instr → Option (JobKind × Ctl × OpE)
  | .cpy c o => some (.cpy, c, o)
  | .cpyr c o => some (.cpyr, c, o)
  | .cpos c o => some (.cpos, c, o)
  | .dtab c o => some (.dtab, c, o)
  | .dec c o => some (.dec, c, o)
  | _ => none

/-- Storage widths (R48). -/
def KnownWidth (w : Nat) : Prop := w = 8 ∨ w = 16 ∨ w = 32 ∨ w = 64

/-- `bs` is what a read from address a of storage of one grade and storage width gives (R48). -/
def StorageReads (get : Nat → Byte) (grade width a : Nat) (bs : List Byte) : Prop :=
  ∃ unit : Nat → Nat,
    (grade ≠ 8 → KnownWidth width → ∀ b, UnitReads width grade (bytesNat ((List.range (width / 8)).map fun q => get (b + q))) (unit b)) ∧
    ∀ k < bs.length, let u := width / 8
      (grade = 8 → bs.getD k 0 = get (a + k)) ∧
      (grade ≠ 8 → KnownWidth width → bs.getD k 0 = BitVec.ofNat 8 (unit ((a + k) / u * u) / 256 ^ ((a + k) % u)))

/-- Where a job's access of a global address or of a cellar-window offset reaches (R215, R218). -/
def JobPlace (s : State) (tm : Team) (space a : Nat) (r w : Bool) (pa grade : Nat) : Prop :=
  (space = 2 ∧ pa = cellarPa tm.die a ∧ grade = (s.region? pa).elim 8 fun g => g.grade) ∨
    space = 0 ∧ a < 2 ^ 52 ∧ ∃ m, s.lookup tm.core tm.vdev a = some m ∧ pa = m.pa + (a - m.va) ∧ grade = m.grade ∧
      (r = true → m.r = true) ∧ (w = true → m.w = true) ∧ isFabric pa = false ∧ ∀ g, s.region? pa = some g → g.ctx = none

/-- A unit of n bytes that a job reads: it lies in one line of the larder, or of global memory or the cellar window elsewhere than in a
precise cellar region, and holds no error. -/
def SideOk (s : State) (tm : Team) (space a n : Nat) : Prop :=
  a % 128 + n ≤ 128 ∧ tm.st.larderA % 128 = 0 ∧
    (space = 1 ∧ tm.larderError a n = false ∨ space ≠ 1 ∧ ∃ pa grade, JobPlace s tm space a true false pa grade ∧ pa % 128 = a % 128 ∧
      s.preciseCellar pa = false ∧ s.poisonAt pa n = false)

/-- What such a read gives: bytes, tag and storage width. -/
def SideReads (s : State) (tm : Team) (space a : Nat) (bs : List Byte) (apx : Bool) (width : Nat) : Prop :=
  (space = 1 → apx = (tm.larderGrade a != 8) ∧ width = tm.larderW.val (lineOf a) 32 ∧
    StorageReads tm.larderByte (tm.larderGrade a) width a bs) ∧
  (space ≠ 1 → ∀ pa grade, JobPlace s tm space a true false pa grade → apx = (grade != 8) ∧ width = s.widthAt tm.die [] pa ∧
    StorageReads (fun x => (s.die tm.die).view.get x) grade width pa bs)

/-- CPYR's operation on patterns (R223): of integers modulo 2^w or by signedness, of floats as FADD, FMIN and FMAX give it. -/
def combined (x : Nat) (ty : Ty) (a b : Nat) : Nat :=
  let i (v : Nat) : Int := toInt ty.signed ty.width v
  if ty.float then (fpOp (if x = 0 then .add else if x = 1 then .min else .max) (FFmt.of ty) .rne a b 0 0).1
  else if x = 0 then (a + b) % 2 ^ ty.width
  else if x = 1 then (if i b < i a then b else a) else if i a < i b then b else a

/-- The canonical code of a symbol under code lengths `ls` (R225): a symbol of length n counts in units of 2^-n those before it, by
length and then by value. -/
def canonicalCode (ls : List Nat) (x : Nat) : Nat :=
  ((List.range ls.length).map fun y =>
    if ls.getD y 0 ≠ 0 ∧ (ls.getD y 0 < ls.getD x 0 ∨ ls.getD y 0 = ls.getD x 0 ∧ y < x) then 2 ^ (ls.getD x 0 - ls.getD y 0)
    else 0).sum

/-- The code lengths that DTAB accepts (R225). -/
def GoodTable (ls : List Nat) : Prop :=
  let used := ls.filter fun l => l != 0
  (∀ l ∈ ls, l ≤ 16) ∧ (used = [1] ∨ 2 ≤ used.length ∧ (used.map fun l => 2 ^ (16 - l)).sum = 65536)

/-- The atomics that answer, in member order (R235). -/
def atomicRow : Instr → Option (Nat × Ctl × OpX)
  | .aadd c o => some (0, c, o)
  | .amin c o => some (1, c, o)
  | .amax c o => some (2, c, o)
  | .aand c o => some (3, c, o)
  | .aor c o => some (4, c, o)
  | .axor c o => some (5, c, o)
  | .axchg c o => some (6, c, o)
  | .acas c o => some (7, c, o)
  | .afadd c o => some (8, c, o)
  | _ => none

/-- NewValue of an integer member (R235), on patterns of width w. -/
def integerAtomic (fn : Nat) (ty : Ty) (x e g : Nat) : Nat :=
  let i (v : Nat) : Int := toInt ty.signed ty.width v
  match fn with
  | 0 => (x + e) % 2 ^ ty.width
  | 1 => if i e < i x then e else x
  | 2 => if i x < i e then e else x
  | 3 => x &&& e
  | 4 => x ||| e
  | 5 => x ^^^ e
  | 6 => e
  | _ => if x = g then e else x

/-- A lane's access of a home that passes its checks before the home (R234, R276): mapped, permitted, not through a window. -/
def passes (s : State) (i : Iss) (o : OpX) (r w : Bool) (n l : Nat) (x : Mapping × Nat) : Prop :=
  i.addrTag o.base o.index l = false ∧
  s.access i.core i.tm.vdev (i.sh.strand l).refused r w true n (i.xAddr o l) = .ok x.1 x.2 ∧ isFabric x.2 = false

/-- From `s` to `t` the requests `rs` have joined the queues of their homes, in their order. -/
def Sent (s t : State) (rs : List Req) : Prop :=
  ∀ k, (t.cluster k).queue = (s.cluster k).queue ++ rs.filter fun r => homeOf r.pa == k

/-- The team's lanes of a batch are past their instruction; `f` says what else changed in them, but for what they have acquired. -/
def LanesPast (s t : State) (i : Iss) (f : Nat → Strand → Strand) : Prop :=
  ∀ l, let st := (t.sheafAt i.t i.j).strand l
    st = { (if l ∈ i.batch then f l (past l (i.sh.strand l)) else (s.sheafAt i.t i.j).strand l) with acq := st.acq }

/-- A store that waits in `t` waited in `s`; the scope to which it has been performed may have grown. -/
def StillWaits (s : State) (x : Nat × Write) : Prop := ∃ y ∈ s.stores, x = (y.1, { y.2 with vis := x.2.vis })

/-- The bytes once a contribution has been added where it goes, as AFADD adds (R240). -/
def addedTo (get : Nat → Byte) (c : Contribution) (a : Nat) : Byte :=
  let n := c.ty.width / 8
  let old := bytesNat ((List.range n).map fun k => get (c.pa + k))
  if c.pa ≤ a ∧ a < c.pa + n then
    BitVec.ofNat 8 ((fpOp .add (FFmt.of c.ty) .rne old (elem c.ty.width 0 c.e) 0 0).1 / 256 ^ (a - c.pa))
  else get a

/-! ### Combine buffer -/

/-- The handle word of R289. -/
def handleWord (s : State) (d x : Nat) (c : Ctx) (k : Nat) : Word :=
  BitVec.ofNat 64 (s.ownPod % 2 ^ 14 * 2 ^ 50 + (c.slot k).gen * 2 ^ 32 + d * 2 ^ 28 + x * 2 ^ 24 + c.cf * 2 ^ 21
    + (c.d / 64 - 1) * 4096 + k)

/-- The free-slot queue of R290: slots never allocated, then freed ones in their order. -/
def freeQueue (c : Ctx) : List Nat := (List.range (c.s - c.fresh)).map (c.fresh + ·) ++ c.freed

/-- The slot a current handle names, with its place. -/
def namesSlot (s : State) (i : Iss) (o : OpX) (l : Nat) (x : Ctx × CSlot) : Prop :=
  hQuery (i.sh.v l o.e).bits = false ∧ s.current (i.sh.v l o.e).bits = some x

/-- The place of the slot a lane's handle names. -/
def placeOf (i : Iss) (o : OpX) (l : Nat) : Nat × Nat × Nat :=
  let h := (i.sh.v l o.e).bits
  (hDie h, hCtx h, hSlot h)

/-- Slot `p` of a state, if its context is configured. -/
def State.slotAt (s : State) (p : Nat × Nat × Nat) : Option (Ctx × CSlot) := (s.ctx? p.1 p.2.1).map fun c => (c, c.slot p.2.2)

/-! ### Package -/

/-- The instructions that R71 lets a privileged launch alone issue; SNAP also a DEBUG launch. -/
def privilegedRow : Instr → Option (Ctl × Bool)
  | .tlbinv c _ => some (c, false)
  | .mapctlMap c _ => some (c, false)
  | .mapctlUnmap c _ => some (c, false)
  | .mapctlProtect c _ => some (c, false)
  | .mapctlMigrate c _ => some (c, false)
  | .lnch c _ => some (c, false)
  | .savectx c _ => some (c, false)
  | .restctx c _ => some (c, false)
  | .snap c _ => some (c, true)
  | _ => none

/-- The MAPCTL operations. -/
def mapctlRow : Instr → Option (PageOp × Ctl × OpS)
  | .mapctlMap c o => some (.map, c, o)
  | .mapctlUnmap c o => some (.unmap, c, o)
  | .mapctlProtect c o => some (.protect, c, o)
  | .mapctlMigrate c o => some (.migrate, c, o)
  | _ => none

/-- The batch's lanes are past the instruction. -/
def BatchPast (t : State) (i : Iss) : Prop := ∀ l ∈ i.batch, let st := (t.sheafAt i.t i.j).strand l
  st = { past l (i.sh.strand l) with acq := st.acq }

/-- The mapping that a MAPCTL descriptor asks for (R339). -/
def askedMapping (w0 w1 w2 : Word) : Mapping := {
  vdev := dVdev w0, va := dVa w0, size := pageSize (dSize w0), pa := w1.toNat, r := w2.getLsbD 5, w := w2.getLsbD 6,
  x := w2.getLsbD 7, grade := w2.toNat % 16 }

/-- No translation buffer of die `d` names one of the translations. -/
def Shot (t : State) (d : Nat) (p : Mapping → Bool) : Prop :=
  (∀ k, dieOfCore k = d → ∀ m ∈ (t.core k).tlb, p m = false) ∧
  (∀ k, dieOfCluster k = d → ∀ m ∈ (t.cluster k).tlb, p m = false) ∧ ∀ m ∈ (t.die d).tlb, p m = false

/-! ### Launches and pre-emption -/

/-- The issue's lanes are past an instruction whose uniform result is outstanding: precise, but A under a guard tagged A (R49). -/
def UniformAnswer (t : State) (i : Iss) (d : Nat) (v : Word) (ready : Bool) : Prop :=
  BatchPast t i ∧
  (t.sheafAt i.t i.j).pend = i.sh.pend ++ [{ seq := i.seq, ready := ready, writes := [Wr.u d allOnes v (some (!i.aG.isEmpty))] }]

/-- The 640 bytes of a launch record as the core of an issue reads them, every word of them readable and precise. -/
def RecordRead (s : State) (i : Iss) (a : Nat) (bs : List Byte) : Prop :=
  bs.length = 640 ∧ ∀ k < 80, ∃ m pa,
    s.access i.core i.tm.vdev (i.sh.strand (i.on.headD 0)).refused true false false 8 (a + 8 * k) = .ok m pa ∧ m.grade = 8 ∧
    s.poisonAt pa 8 = false ∧ ∀ q < 8, bs.getD (8 * k + q) 0 = s.byteAt i.die (s.ownWrites i.tm i.j (maskOf i.on)) (pa + q)

/-- A refusal of a launch (R344): REF, REASON and CAUSE. -/
def refusalWord (reason : Nat) : Word := BitVec.ofNat 64 (2 ^ 63 + reason * 2 ^ 32)

/-- Element `k` of a slot's accumulator after rows of a context have been applied with their weights, in order (R297). -/
def accumulatedRows (c : Ctx) (p : Nat × Nat) (k : Nat) (rows : List (FV × List Byte)) : Nat × Nat :=
  rows.foldl (fun p x => accBlock p.1 p.2 (x.1.mul ((rowValues c.cf c.d x.2).getD k (FFmt.f32.value 0)))) p

/-- A record that R343 and R344 accept from an issuer that holds its partition: its code is loaded, its partition is its device's and
holds every die it names, every stage's team fits on a core of the empty partition, there is room for its spill regions and its code's regions (log entry 36),
AFTER names issued launches; the code brings no class, and its device has no cellar region that a launch has taken. -/
structure GoodLaunch (s : State) (bs : List Byte) (co : CodeObj) : Prop where
  header : recordBad bs = false
  code : s.service.codes.find? (fun q => q.addr == field bs 0 8 && q.vdev == field bs 9 1) = some co
  stages : co.stages.length = field bs 8 1
  fields : ∀ k < field bs 8 1, entryFieldsBad bs k = false
  entries : ∀ g ∈ co.stages.zipIdx.map (fun x => stageOf bs x.2 x.1), s.entryBad (field bs 9 1) g = false
  room : ∃ q, s.makeRoom (field bs 9 1) co.addr (s.partDies (field bs 10 1)) (co.stages.zipIdx.map fun x => stageOf bs x.2 x.1) = some q
  partition : ∃ p, s.service.parts.find? (fun x => x.part == field bs 10 1) = some p ∧ p.vdev = field bs 9 1
  dies : ∀ g ∈ co.stages.zipIdx.map (fun x => stageOf bs x.2 x.1), ∀ d < 16, g.dies.testBit d = true →
    d ∈ s.partDies (field bs 10 1)
  codeDies : ∀ d ∈ co.dies, d ∈ s.partDies (field bs 10 1)
  fits : ∀ g ∈ co.stages.zipIdx.map (fun x => stageOf bs x.2 x.1), s.stageFits (field bs 10 1) g = true
  after : ∀ k < 4, field bs (0x20 + 8 * k) 8 < s.service.nextLaunch
  classes : co.classes = []
  regions : ∀ d, ∀ r ∈ (s.die d).regions, r.vdev = field bs 9 1 → r.launch = none

/-- From `s` to `t` the launch of a record has been accepted (R345). -/
structure Launched (s t : State) (bs : List Byte) (co : CodeObj) (l : Launch) : Prop where
  launches : t.launches = s.launches ++ [l]
  next : t.service.nextLaunch = s.service.nextLaunch + 1
  number : l.n = s.service.nextLaunch
  waits : l.state = 0
  place : l.vdev = field bs 9 1 ∧ l.part = field bs 10 1 ∧ l.code = co.addr ∧ l.debug = decide (field bs 11 1 = 1)
  record : l.compl = field bs 0x10 8 ∧ l.signal = field bs 0x18 8
  after : l.after = ((List.range 4).map fun k => field bs (0x20 + 8 * k) 8).filter fun x => x != 0
  stages : l.stages = co.stages.zipIdx.map fun x => stageOf bs x.2 x.1
  counts : l.done = 0 ∧ l.killed = 0 ∧ l.cause = 0
  spill : ∃ g ∈ t.service.regions, g.vdev = l.vdev ∧ g.va = l.spill ∧ g.grade = 8 ∧
    g.bytes = (l.stages.map fun x => x.teams * x.st.sheaves * 524288).sum ∧
    ∀ k, 65536 * k < g.bytes → ∃ m ∈ t.pages, m.vdev = l.vdev ∧ m.va = l.spill + 65536 * k ∧ m.size = 65536 ∧ m.grade = 8

/-- No team of the package is bound to another by a formed chain. -/
def NoChains (s : State) : Prop := ∀ e ∈ s.clusters, e.2.chains = []

/-- A saved team of which some strand is active: it does not end as it is restored. -/
def Lives (v : Saved) : Prop := ∃ j < v.team.sheaves.length, (v.team.sheaf j).finished = false ∧
  ∃ l < 32, l < (v.team.sheaf j).strands.length ∧ ((v.team.sheaf j).strand l).run = .active

/-- A team whose every lane is vacant or stands at its safe point, with nothing outstanding and no window entry to copy. -/
def Rests (tm : Team) : Prop :=
  tm.guarded = none ∧ tm.jobs = [] ∧ tm.jobWait = [] ∧ tm.matrix.queue = [] ∧ ∀ sh ∈ tm.sheaves,
    sh.pend = [] ∧ sh.traps = [] ∧ sh.hold = .none ∧ ∀ l < 32, (sh.strand l).run = .vacant ∨
      (sh.strand l).run = .active ∧ sh.safeAt.getLsbD l = true ∧ (sh.strand l).base ≤ (sh.strand l).floor

/-! ### Power and error records -/

/-- From `s` to `t` one event of a kind has joined the die's events of the mesh cycle, which its logs take at the cycle's end. -/
def Logged (s t : State) (d kind : Nat) : Prop :=
  ∃ r, r.kind = kind ∧ r.time = s.time ∧ (t.die d).events = (s.die d).events ++ [r]

/-- Voltage of a level and of a grade, in mV (R248). -/
def levelVolts (l : Nat) : Nat := [300, 310, 320, 335, 350, 385, 420].getD l 420
def gradeVolts (g : Nat) : Nat := [350, 330, 310, 290, 270, 250, 235, 220].getD g 220

/-- Mesh cycles of a move at 50 mV for each µs, and 20 ns (R254, R392). -/
def moveTime (a b : Nat) : Nat := 40 * (max a b - min a b) + 40

/-- A retry of a burst that is not yet complete. -/
def retryOf (s : State) (d id : Nat) : Option Retry := ((s.die d).stackA.retries ++ (s.die d).stackB.retries).find? fun r => r.id == id

/-! ### Fabric -/

/-- The operations that a delivered message starts, by code (R369). -/
def fabricRow : Instr → Option (Nat × Msg)
  | .remoteAtomicRequest m => some (1, m)
  | .remoteAtomicAnswer m => some (2, m)
  | .remoteStagedRequest m => some (3, m)
  | .remoteStagedAnswer m => some (4, m)
  | .copyReadRequest m => some (5, m)
  | .copyReadData m => some (6, m)
  | .copyWrite m => some (7, m)
  | .writeAcknowledgement m => some (8, m)
  | .contributionRequest m => some (9, m)
  | .contributionData m => some (11, m)
  | .remoteSettleAnswer m => some (13, m)
  | .journalQuery m => some (0x12, m)
  | .linkNotice m => some (0x18, m)
  | _ => none

/-- The message is the one that has been delivered and waits, in a package whose boot has reached its ports; no earlier request of its
flow waits for its home. -/
def Arrived (s : State) (op : Nat) (m : Msg) : Prop :=
  s.portsOn = true ∧ (op = 1 ∨ op = 3 ∨ op = 9 ∨ op = 12 → s.flowWaits m.srcPod m.srcDie = false) ∧
  ∃ p, s.fabric.delivered = [p] ∧ p.msg = m ∧ m.op = op

/-- One message has been handed to the transport, back to the package that `m` came from, with its tag. -/
def Answered (s u : State) (m : Msg) (op cause : Nat) (f : Msg → Prop) : Prop :=
  ∃ q : Packet, u.fabric.outbox = s.fabric.outbox ++ [q] ∧ q.dest = m.srcPod ∧ q.msg.op = op ∧ q.msg.tag = m.tag ∧
    q.msg.dstDie = m.srcDie ∧ q.msg.cause = cause ∧ f q.msg

/-- A request of another package has taken the last place of its home's queue or, where that is full, waits at its sender (R231, R371). -/
def QueuedFor (s u : State) (r : Req) : Prop :=
  let h := homeOf r.pa
  let q : Req := { r with id := s.ids }
  u.ids = s.ids + 1 ∧ u.dies = s.dies ∧ u.fabric.outbox = s.fabric.outbox ∧ (∀ k, k ≠ h → u.cluster k = s.cluster k) ∧
  if (s.cluster h).queue.length < 1024 then
    u.cluster h = { s.cluster h with queue := (s.cluster h).queue ++ [q] } ∧ u.sending = []
  else u.cluster h = s.cluster h ∧ u.sending = [q]

/-- A request of another package stands at the head of a running home's queue, at a line where nothing is parked; its source's clock
covers nothing that waits. -/
structure AtHead (s : State) (r : Req) : Prop where
  queue : ∃ rest, (s.cluster (homeOf r.pa)).queue = r :: rest
  runs : (s.cluster (homeOf r.pa)).halted = false
  room : (s.cluster (homeOf r.pa)).overflow = []
  quiet : s.parked (lineOf r.pa) = []
  clock : r.clock = []
  inbox : (s.die (ownerOf r.pa)).inbox = []

/-- The place that a remote access reaches: mapped, precise, permitted, and of no combine context (R371). -/
def Reaches (s : State) (m : Msg) (align : Nat) (r w : Bool) (pa : Nat) : Prop :=
  ∃ g, s.pageOf m.vdev m.va = some g ∧ m.va % align = 0 ∧ m.va < 2 ^ 52 ∧ pa = g.paOf m.va ∧ isFabric pa = false ∧ g.grade = 8 ∧
    (r = true → g.r = true) ∧ (w = true → g.w = true) ∧ ∀ q, s.region? pa = some q → q.ctx = none

/-- A key that the table accepts (R377): not 0, its low 15 bits equal, and a full member on one side. -/
def keyPasses (table : List (BitVec 16)) (key : Nat) : Prop :=
  ∃ e ∈ table, e.toNat % 2 ^ 15 ≠ 0 ∧ e.toNat % 2 ^ 15 = key % 2 ^ 15 ∧ (e.getLsbD 15 = true ∨ key.testBit 15 = true)

/-- A remote copy's outstanding message: its job, and what its answer brings. -/
def copyOf (s : State) (tag t seq which : Nat) (j : Job) : Prop :=
  (∃ a, s.fabric.copies.find? (fun c => c.1 == tag) = some (tag, t, seq, which, a)) ∧ s.fabric.held = [] ∧
  (s.team? t).bind (fun x => x.job? seq) = some j

/-! ### Host -/

/-- The commands of R380: code, roles that may give it, header. OPEN stands apart. -/
def commandRow : Instr → Option (Nat × List Nat × Cmd)
  | .closeCmd m => some (1, [0, 1, 2], m)
  | .loadCmd m _ _ => some (2, [0], m)
  | .allocCmd m _ => some (3, [0], m)
  | .freeCmd m _ => some (3, [0], m)
  | .launchCmd m _ => some (4, [0], m)
  | .killCmd m _ => some (5, [0], m)
  | .partMake m _ _ _ _ => some (6, [1], m)
  | .partResize m _ _ => some (6, [1], m)
  | .partDrop m _ => some (6, [1], m)
  | .partSettings m _ _ _ => some (6, [1], m)
  | .window m _ _ _ => some (7, [1], m)
  | .route m _ _ => some (8, [2], m)
  | .routeswap m => some (8, [2], m)
  | .keys m _ => some (9, [2], m)
  | .subscribe m => some (10, [1, 2], m)
  | .logread m _ _ => some (11, [1], m)
  | .budget m _ _ _ => some (11, [1], m)
  | .attest m _ => some (12, [0, 1, 2], m)
  | .snapCommand m _ => some (13, [1], m)
  | .snapread m => some (13, [1], m)
  | .debugRead m _ _ _ => some (14, [0], m)
  | .debugResume m _ _ => some (14, [0], m)
  | .debugEnd m _ _ => some (14, [0], m)
  | _ => none

/-- The command is next in order in an open session of a booted package. -/
structure Accepts (s : State) (m : Cmd) (x : Session) : Prop where
  on : s.power = true ∧ s.boot = 5
  key : keyPasses s.fabric.keyTable m.key
  session : s.service.sessions.find? (fun y => y.id == m.session) = some x
  open_ : x.isOpen = true
  next : m.seq = x.high + 1
  header : m.zero = 0 ∧ m.length = m.body.length
  journal : journalFull s.service.journal = false

/-- From `s` to `u` the command has been accepted, journalled, completed with an outcome, and answered with it (R381, R382). -/
structure Performed (s u : State) (m : Cmd) (code status : Nat) (result : Word) (body : List Byte → Prop) : Prop where
  jseq : u.service.jseq = s.service.jseq + 1
  journal : ∃ r, u.service.journal.getLast? = some r ∧ r.jseq = s.service.jseq + 1 ∧ r.time = s.time ∧ r.session = m.session ∧
    r.seq = m.seq ∧ r.code = code ∧ r.status = status ∧ r.result = result
  high : ∃ y ∈ u.service.sessions, y.id = m.session ∧ y.high = m.seq
  response : ∃ a, u.service.responses = s.service.responses ++ [a] ∧ a.session = m.session ∧ a.seq = m.seq ∧ a.status = status ∧
    a.result = result ∧ a.dup = false ∧ body a.body

/-- Any body. -/
def anyBody (_ : List Byte) : Prop := True

/-- The sheaf of a team is held for the host, which the session may debug (R396). -/
def HeldFor (s : State) (x : Session) (t j : Nat) (tm : Team) : Prop :=
  s.team? t = some tm ∧ tm.key = t ∧ tm.vdev = x.vdev ∧ j < tm.sheaves.length ∧ (tm.sheaf j).hold = .debug

end Sys2Proof.Machine

open Sys2Proof Sys2Proof.Machine

/-- R123: every member completes; sub-element k of its result is the exact result of the table, clamped under .sat, mod
2^w (its upper bits, under A); no flag is raised. -/
def Obligations.IntegerFamilyResults : Prop :=
  ∀ (ins : Instr) (r : IntRow) (s : State) (i : Iss),
    integerRow ins = some r → s.iss? r.c = some i → rChecks r.m r.fn r.o r.c.apx none i.sh.w = none →
    r.o.ty ≠ .tb4 → (∀ l ∈ i.on, i.poisoned l (readsOf r.m r.fn r.o) = false) →
    (r.divides = true → ∀ l ∈ i.on, zeroDivisor r.m r.o i l = none) →
    ∃ val : Nat → Word,
      CompletesColumn ins s i r.o.u r.o.d r.lat val (fun l => (i.sources r.m r.fn r.o none l).2.2.2 || r.c.apx) (fun _ => 0) ∧
      ∀ l, Elements i r.o.ty (val l) fun k =>
        let x := i.sources r.m r.fn r.o none l
        let v := r.exact (elem r.o.ty.width k x.1) (elem r.o.ty.width k x.2.1) (elem r.o.ty.width k x.2.2.1)
        (((if r.o.x % 2 = 1 then clampInt r.o.ty.signed r.o.ty.width v else v) % 2 ^ r.o.ty.width : Int)).toNat

/-- R124: a lane with a zero divisor takes integer-divide-by-zero at its own instruction and nothing is written in it; the
other lanes of the batch complete with the quotient or remainder; signed Min ÷ −1 gives Min with remainder 0, and no flag is
written. -/
def Obligations.DivisionByZeroTraps : Prop :=
  ∀ (c : Ctl) (o : OpR) (m : Nat) (ins : Instr) (s : State) (i : Iss),
    (m = 0x1D ∧ ins = .idiv c o) ∨ (m = 0x1E ∧ ins = .irem c o) → o.ty ≠ .tb4 →
    s.iss? c = some i → rChecks m 0 o c.apx none i.sh.w = none → (∀ l ∈ i.on, i.poisoned l (readsOf m 0 o) = false) →
    let w := o.ty.width
    let src (l : Nat) := i.sources m 0 o none (if o.u then 0 else l)
    let zero (l : Nat) : Bool := (List.range (64 / w)).any fun k => elem w k (src l).2.1 == 0
    let result (l k : Nat) : Nat :=
      let x := toInt o.ty.signed w (elem w k (src l).1)
      let y := toInt o.ty.signed w (elem w k (src l).2.1)
      if o.ty.signed ∧ x = -(2 : Int) ^ (w - 1) ∧ y = -1 then (if m = 0x1D then 2 ^ (w - 1) else 0)
      else ((if m = 0x1D then x.tdiv y else x - y * x.tdiv y) % 2 ^ w : Int).toNat
    ∃ t p, exec ins s = .next t ∧
      IssuedAs s t i
        (fun sh => { sh with pend := sh.pend ++ p }.raise i.seq 0 ((i.on.filter zero).map fun l => (l, 0x601, 0)))
        (fun l st => if l ∈ i.on ∧ zero l = true then stay l st else past l st) ∧
      (∀ q ∈ p, q.seq = i.seq ∧ q.due = none ∧ ∀ y ∈ q.writes, (∀ l ∈ i.on, zero l = true → y.lane ≠ some l) ∧
        match y with | .f _ _ _ => False | _ => True) ∧
      ∀ l ∈ i.on, zero l = false → ∃ q ∈ p, ∃ b g,
        (if o.u then Wr.u o.d allOnes b g else Wr.v l (i.sh.ring l o.d) allOnes b g) ∈ q.writes ∧ Elements i o.ty b (result l)

/-- R125: BFX takes the field and extends it by the type's signedness; BFI replaces the field and keeps the other bits. R126:
SEL gives the whole register a where its predicate holds and b where not (in the uniform form by the predicate of the lowest
lane whose guard is true); MOV gives the whole register b, or every sub-element the immediate; the approximate forms expose
the whole register as one 64-bit integer, or, with an immediate, each sub-element. R127, R129: LEA gives a × 2^x + b mod
2^64, an immediate sign-extended; MOVI with H = 0 gives the immediate zero-extended and precise, with H = 1 it writes the
upper half alone and keeps the tag, and a guard tagged A tags it A. R135: PACK converts the elements of a into the low half
and those of b into the high half, from the kind of twice the width (that PACK of an integer type completes under every rounding mode is
the model's choice, log entry 45); UNPK converts the low or, under .hi, the high half of a, from the kind of half the width,
BF16 under .bf. R136 to R138: in each block whose every lane is in the batch with a true guard, CVTB writes the elements and
exponents that TBEncode gives for the block's FP32 values, and CVTX the FP32 of every element; the tags are the OR over the
block. The approximate forms agree in each element above its exposure, and exponents are exact. A lane whose guard is true in
a block that is not whole takes ill-operand at its own instruction, and no lane of that block is written. -/
def Obligations.MoveFieldAndPackResults : Prop :=
  (∀ (c : Ctl) (o : OpR) (m : Nat) (ins : Instr) (s : State) (i : Iss),
     (m = 0x27 ∧ ins = .bfx c o) ∨ (m = 0x28 ∧ ins = .bfi c o) →
     o.ty ≠ .tb4 → s.iss? c = some i → rChecks m 0 o c.apx none i.sh.w = none →
     (∀ l ∈ i.on, i.poisoned l (readsOf m 0 o) = false) →
     ∃ val : Nat → Word,
       CompletesColumn ins s i o.u o.d (some 2) val (fun l => (i.sources m 0 o none l).2.2.2 || c.apx) (fun _ => 0) ∧
       ∀ l, Elements i o.ty (val l) fun k =>
         let src := i.sources m 0 o none l
         let x := elem o.ty.width k src.1
         let y := elem o.ty.width k src.2.1
         let z := elem o.ty.width k src.2.2.1
         let w := o.ty.width
         let pos := y % 256
         let len := y / 256 % 256
         let n := min len (w - pos)
         if m = 0x27 then
           if pos ≥ w ∨ len = 0 then 0
           else (BitVec.ofNat n (x / 2 ^ pos)).toNat + (if o.ty.signed ∧ x.testBit (pos + n - 1) then 2 ^ w - 2 ^ n else 0)
         else if pos ≥ w ∨ len = 0 then z
         else z / 2 ^ (pos + n) * 2 ^ (pos + n) + x % 2 ^ n * 2 ^ pos + z % 2 ^ pos) ∧
  ((∀ (c : Ctl) (o : OpR) (s : State) (i : Iss), s.iss? c = some i → rChecks 0x29 0 o c.apx none i.sh.w = none →
     (∀ l ∈ i.on, i.poisoned l (readsOf 0x29 0 o) = false) →
     let p (l : Nat) : Strand := i.sh.strand (if o.u then i.on.headD 0 else l)
     ∃ val : Nat → Word,
       CompletesColumn (.sel c o) s i o.u o.d (some 2) val
         (fun l => (i.sources 0x29 0 o none l).2.2.2 || (p l).ptag (selP o) || c.apx) (fun _ => 0) ∧
       ∀ l, Elements i .n64 (val l) fun _ =>
         (if (p l).pval (selP o) then (i.srcA o l).bits else (i.sources 0x29 0 o none l).2.1).toNat) ∧
   (∀ (c : Ctl) (o : OpR) (s : State) (i : Iss), o.ty ≠ .tb4 → s.iss? c = some i → rChecks 0x2B 0 o c.apx none i.sh.w = none →
     (∀ l ∈ i.on, i.poisoned l (readsOf 0x2B 0 o) = false) →
     ∃ val : Nat → Word,
       CompletesColumn (.mov c o) s i o.u o.d (some 2) val (fun l => (i.srcB o l).tag || c.apx) (fun _ => 0) ∧
       ∀ l, match o.bc with
         | .regs _ _ => Elements i .n64 (val l) fun _ => (i.srcB o l).bits.toNat
         | .imm v => Elements i o.ty (val l) fun _ => immElem o.ty v % 2 ^ o.ty.width)) ∧
  ((∀ (c : Ctl) (o : OpR) (s : State) (i : Iss), o.ty = .n64 → s.iss? c = some i → rChecks 0x2D 0 o c.apx none i.sh.w = none →
     (∀ l ∈ i.on, i.poisoned l (readsOf 0x2D 0 o) = false) →
     ∃ val : Nat → Word,
       CompletesColumn (.lea c o) s i o.u o.d (some 2) val (fun l => (i.sources 0x2D 0 o none l).2.2.2 || c.apx) (fun _ => 0) ∧
       ∀ l, Elements i .n64 (val l) fun _ =>
         (((i.srcA o l).bits <<< o.x) + (match o.bc with
           | .imm v => (BitVec.ofNat 16 v).signExtend 64
           | .regs _ _ => (i.srcB o l).bits)).toNat) ∧
   (∀ (c : Ctl) (o : OpW) (s : State) (i : Iss), s.iss? c = some i → (o.u = true ∨ o.d < i.sh.w) → c.apx = false →
     CompletesWrites (.movi c o) s i (some 2) fun ws =>
       let bits : Word := if o.h then BitVec.ofNat 64 (o.imm * 2 ^ 32) else BitVec.ofNat 64 o.imm
       let mask : Word := if o.h then 0xFFFFFFFF00000000 else allOnes
       (o.u = false → ∀ w, w ∈ ws ↔ ∃ l,
         l ∈ i.on ∧ w = Wr.v l (i.sh.ring l o.d) mask bits (if l ∈ i.aG then some true else if o.h then none else some false) ∨
           l ∈ i.offLanes ∧ l ∈ i.aG ∧ w = Wr.v l (i.sh.ring l o.d) 0 0 (some true)) ∧
       (o.u = true → ∀ w, w ∈ ws ↔
         i.on ≠ [] ∧ w = Wr.u o.d mask bits (if i.aG ≠ [] then some true else if o.h then none else some false) ∨
           i.on = [] ∧ i.aG ≠ [] ∧ w = Wr.u o.d 0 0 (some true)))) ∧
  ((∀ (c : Ctl) (o : OpR) (src : Ty) (s : State) (i : Iss), o.ty.width < 64 → o.ty ≠ .tb8 → o.ty ≠ .tb4 →
     SameKind o.ty src (2 * o.ty.width) → s.iss? c = some i → rChecks 0x3E 0 o c.apx none i.sh.w = none →
     (∀ l ∈ i.on, i.poisoned l (readsOf 0x3E 0 o) = false) →
     let w := o.ty.width
     let x (l : Nat) := i.sources 0x3E 0 o none l
     let r (l : Nat) := conversions src o.ty o.rnd (elemsAt (2 * w) 0 (32 / w) (x l).1 ++ elemsAt (2 * w) 0 (32 / w) (x l).2.1)
     ∃ val : Nat → Word,
       CompletesColumn (.pack c o) s i o.u o.d (some 4) val (fun l => (x l).2.2.2 || c.apx) (fun l => (r l).2) ∧
       ∀ l, Elements i o.ty (val l) fun k => (r l).1.getD k 0) ∧
   (∀ (c : Ctl) (o : OpR) (src : Ty) (s : State) (i : Iss), 8 < o.ty.width →
     (o.ty = .f32 → src = if o.x / 2 % 2 = 1 then .bf16 else .f16) → (o.ty ≠ .f32 → o.x / 2 % 2 = 0) →
     o.ty ≠ .f16 → o.ty ≠ .bf16 →
     SameKind o.ty src (o.ty.width / 2) → s.iss? c = some i → rChecks 0x3F 0 o c.apx none i.sh.w = none →
     (∀ l ∈ i.on, i.poisoned l (readsOf 0x3F 0 o) = false) →
     let w := o.ty.width
     let r (l : Nat) := conversions src o.ty .rne (elemsAt (w / 2) (o.x % 2 * (64 / w)) (64 / w) (i.srcA o l).bits)
     ∃ val : Nat → Word,
       CompletesColumn (.unpk c o) s i o.u o.d (some 4) val (fun l => (i.srcA o l).tag || c.apx) (fun l => (r l).2) ∧
       ∀ l, Elements i o.ty (val l) fun k => (r l).1.getD k 0)) ∧
  (∀ (c : Ctl) (o : OpR) (s : State) (i : Iss), (o.ty = .tb8 ∨ o.ty = .tb4) → s.iss? c = some i →
     let size := if o.ty = .tb8 then 4 else 2
     let n := if o.ty = .tb8 then 8 else 16
     let w := if o.ty = .tb8 then 8 else 4
     let first (l : Nat) := l / size * size
     let lanes (l : Nat) := (List.range size).map fun k => first l + k
     let whole (l : Nat) : Prop := ∀ k ∈ lanes l, k ∈ i.on
     let cut (ty : Ty) (e : Nat) : Nat := e / 2 ^ (if c.apx then (if ty = .tb4 then min (exposureBits 8 i.grade) 2
       else exposureBits ty.width i.grade) else 0)
     let completes (ins : Instr) (ds : List Nat) (P : List Wr → Prop) : Prop := ∃ t ws faults, exec ins s = .next t ∧
       IssuedAs s t i (fun sh => { sh with pend := sh.pend ++ i.outstanding (some 6) ws }.raise i.seq 0 faults)
         (fun l st => if l ∈ i.on ∧ ¬ whole l then stay l st else past l st) ∧
       (∀ x, x ∈ faults ↔ ∃ l ∈ i.on, ¬ whole l ∧ x = (l, 0x108, 0)) ∧
       (∀ l ∈ i.offLanes, l ∈ i.aG → ∀ d ∈ ds, Wr.v l (i.sh.ring l d) 0 0 (some true) ∈ ws) ∧ P ws
     let offWrite (ds : List Nat) (l e : Nat) (m : Word) (g : Option Bool) : Prop :=
       l ∈ i.offLanes ∧ l ∈ i.aG ∧ m = 0 ∧ g = some true ∧ ∃ d ∈ ds, e = i.sh.ring l d
     (∀ (sb sc : Slot), o.bc = .regs sb sc → sc.uni = false → tbChecks 0x3C o c.apx o.a sc i.sh.w = none →
       (∀ l ∈ i.on, whole l → ∀ r < n / 2, i.poisoned l [o.a + r] = false) →
       (∀ l ∈ i.on, whole l → sb.uni = false → i.poisoned (first l) [sb.idx] = false) →
       let x (l : Nat) : List FV := (lanes l).flatMap fun k => (List.range n).map fun j =>
         FFmt.f32.value (elem 32 (j % 2) (i.sh.v k (o.a + j / 2)).bits)
       let enc (l : Nat) := tbEncode (o.ty = .tb8) (x l) ((i.slotVal sb (first l)).bits.toNat % 16)
       let expo (l : Nat) : Word := if l % size = 0 then BitVec.ofNat 64 ((enc l).2.1 + 256 * (enc l).2.2.1) else 0
       let tag (l : Nat) := c.apx || (lanes l).any fun k => i.aG.contains k || (i.slotVal sb k).tag ||
         (List.range (n / 2)).any fun r => (i.sh.v k (o.a + r)).tag
       ∃ val : Nat → Word,
         (∀ l k, k < n → cut o.ty (elem w k (val l)) = cut o.ty ((enc l).1.getD (n * (l % size) + k) 0 % 2 ^ w)) ∧
         completes (.cvtb c o) [o.d, sc.idx] fun ws =>
           (∀ l ∈ i.on, whole l → Wr.v l (i.sh.ring l o.d) allOnes (val l) (some (tag l)) ∈ ws ∧
             Wr.v l (i.sh.ring l sc.idx) allOnes (expo l) (some (tag l)) ∈ ws) ∧
           (∀ l fl, Wr.f l fl 0 ∈ ws ↔ l ∈ i.on ∧ whole l ∧ tag l = false ∧ fl = (enc l).2.2.2 ∧ fl ≠ 0) ∧
           ∀ y ∈ ws, match y with
             | .v l e m b g => l ∈ i.on ∧ whole l ∧ m = allOnes ∧ g = some (tag l) ∧
                 (e = i.sh.ring l o.d ∧ b = val l ∨ e = i.sh.ring l sc.idx ∧ b = expo l) ∨ offWrite [o.d, sc.idx] l e m g
             | .f _ _ clr => clr = 0
             | _ => False) ∧
     (∀ (sb sc : Slot), o.bc = .regs sb sc → sb.uni = false → tbChecks 0x3D o c.apx o.d sb i.sh.w = none →
       (∀ l ∈ i.on, whole l → i.poisoned l [o.a] = false ∧ i.poisoned (first l) [sb.idx] = false) →
       let ex (l : Nat) := i.sh.v (first l) sb.idx
       let exact (l j : Nat) := (FFmt.f32.round .rne
         (tbValue (o.ty = .tb8) (elem w j (i.sh.v l o.a).bits) (elem 8 0 (ex l).bits) (elem 8 1 (ex l).bits))).1
       let tag (l : Nat) := c.apx || (lanes l).any fun k => i.aG.contains k || (i.sh.v k sb.idx).tag || (i.sh.v k o.a).tag
       let ds := (List.range (n / 2)).map fun r => o.d + r
       ∃ val : Nat → Nat → Word,
         (∀ l r k, k < 2 → cut .f32 (elem 32 k (val l r)) = cut .f32 (exact l (2 * r + k) % 2 ^ 32)) ∧
         completes (.cvtx c o) ds fun ws =>
           (∀ l ∈ i.on, whole l → ∀ r < n / 2, Wr.v l (i.sh.ring l (o.d + r)) allOnes (val l r) (some (tag l)) ∈ ws) ∧
           ∀ y ∈ ws, match y with
             | .v l e m b g => l ∈ i.on ∧ whole l ∧ m = allOnes ∧ g = some (tag l) ∧
                 (∃ r < n / 2, e = i.sh.ring l (o.d + r) ∧ b = val l r) ∨ offWrite ds l e m g
             | _ => False))

/-- R128, R132: the predicate is the comparison of e0, the AND or the OR over every sub-element by the mode; an approximate form
compares values that agree above L(w, g); FCMP raises the flags of the elements compared, ICMP none. R128: an integer
comparison orders sub-elements as integers of the type. R132: a float comparison orders them as extended numbers, −0 equal to
+0, with no flag; with a NaN operand .ne alone is true, and invalid is raised, by .eq and .ne for a signalling NaN only. -/
def Obligations.ComparisonResults : Prop :=
  (∀ (ins : Instr) (m : Nat) (k : Cmp) (c : Ctl) (o : OpR) (n : Nat) (s : State) (i : Iss),
     compareRow ins = some (m, k, c, o, n) → (m = 0x2A → o.ty.float = false) → (m = 0x36 → o.ty.float = true) →
     s.iss? c = some i → rChecks m k.code o c.apx none i.sh.w = none →
     (∀ l ∈ i.on, i.poisoned l (readsOf m k.code o) = false) →
     ∃ a b : Nat → Nat → Nat,
       let src (l : Nat) := i.sources m k.code o none (if o.u then 0 else l)
       let w := o.ty.width
       let cut := 2 ^ (if c.apx then exposureBits w i.grade else 0)
       let out (l : Nat) : Bool × Flags := compareOutcome o.x ((List.range (64 / w)).map fun e => cmpElem k o.ty (a l e) (b l e))
       (∀ l e, e < 64 / w → a l e / cut = elem w e (src l).1 / cut ∧ b l e / cut = elem w e (src l).2.1 / cut) ∧
       CompletesPredicate ins s i o.d n (fun l => (out l).1) (fun l => (src l).2.2.2 || c.apx)
         (fun l => if m = 0x2A then 0 else (out l).2)) ∧
  (∀ (ty : Ty) (a b : Nat), ty.float = false →
     let x := toInt ty.signed ty.width a
     let y := toInt ty.signed ty.width b
     ((cmpElem .lt ty a b).1 = true ↔ x < y) ∧ ((cmpElem .le ty a b).1 = true ↔ x ≤ y) ∧
     ((cmpElem .eq ty a b).1 = true ↔ x = y) ∧ ((cmpElem .ne ty a b).1 = true ↔ x ≠ y) ∧
     ((cmpElem .ge ty a b).1 = true ↔ y ≤ x) ∧ ((cmpElem .gt ty a b).1 = true ↔ y < x) ∧
     ∀ k, (cmpElem k ty a b).2 = 0) ∧
  (∀ (ty : Ty) (a b : Nat), ty = .f16 ∨ ty = .bf16 ∨ ty = .f32 ∨ ty = .f64 →
     let p := (FFmt.of ty).value a
     let q := (FFmt.of ty).value b
     let x := p.extended
     let y := q.extended
     (p.isNan = false → q.isNan = false →
       ((cmpElem .lt ty a b).1 = true ↔ x < y) ∧ ((cmpElem .le ty a b).1 = true ↔ x ≤ y) ∧
       ((cmpElem .eq ty a b).1 = true ↔ x = y) ∧ ((cmpElem .ne ty a b).1 = true ↔ x ≠ y) ∧
       ((cmpElem .ge ty a b).1 = true ↔ y ≤ x) ∧ ((cmpElem .gt ty a b).1 = true ↔ y < x) ∧
       ∀ k, (cmpElem k ty a b).2 = 0) ∧
     (p.isNan = true ∨ q.isNan = true → ∀ k,
       cmpElem k ty a b = (decide (k = .ne),
         if k = .eq ∨ k = .ne then (if p.isSig || q.isSig then flagNV else 0) else flagNV)))

/-- R130, R131, R133: every float member completes with its result in each sub-element (the upper bits, under A), the flags
of all sub-elements ORed into F; FCLASS gives its class mask and raises nothing. R27, R130: a NaN operand, or a case that
R130's table calls invalid, gives Canonical, with invalid for a signalling NaN or the table's case; the table's infinities and
zeros. R131: FMIN and FMAX return an operand, −0 below +0. R133: the classes. -/
def Obligations.FloatFamilyResults : Prop :=
  (∀ (ins : Instr) (r : FloatRow) (s : State) (i : Iss), floatRow ins = some r → r.o.ty.float = true →
    s.iss? r.c = some i → rChecks r.m r.fn r.o r.c.apx none i.sh.w = none →
    (∀ l ∈ i.on, i.poisoned l (readsOf r.m r.fn r.o) = false) →
    let w := r.o.ty.width
    let res (l k : Nat) : Nat × Flags :=
      let x := i.sources r.m r.fn r.o none l
      fpOp r.op (FFmt.of r.o.ty) r.o.rnd (elem w k x.1) (elem w k x.2.1) (elem w k x.2.2.1) 0
    ∃ val : Nat → Word,
      CompletesColumn ins s i r.o.u r.o.d (if r.slow then none else some (if r.o.ty = .f64 then 8 else 4)) val
        (fun l => (i.sources r.m r.fn r.o none l).2.2.2 || r.c.apx)
        (fun l => ((List.range (64 / w)).map fun k => (res l k).2).foldl (fun f x => f ||| x) 0) ∧
      ∀ l, Elements i r.o.ty (val l) fun k => (res l k).1 % 2 ^ w) ∧
  (∀ (c : Ctl) (o : OpR) (s : State) (i : Iss), o.ty.float = true → s.iss? c = some i →
    rChecks 0x3A 0 o c.apx none i.sh.w = none → (∀ l ∈ i.on, i.poisoned l (readsOf 0x3A 0 o) = false) →
    let w := o.ty.width
    let n (l k : Nat) : Int := match o.bc with
      | .imm v => (BitVec.ofNat 16 v).toInt
      | .regs _ _ => (BitVec.ofNat w (elem w k (i.srcB o l).bits)).toInt
    let res (l k : Nat) : Nat × Flags := fpOp .scale (FFmt.of o.ty) o.rnd (elem w k (i.srcA o l).bits) 0 0 (n l k)
    ∃ val : Nat → Word,
      CompletesColumn (.fscale c o) s i o.u o.d (some (if o.ty = .f64 then 8 else 4)) val
        (fun l => (i.sources 0x3A 0 o none l).2.2.2 || c.apx)
        (fun l => ((List.range (64 / w)).map fun k => (res l k).2).foldl (fun f x => f ||| x) 0) ∧
      ∀ l, Elements i o.ty (val l) fun k => (res l k).1 % 2 ^ w) ∧
  (∀ (c : Ctl) (o : OpR) (s : State) (i : Iss), o.ty.float = true → s.iss? c = some i →
    rChecks 0x37 0 o c.apx none i.sh.w = none → (∀ l ∈ i.on, i.poisoned l (readsOf 0x37 0 o) = false) →
    ∃ val : Nat → Word,
      CompletesColumn (.fclass c o) s i o.u o.d (some (if o.ty = .f64 then 8 else 4)) val
        (fun l => (i.srcA o l).tag || c.apx) (fun _ => 0) ∧
      ∀ l, Elements i o.ty (val l) fun k =>
        fpClass (FFmt.of o.ty) (elem o.ty.width k (i.srcA o l).bits) % 2 ^ o.ty.width) ∧
  (∀ (op : FOp) (f : FFmt) (mode : Rnd) (a b c : Nat) (n : Int), f.ieee →
    let x := f.value a
    let y := f.value b
    let z := f.value c
    let r := fpOp op f mode a b c n
    let zero (g : Bool) : Nat := if g then f.signBit else 0
    let infinity (g : Bool) : Nat := zero g + f.inf
    let sig : Bool := (operandsOf op x y z).any FV.isSig
    (op ≠ .min → op ≠ .max →
      ((∃ v ∈ operandsOf op x y z, v.isNan = true) ∨ InvalidCase op x y z →
        r.1 = f.canonical ∧ (InvalidCase op x y z → r.2 = flagNV) ∧
          (¬ InvalidCase op x y z → r.2 = if sig then flagNV else 0)) ∧
      ((∀ v ∈ operandsOf op x y z, v.isNan = false) → ¬ InvalidCase op x y z →
        (op = .add → ∀ g, x = .inf g ∨ y = .inf g → r = (infinity g, 0)) ∧
        (op = .sub → ∀ g, x = .inf g ∨ y = .inf (!g) → r = (infinity g, 0)) ∧
        (op = .mul → x.isInf = true ∨ y.isInf = true → r = (infinity (x.neg? != y.neg?), 0)) ∧
        (op = .fma → (x.isInf = true ∨ y.isInf = true → r = (infinity (x.neg? != y.neg?), 0)) ∧
          ∀ g, z = .inf g → r = (infinity g, 0)) ∧
        (op = .div → (x.isInf = true → r = (infinity (x.neg? != y.neg?), 0)) ∧
          (y.isInf = true → r = (zero (x.neg? != y.neg?), 0)) ∧
          (x.isInf = false → y.isZero = true → r = (infinity (x.neg? != y.neg?), flagDZ)) ∧
          (x.isZero = true → y.isInf = false → r = (zero (x.neg? != y.neg?), 0))) ∧
        (op = .scale ∨ op = .rnd → ∀ g, x = .inf g → r = (infinity g, 0)) ∧
        (op = .rcp → (x.isZero = true → r = (infinity x.neg?, flagDZ)) ∧ (x.isInf = true → r = (zero x.neg?, 0))) ∧
        (op = .rsq → (x.isZero = true → r = (infinity x.neg?, flagDZ)) ∧ (x.isInf = true → r = (0, 0))) ∧
        (op = .sqrt → (x.isZero = true → r = (zero x.neg?, 0)) ∧ (x.isInf = true → r = (infinity false, 0))) ∧
        (op = .exp2 → ∀ g, x = .inf g → r = (if g then 0 else infinity false, 0)) ∧
        (op = .log2 → (x.isZero = true → r = (infinity true, flagDZ)) ∧ (x.isInf = true → r = (infinity false, 0)) ∧
          (x.rational = some 1 → r = (0, 0))) ∧
        (op = .sin → x.isZero = true → r = (zero x.neg?, 0)))) ∧
    (op = .min ∨ op = .max → a < 2 ^ f.w → b < 2 ^ f.w →
      let before (u v : FV) : Prop := u.extended < v.extended ∨ u.extended = v.extended ∧ u.neg? = true
      (x.isNan = true → y.isNan = true → r = (f.canonical, if sig then flagNV else 0)) ∧
      (x.isNan = true → y.isNan = false → r = (b, if sig then flagNV else 0)) ∧
      (x.isNan = false → y.isNan = true → r = (a, if sig then flagNV else 0)) ∧
      (x.isNan = false → y.isNan = false →
        (op = .min → (before x y → r = (a, 0)) ∧ (¬ before x y → r = (b, 0))) ∧
        (op = .max → (before y x → r = (a, 0)) ∧ (¬ before y x → r = (b, 0))))) ∧
    fpClass f a = (match x with
      | .nan s => if s then 1 else 2
      | .inf g => if g then 4 else 512
      | .fin g m e => if m = 0 then (if g then 32 else 64)
          else if (m : Rat) * (2 : Rat) ^ e < (2 : Rat) ^ f.emin then (if g then 16 else 128) else (if g then 8 else 256)))

/-- R30, R31, R130: on finite operands FADD, FSUB, FMUL and FFMA round the exact result once; an exact zero sum of two
operands (for FFMA: addends) is +0, or −0 under .rdn, unless both are zeros of one sign, whose sign it keeps; a zero product
has the sign of its operands' signs. RoundF itself: of an exact nonzero value by R31's procedure; a zero keeps its sign, an
infinity and a NaN are encoded. FDIV, FRCP, FSQRT, FRSQ and FSCALE round their exact real result once; FRND gives the integer
that its mode names, with a's sign and no flag; FEXP2 of an integer and FLOG2 of a power of two round the exact result once
(what the four transcendental members give elsewhere rests on log entry 8 and is stated at one operand each), cos 0 is 1. -/
def Obligations.FloatArithmeticIsExactlyRounded : Prop :=
  (∀ (f : FFmt) (mode : Rnd) (a b c : Nat) (x y z : Rat), f.ieee →
    (f.value a).rational = some x → (f.value b).rational = some y → (f.value c).rational = some z →
    let na := (f.value a).neg?
    let nb := (f.value b).neg?
    let nc := (f.value c).neg?
    let zeroOf (g : Bool) : Nat := if g then f.signBit else 0
    let cancelled := zeroOf (decide (mode = .rdn))
    (∃ v : FV, v.rational = some (x + y) ∧ fpOp .add f mode a b c 0 = f.round mode v) ∧
    (∃ v : FV, v.rational = some (x - y) ∧ fpOp .sub f mode a b c 0 = f.round mode v) ∧
    (∃ v : FV, v.rational = some (x * y) ∧ fpOp .mul f mode a b c 0 = f.round mode v) ∧
    (∃ v : FV, v.rational = some (x * y + z) ∧ fpOp .fma f mode a b c 0 = f.round mode v) ∧
    (x + y = 0 → fpOp .add f mode a b c 0 = (if x = 0 ∧ na = nb then zeroOf na else cancelled, 0)) ∧
    (x - y = 0 → fpOp .sub f mode a b c 0 = (if x = 0 ∧ na = !nb then zeroOf na else cancelled, 0)) ∧
    (x * y + z = 0 → fpOp .fma f mode a b c 0 = (if z = 0 ∧ (na != nb) = nc then zeroOf nc else cancelled, 0)) ∧
    (x * y = 0 → fpOp .mul f mode a b c 0 = (zeroOf (na != nb), 0))) ∧
  (∀ (f : FFmt) (mode : Rnd) (v : FV), f.ieee →
    (∀ q : Rat, v.rational = some q → q ≠ 0 → RoundsTo f mode q (f.round mode v)) ∧
    (v.isZero = true → f.round mode v = (if v.neg? then f.signBit else 0, 0)) ∧
    (∀ g, v = .inf g → f.round mode v = ((if g then f.signBit else 0) + f.inf, 0)) ∧
    (v.isNan = true → f.round mode v = (f.canonical, 0))) ∧
  (∀ (f : FFmt) (mode : Rnd) (a b c : Nat) (n : Int) (x : Rat), f.ieee → (f.value a).rational = some x →
    (∀ y : Rat, (f.value b).rational = some y → x ≠ 0 → y ≠ 0 → RoundsTo f mode ((x : ℝ) / y) (fpOp .div f mode a b c n)) ∧
    (x ≠ 0 → RoundsTo f mode (1 / (x : ℝ)) (fpOp .rcp f mode a b c n)) ∧
    (0 < x → RoundsTo f mode (Real.sqrt x) (fpOp .sqrt f mode a b c n)) ∧
    (0 < x → RoundsTo f mode (1 / Real.sqrt x) (fpOp .rsq f mode a b c n)) ∧
    (x ≠ 0 → RoundsTo f mode ((x : ℝ) * (2 : ℝ) ^ n) (fpOp .scale f mode a b c n)) ∧
    (x = 0 → fpOp .scale f mode a b c n = (if (f.value a).neg? then f.signBit else 0, 0)) ∧
    (∃ m : Int, IsRounded mode x m ∧ (fpOp .rnd f mode a b c n).2 = 0 ∧
      (f.value (fpOp .rnd f mode a b c n).1).rational = some (m : Rat) ∧
      (f.value (fpOp .rnd f mode a b c n).1).neg? = (f.value a).neg?) ∧
    (∀ m : Int, x = m → RoundsTo f mode ((2 : ℝ) ^ m) (fpOp .exp2 f mode a b c n)) ∧
    (∀ m : Int, m ≠ 0 → x = (2 : Rat) ^ m → RoundsTo f mode m (fpOp .log2 f mode a b c n)) ∧
    (x = 0 → RoundsTo f mode 1 (fpOp .cos f mode a b c n))) ∧
  fpOp .exp2 .f32 .rne 0x3F000000 0 0 0 = (0x3FB504F3, flagNX) ∧ fpOp .log2 .f32 .rne 0x40400000 0 0 0 = (0x3FCAE00D, flagNX) ∧
  fpOp .sin .f32 .rne 0x3F800000 0 0 0 = (0x3F576AA4, flagNX) ∧ fpOp .cos .f32 .rne 0x3F800000 0 0 0 = (0x3F0A5140, flagNX)

/-- R134, R45: CVT writes its n converted elements, with the upper half alone and the others kept under .hi of a narrowing,
zeros above them without .hi; each element is exposed under A. Beside kept elements a precise result leaves the
register's tag as it is (DEDUCED from R53, log entry 12). R134: the value and the flags of one converted element:
integers saturate and raise nothing; an integer or a finite float becomes the float of its exact value, rounded once; a NaN
becomes the destination's canonical NaN, with invalid if it signals; a float becomes the integer it rounds to, saturated, 0
for a NaN, with invalid for a NaN or a saturated result and otherwise inexact when it is not an integer. -/
def Obligations.ConversionResults : Prop :=
  (∀ (c : Ctl) (o : OpR) (sb sc : Slot) (src : Ty) (s : State) (i : Iss),
     o.bc = .regs sb sc → Ty.ofCode sc.idx = some src → src ≠ .tb8 → src ≠ .tb4 → o.ty ≠ .tb8 → o.ty ≠ .tb4 →
     s.iss? c = some i → rChecks 0x3B 0 o c.apx none i.sh.w = none → ¬ (o.x % 2 = 1 ∧ src.width = o.ty.width) →
     (∀ l ∈ i.on, i.poisoned l (readsOf 0x3B 0 o) = false) →
     let ws := src.width
     let wd := o.ty.width
     let n := 64 / max ws wd
     let hi := o.x % 2
     let off := if ws > wd then hi * n else 0
     let mask : Word := if ws > wd ∧ hi = 1 then BitVec.ofNat 64 ((2 ^ (n * wd) - 1) * 2 ^ (n * wd)) else allOnes
     let es (l : Nat) := elemsAt ws (if ws < wd then hi * n else 0) n (i.srcA o l).bits
     let r (l : Nat) := conversions src o.ty o.rnd (es l)
     ∃ val : Nat → Word,
       (∀ l, Elements i o.ty (val l) fun k => if off ≤ k ∧ k < off + n then (r l).1.getD (k - off) 0 else 0) ∧
       CompletesWrites (.cvt c o) s i (some 4) fun w =>
         let tag (l : Nat) := (i.srcA o l).tag || c.apx
         let kept (t : Bool) : Option Bool := if mask ≠ allOnes ∧ t = false then none else some t
         (o.u = false → ∀ l ∈ i.on, Wr.v l (i.sh.ring l o.d) mask (val l) (kept (tag l || i.aG.contains l)) ∈ w) ∧
         (o.u = true → i.on ≠ [] → Wr.u o.d mask (val 0) (kept (tag 0 || !i.aG.isEmpty)) ∈ w) ∧
         (o.u = false → ∀ l ∈ i.offLanes, l ∈ i.aG → Wr.v l (i.sh.ring l o.d) 0 0 (some true) ∈ w) ∧
         (o.u = true → i.on = [] → i.aG ≠ [] → Wr.u o.d 0 0 (some true) ∈ w) ∧
         (∀ x ∈ w, match x with
           | .v l e m b g => o.u = false ∧ e = i.sh.ring l o.d ∧
               (l ∈ i.on ∧ m = mask ∧ b = val l ∧ g = kept (tag l || i.aG.contains l) ∨
                 l ∈ i.offLanes ∧ l ∈ i.aG ∧ m = 0 ∧ g = some true)
           | .u k m b g => o.u = true ∧ k = o.d ∧
               (i.on ≠ [] ∧ m = mask ∧ b = val 0 ∧ g = kept (tag 0 || !i.aG.isEmpty) ∨
                 i.on = [] ∧ i.aG ≠ [] ∧ m = 0 ∧ g = some true)
           | .f l _ clr => l ∈ i.on ∧ clr = 0
           | .p _ _ _ _ => False) ∧
         WritesFlags i (fun l => (r (if o.u then 0 else l)).2) (fun l => tag (if o.u then 0 else l)) w) ∧
  (∀ (src dst : Ty) (mode : Rnd) (v : Nat), src ≠ .tb8 → src ≠ .tb4 → dst ≠ .tb8 → dst ≠ .tb4 →
     let x := toInt src.signed src.width v
     let f := FFmt.of src
     let g := FFmt.of dst
     (src.float = false → dst.float = false →
       cvtElem src dst mode v = (ofInt dst.width (clampInt dst.signed dst.width x), 0)) ∧
     (src.float = false → dst.float = true → ∃ y : FV, y.rational = some (x : Rat) ∧ cvtElem src dst mode v = g.round mode y) ∧
     (src.float = true → dst.float = true →
       (∀ sig, f.value v = .nan sig → cvtElem src dst mode v = (g.canonical, if sig then flagNV else 0)) ∧
       (∀ q, (f.value v).rational = some q → ∃ y : FV, y.rational = some q ∧ cvtElem src dst mode v = g.round mode y)) ∧
     (src.float = true → dst.float = false →
       (∀ sig, f.value v = .nan sig → cvtElem src dst mode v = (0, flagNV)) ∧
       (∀ neg, f.value v = .inf neg → cvtElem src dst mode v =
         (ofInt dst.width (if neg then tyMin dst.signed dst.width else tyMax dst.signed dst.width), flagNV)) ∧
       (∀ q, (f.value v).rational = some q → ∃ n : Int, IsRounded mode q n ∧
         cvtElem src dst mode v =
           let m := clampInt dst.signed dst.width n
           (ofInt dst.width m, if m ≠ n then flagNV else if q = n then 0 else flagNX))))

/-! ### Movement, predicates, flags, tags -/

/-- R139 to R141: SWZ, SHFL and SHFLI give each element the element its selector, index or pattern names; a vacant source
lane reads as zero and precise. -/
def Obligations.LaneMovementResults : Prop :=
  (∀ (c : Ctl) (o : OpR) (s : State) (i : Iss), o.ty ≠ .tb4 → s.iss? c = some i →
    rChecks 0x40 0 { o with ty := if o.bc.isImm then .n64 else o.ty } c.apx none i.sh.w = none →
    (∀ v, o.bc = .imm v → o.ty.width ≠ 8 ∧ v < 16 ^ (64 / o.ty.width)) →
    (∀ l ∈ i.on, i.poisoned l (readsOf 0x40 0 o) = false) →
    ∃ val : Nat → Word,
      CompletesColumn (.swz c o) s i o.u o.d (some 4) val
        (fun l => (i.srcA o l).tag || (i.srcB o l).tag || c.apx) (fun _ => 0) ∧
      ∀ l, Elements i o.ty (val l) fun k =>
        let sel := match o.bc with
          | .imm v => v
          | .regs _ _ => (i.srcB o l).bits.toNat
        let nib := sel / 16 ^ k % 16
        if nib ≥ 8 then 0 else elem o.ty.width (nib % (64 / o.ty.width)) (i.srcA o l).bits) ∧
  (∀ (c : Ctl) (o : OpR) (s : State) (i : Iss) (ins : Instr) (pick : Nat → Nat → Nat × Nat), o.ty ≠ .tb4 → o.u = false →
    s.iss? c = some i →
    (ins = .shfl c o ∧ rChecks 0x41 0 o c.apx none i.sh.w = none ∧
        (∀ l ∈ i.on, i.poisoned l (shflReads o) = false) ∧
        (∀ l k, pick l k = (elem o.ty.width k (i.srcB o l).bits % 32, elem o.ty.width k (i.srcB o l).bits / 32 % (64 / o.ty.width))) ∨
      ins = .shfli c o ∧ ∃ v, o.bc = .imm v ∧ rChecks 0x42 0 { o with ty := .n64 } c.apx none i.sh.w = none ∧ v < 128 ∧
        ∀ l k, pick l k = (match v / 32 with
          | 0 => l ^^^ v % 32
          | 1 => if l < v % 32 then l else l - v % 32
          | 2 => if l + v % 32 > 31 then l else l + v % 32
          | _ => v % 32, k)) →
    let src (l : Nat) : Val := if (i.sh.strand l).run = .vacant then {} else i.sh.v l o.a
    (∀ l ∈ i.on, ∀ k < 64 / o.ty.width, (i.sh.strand (pick l k).1).run ≠ .vacant → i.poisoned (pick l k).1 [o.a] = false) →
    ∃ val : Nat → Word,
      CompletesColumn ins s i false o.d (some 6) val
        (fun l => ((List.range (64 / o.ty.width)).any fun k => (src (pick l k).1).tag) ||
          (match ins with | .shfl _ _ => (i.srcB o l).tag | _ => false) || c.apx) (fun _ => 0) ∧
      ∀ l, Elements i o.ty (val l) fun k => elem o.ty.width (pick l k).2 (src (pick l k).1).bits)

/-- R142: VOTE combines the source, a predicate or a flag, over the lanes of the batch whose guard is true. R143: PAND, POR,
PXOR and PNOT over the inverted or plain sources; PGET gives the predicate word; PSET writes every predicate and tag. R144
to R146: FLGRD reads F; FLGCLR clears the bits of its mask except in a lane whose guard or mask is tagged A; ENDORSE and
ENDP copy and make precise whatever the guard's tag, a uniform where no lane with a false guard holds a tagged one; ATAG reads
a tag, or sets it on a copy. Three tags are the model's reading (log entry 12): that uniform of ENDORSE (R49, R145), VOTE's
from the guards that it counts too, and ATAG's predicate under a guard tagged A. -/
def Obligations.VotePredicateAndFlagResults : Prop :=
  (∀ (c : Ctl) (o : OpR) (s : State) (i : Iss), s.iss? c = some i → (o.a ≥ 64 → o.a % 8 ≤ 4) →
     let src (l : Nat) : Bool := if o.a ≥ 64 then (i.sh.strand l).flags.getLsbD (o.a % 8) else (i.sh.strand l).pval (o.a % 16)
     let tag : Bool := i.on.any fun l => (o.a < 64 && (i.sh.strand l).ptag (o.a % 16)) || i.aG.contains l
     (rChecks 0x43 0 o c.apx none i.sh.w = none →
       CompletesPredicate (.voteAny c o) s i o.d 6 (fun _ => i.on.any src) (fun _ => tag) (fun _ => 0)) ∧
     (rChecks 0x43 1 o c.apx none i.sh.w = none →
       CompletesPredicate (.voteAll c o) s i o.d 6 (fun _ => i.on.all src) (fun _ => tag) (fun _ => 0)) ∧
     (rChecks 0x43 2 o c.apx none i.sh.w = none → o.u = true →
       ∃ val : Word, (∀ k, val.getLsbD k = decide (k ∈ i.on ∧ src k)) ∧
         CompletesColumn (.voteBallot c o) s i true o.d (some 6) (fun _ => val) (fun _ => tag) (fun _ => 0))) ∧
  ((∀ (ins : Instr) (fn : Nat) (c : Ctl) (o : OpR) (f : Bool → Bool → Bool) (sb sc : Slot) (s : State) (i : Iss),
     predicateRow ins = some (fn, c, o, f) → o.bc = .regs sb sc → s.iss? c = some i →
     rChecks 0x44 fn o c.apx none i.sh.w = none →
     CompletesPredicate ins s i o.d 2
       (fun l => f ((i.sh.strand l).pval o.a ^^ o.x.testBit 0) ((i.sh.strand l).pval sb.idx ^^ o.x.testBit 1))
       (fun l => (i.sh.strand l).ptag o.a || (i.sh.strand l).ptag sb.idx) (fun _ => 0)) ∧
   (∀ (c : Ctl) (o : OpR) (s : State) (i : Iss), s.iss? c = some i →
     (rChecks 0x44 3 o c.apx none i.sh.w = none →
       CompletesPredicate (.pnot c o) s i o.d 2 (fun l => !((i.sh.strand l).pval o.a ^^ o.x.testBit 0))
         (fun l => (i.sh.strand l).ptag o.a) (fun _ => 0)) ∧
     (rChecks 0x44 4 o c.apx none i.sh.w = none → o.u = false →
       CompletesColumn (.pget c o) s i false o.d (some 2) (fun l => (i.sh.strand l).pw.setWidth 64)
         (fun l => (List.range 15).any fun k => (i.sh.strand l).ptag k) (fun _ => 0)) ∧
     (rChecks 0x44 5 o c.apx none i.sh.w = none → (∀ l ∈ i.on, i.poisoned l [o.a] = false) →
       CompletesWrites (.pset c o) s i (some 2) fun ws => ∀ w, w ∈ ws ↔ ∃ l k, k < 15 ∧
         (l ∈ i.on ∧ w = Wr.p l k (some ((i.sh.v l o.a).bits.getLsbD k))
             (some ((i.sh.v l o.a).tag || i.aG.contains l || (i.sh.v l o.a).bits.getLsbD (16 + k))) ∨
           l ∈ i.offLanes ∧ l ∈ i.aG ∧ w = Wr.p l k none (some true))))) ∧
  (∀ (c : Ctl) (o : OpR) (s : State) (i : Iss), s.iss? c = some i →
     (rChecks 0x45 0 o c.apx none i.sh.w = none → o.u = false →
       CompletesColumn (.flgrd c o) s i false o.d (some 2) (fun l => (i.sh.strand l).flags.setWidth 64) (fun _ => false)
         (fun _ => 0)) ∧
     (rChecks 0x45 1 o c.apx none i.sh.w = none → (∀ l ∈ i.on, i.poisoned l (readsOf 0x45 1 o) = false) →
       let mask (l : Nat) : Val := match o.bc with
         | .imm v => { bits := BitVec.ofNat 64 v }
         | .regs sb _ => i.slotVal sb l
       CompletesWrites (.flgclr c o) s i (some 2) fun ws => ∀ w, w ∈ ws ↔
         ∃ l ∈ i.on, l ∉ i.aG ∧ (mask l).tag = false ∧ w = Wr.f l 0 ((mask l).bits.setWidth 5)) ∧
     (rChecks 0x46 0 o c.apx none i.sh.w = none → (∀ l ∈ i.on, i.poisoned l (readsOf 0x46 0 o) = false) →
       CompletesWrites (.endorse c o) s i (some 2) fun ws => ∀ w, w ∈ ws ↔
         if o.u then
           i.on ≠ [] ∧ w = Wr.u o.d allOnes (i.sh.u o.a).bits (some (decide (∃ l ∈ i.offLanes, l ∈ i.aG))) ∨
             i.on = [] ∧ i.aG ≠ [] ∧ w = Wr.u o.d 0 0 (some true)
         else ∃ l, l ∈ i.on ∧ w = Wr.v l (i.sh.ring l o.d) allOnes (i.sh.v l o.a).bits (some false) ∨
           l ∈ i.offLanes ∧ l ∈ i.aG ∧ w = Wr.v l (i.sh.ring l o.d) 0 0 (some true)) ∧
     (rChecks 0x47 0 o c.apx none i.sh.w = none →
       CompletesWrites (.endp c o) s i (some 2) fun ws => ∀ w, w ∈ ws ↔ ∃ l,
         l ∈ i.on ∧ w = Wr.p l o.d (some ((i.sh.strand l).pval o.a)) (some false) ∨
           l ∈ i.offLanes ∧ l ∈ i.aG ∧ w = Wr.p l o.d none (some true)) ∧
     (rChecks 0x48 0 o c.apx none i.sh.w = none → (∀ l ∈ i.on, i.poisoned l (readsOf 0x48 0 o) = false) →
       (o.x % 2 = 0 →
         CompletesPredicate (.atag c o) s i o.d 2 (fun l => (i.srcA o l).tag) (fun _ => false) (fun _ => 0)) ∧
       (o.x % 2 = 1 →
         CompletesColumn (.atag c o) s i o.u o.d (some 2) (fun l => (i.srcA o l).bits) (fun _ => true) (fun _ => 0))))

/-! ### Control -/

/-- R97, R99, R104: NOP and LAND change nothing but the PC; BRA moves each lane whose guard is true by its signed word offset,
mod 2^48, yielded under Y; YIELD marks its lanes yielded. R98: BRX judges each lane's target in the table's order; a lane
that passes jumps, a lane that fails keeps its PC and is named with its cause and target in the one trap. R85, R100, R98:
with room for the frame in the allotment (no spill), CALL, and CALLX to passing targets, shift the window by 8f: the
callee's first W − 8f registers are the caller's from 8f on, the rest are zero and precise, the caller's v(8f − 1) holds the
link word, and nothing else of the register column changes; earlier results still outstanding lose those entries (R62). With
a spill (R85, R391) the lane's entries from FLOOR on, the link among them, are stores of its own to the spill area, and FLOOR
rises. R86: RET of a lane whose link and whose caller's frame are
resident takes the link's address and unwinds the window; one at DEPTH 0, with a link tagged A, or with a bad link, is named
and keeps its PC, BASE, FLOOR and DEPTH; a lane whose link or caller's frame is spilled fills it from the spill area first. R98,
R100: a frame of 0, or one with 8f above W, names every lane before any acts. Three points are the model's choice (log entry
14): no LAND is found on an executable page of an approximate grade, so that a target there is refused; a link whose frame is
above BASE leaves BASE at 0; a lane at a DEPTH above 0 with BASE 0 has its link in entry 0. -/
def Obligations.BranchAndCallResults : Prop :=
  (∀ (c : Ctl) (s : State) (i : Iss), s.iss? c = some i →
     (∀ o, ∃ t, exec (.nop c o) s = .next t ∧ Issued s t i [] past) ∧
     (∀ o, ∃ t, exec (.land c o) s = .next t ∧ Issued s t i [] past) ∧
     (i.aG = [] →
       (∀ o : OpB, ∃ t, exec (.bra c o) s = .next t ∧ Issued s t i [] fun l st =>
         if l ∈ i.on then
           { past l st with
             pc := BitVec.ofInt 48 ((i.pc.toNat : Int) + 8 * (BitVec.ofNat 36 o.off).toInt)
             run := if o.y then .yielded else .active }
         else past l st) ∧
       (∀ o, ∃ t, exec (.yield c o) s = .next t ∧ Issued s t i [] fun l st =>
         if l ∈ i.on then { past l st with run := .yielded } else past l st))) ∧
  (∀ (c : Ctl) (o : OpJ) (s : State) (i : Iss), s.iss? c = some i → i.aG = [] → o.target < i.sh.w →
     (∀ l ∈ i.on, i.poisoned l [o.target] = false) →
     let tgt (l : Nat) : Val := i.sh.v l o.target
     let cause (l : Nat) : Option Nat := targetVerdict s i false (tgt l) (i.sh.strand l)
     ∃ t, exec (.brx c o) s = .next t ∧
       IssuedAs s t i (fun sh => sh.raise i.seq 0 (i.on.filterMap fun l => (cause l).map fun k => (l, k, (tgt l).bits.toNat)))
         fun l st =>
           if l ∉ i.on then past l st
           else match cause l with
             | some _ => { stay l st with refused := none }
             | none => { past l st with pc := (tgt l).bits.setWidth 48, run := if o.y then .yielded else .active }) ∧
  (∀ (c : Ctl) (s : State) (i : Iss) (ins : Instr) (f : Nat) (tgt : Nat → Pc), s.iss? c = some i → i.aG = [] →
     Calls s i c ins f tgt →
     0 < f → 8 * f ≤ i.sh.w → i.sh.w + 8 * f ≤ i.sh.allot → i.sh.allot ≤ 2048 →
     (∀ l ∈ i.on, (i.sh.strand l).depth < 255 ∧
       (i.sh.strand l).base + 8 * f + i.sh.w ≤ i.sh.allot + (i.sh.strand l).floor) →
     ∃ t vreg, exec ins s = .next t ∧
       IssuedAs s t i (fun sh => { sh with vreg := vreg, pend := stripped (callWrites i f) i.seq sh.pend }) (fun l st =>
         if l ∈ i.on then { past l st with pc := tgt l, base := st.base + 8 * f, depth := st.depth + 1 } else past l st) ∧
       ∀ l, let sh := t.sheafAt i.t i.j
         if l ∈ i.on then
           (∀ k, k < i.sh.w - 8 * f → sh.v l k = i.sh.v l (8 * f + k)) ∧
           (∀ k, i.sh.w - 8 * f ≤ k → k < i.sh.w → sh.v l k = {}) ∧
           sh.entryVal l (i.sh.ring l (8 * f - 1)) = linkOf i f ∧
           ∀ e, e < 2048 → callWrites i f l e = false → sh.entryVal l e = i.sh.entryVal l e
         else ∀ e, e < 2048 → sh.entryVal l e = i.sh.entryVal l e) ∧
  (∀ (c : Ctl) (s : State) (i : Iss) (ins : Instr) (f : Nat) (tgt : Nat → Pc) (l : Nat) (m : Mapping), s.iss? c = some i →
     i.aG = [] → i.on = [l] → i.tm.guarded = none → Calls s i c ins f tgt →
     0 < f → 8 * f ≤ i.sh.w → i.sh.w ≤ i.sh.allot → i.sh.allot ≤ 2048 → (i.sh.strand l).depth < 255 →
     let st := i.sh.strand l
     let bn := st.base + 8 * f
     let fl := max st.floor (bn + i.sh.w - i.sh.allot)
     fl ≤ 1984 → (∀ e, st.floor ≤ e → e < fl → i.sh.poison.has (l * 2048 + e % i.sh.allot) = false) →
     SpillReach s i l false true m st.floor fl →
     ∃ t u vreg stores, exec ins s = .next t ∧
       IssuedAs s u i (fun sh => { sh with
           vreg := vreg, pend := stripped (callWrites i f) i.seq sh.pend
           spills := sh.spills + if st.floor < fl then 1 else 0 })
         (fun k x => if k = l then { past k x with pc := tgt k, base := bn, floor := fl, depth := x.depth + 1 } else past k x) ∧
       OnlyCaches { u with stores := u.stores ++ stores } t ∧
       (∀ x ∈ stores, x.1 = i.die ∧ x.2.sheaf = i.tm.key * 16 + i.j ∧ x.2.lanes = laneBit l) ∧
       (∀ e, st.floor ≤ e → e < fl → spilledVal t i l m e =
         if e % i.sh.allot = (bn - 1) % i.sh.allot then linkOf i f else i.sh.entryVal l (e % i.sh.allot)) ∧
       (let sh := t.sheafAt i.t i.j
        (∀ k, k < i.sh.w - 8 * f → sh.v l k = i.sh.v l (8 * f + k)) ∧
        (∀ k, i.sh.w - 8 * f ≤ k → k < i.sh.w → sh.v l k = {}) ∧
        ∀ k e, e < 2048 → callWrites i f k e = false → sh.entryVal k e = i.sh.entryVal k e)) ∧
  (∀ (c : Ctl) (o : OpN) (s : State) (i : Iss), s.iss? c = some i → i.aG = [] →
     let link (l : Nat) : Val := i.sh.entryVal l (((i.sh.strand l).base - 1) % i.sh.allot)
     let frame (l : Nat) : Nat := (link l).bits.toNat / 2 ^ 48 % 32
     let cause (l : Nat) : Option (Nat × Nat) :=
       if (i.sh.strand l).depth = 0 then some (0x504, 0)
       else if (link l).tag then some (0x402, (link l).bits.toNat)
       else if 2 ^ 53 ≤ (link l).bits.toNat ∨ (link l).bits.toNat % 8 ≠ 0 ∨ frame l = 0 then some (0x505, (link l).bits.toNat)
       else none
     (∀ l ∈ i.on, (i.sh.strand l).depth ≠ 0 → (i.sh.strand l).floor ≤ (i.sh.strand l).base - 1 ∧
       i.sh.poison.has (l * 2048 + ((i.sh.strand l).base - 1) % i.sh.allot) = false) →
     (∀ l ∈ i.on, cause l = none → (i.sh.strand l).floor ≤ (i.sh.strand l).base - 8 * frame l) →
     ∃ t, exec (.ret c o) s = .next t ∧
       IssuedAs s t i (fun sh => sh.raise i.seq 0 (i.on.filterMap fun l => (cause l).map fun k => (l, k.1, k.2))) fun l st =>
         if l ∉ i.on then past l st
         else match cause l with
           | some _ => { stay l st with refused := none }
           | none => { past l st with
               pc := (link l).bits.setWidth 48
               base := st.base - 8 * frame l
               depth := st.depth - 1 }) ∧
  (∀ (c : Ctl) (o : OpN) (s : State) (i : Iss) (l : Nat) (m : Mapping), s.iss? c = some i → i.aG = [] → i.on = [l] →
     let st := i.sh.strand l
     let link : Val := if st.base - 1 < st.floor then spilledVal s i l m (st.base - 1)
       else i.sh.entryVal l ((st.base - 1) % i.sh.allot)
     let frame := link.bits.toNat / 2 ^ 48 % 32
     let nb := st.base - 8 * frame
     st.depth ≠ 0 → st.floor ≤ st.base → 0 < i.sh.allot → i.sh.allot ≤ 2048 → 8 * frame ≤ i.sh.allot →
     i.sh.poison.has (l * 2048 + (st.base - 1) % i.sh.allot) = false →
     link.tag = false → link.bits.toNat < 2 ^ 53 → link.bits.toNat % 8 = 0 → frame ≠ 0 → nb < st.floor →
     SpillReach s i l true false m nb st.floor →
     (∀ e, nb ≤ e → e < st.floor → s.poisonAt (m.pa + (spillVa i.tm i.j l e - m.va)) 8 = false ∧
       s.poisonAt (m.pa + (spillTagVa i.tm i.j l e - m.va)) 1 = false) →
     let filled (k e : Nat) : Bool := k == l && (List.range (st.floor - nb)).any fun x => (nb + x) % i.sh.allot == e
     ∃ t u vreg told, exec (.ret c o) s = .next t ∧
       IssuedAs s u i (fun sh => { sh with vreg := vreg, told := told, pend := stripped filled i.seq sh.pend })
         (fun k x => if k = l then
             { past k x with pc := link.bits.setWidth 48, base := nb, floor := nb, depth := x.depth - 1 } else past k x) ∧
       OnlyCaches u t ∧
       (∀ e, nb ≤ e → e < st.floor → (t.sheafAt i.t i.j).entryVal l (e % i.sh.allot) = spilledVal s i l m e) ∧
       ∀ k e, e < 2048 → filled k e = false → (t.sheafAt i.t i.j).entryVal k e = i.sh.entryVal k e) ∧
  (∀ (c : Ctl) (s : State) (i : Iss) (ins : Instr) (f : Nat), s.iss? c = some i → i.aG = [] →
     (∃ o : OpB, ins = .call c o ∧ f = o.frame) ∨ (∃ o : OpJ, ins = .callx c o ∧ f = o.frame ∧ o.target < i.sh.w) →
     f = 0 ∨ i.sh.w < 8 * f →
     ∃ t, exec ins s = .next t ∧ IssuedAs s t i (fun sh => sh.raise i.seq 0 (i.batch.map fun l => (l, 0x108, 0))) stay)

/-- R91, R92, R101: JOIN sets and LEAVE clears the lanes' bits of the mask; WAITM makes its members wait at the WAITM and lets
the others go on. What a change of run state brings follows (`settled`). R92, R159: when every member of a mask waits on it, all
become active at PC + 8, and their earlier stores are performed for the strands of the sheaf; else nothing changes. -/
def Obligations.MaskResults : Prop :=
  (∀ (c : Ctl) (o : OpS) (s : State) (i : Iss), s.iss? c = some i → i.aG = [] → o.sel ≤ 11 →
     (∃ t, exec (.join c o) s = .next t ∧
       IssuedAs s t i (fun sh => sh.setMask o.sel (sh.mask o.sel ||| maskOf i.on)) past) ∧
     (∃ u, exec (.leave c o) s = .next (u.settled i.t) ∧
       IssuedAs s u i (fun sh => sh.setMask o.sel (sh.mask o.sel &&& ~~~ maskOf i.on)) past) ∧
     (∃ u, exec (.waitm c o) s = .next (u.settled i.t) ∧ Issued s u i [] fun l st =>
       if l ∈ i.on ∧ (i.sh.mask o.sel).getLsbD l then { past l st with pc := i.pc, run := .waiting o.sel } else past l st)) ∧
  (∀ (s : State) (t j k : Nat) (tm : Team), s.team? t = some tm → tm.key = t → j < tm.sheaves.length →
     (tm.sheaf j).strands.length = 32 →
     let sh := tm.sheaf j
     let all := (∃ l < 32, (sh.mask k).getLsbD l) ∧ ∀ l < 32, (sh.mask k).getLsbD l → (sh.strand l).run = .waiting k
     let u := s.releaseMask t j k
     (all →
       (∀ l, ((u.sheafAt t j).strand l) =
         if l < 32 ∧ (sh.mask k).getLsbD l then
           { sh.strand l with
             pc := (sh.strand l).pc + 8, run := .active, park := .nothing, acq := (u.die tm.die).performed }
         else { sh.strand l with acq := ((u.sheafAt t j).strand l).acq }) ∧
       ∀ x ∈ u.stores, x.2.isMark = false → x.2.sheaf = t * 16 + j → x.2.lanes &&& sh.mask k ≠ 0 → 1 ≤ x.2.vis) ∧
     (¬ all → u = s))

/-- R88, R102: SPAWN creates a strand in every vacant lane, REFILL in the vacant lanes in ascending order while the item queue
yields items: the stage's one counter, or in a phased launch the team's own block. Each starts at the target with V0 as R102
gives it, every other register of the window zero and precise, no predicate, no flag, depth 0. The batch's earlier stores are
performed first for the strands of the sheaf, and the new strands start with an acquire. R103: EXIT ends each strand whose guard
is true: its lane is vacant and in no mask, and its loads are discarded; whatever else it would still receive is dropped too
(DEDUCED, log entry 9). What follows a vacancy follows (`settled`). -/
def Obligations.StrandCreationAndExit : Prop :=
  (∀ (c : Ctl) (o : OpB) (s : State) (i : Iss), s.iss? c = some i → i.aG = [] → i.on ≠ [] → i.sh.strands.length = 32 →
     i.sh.allot ≤ 2048 → 0 < i.sh.allot →
     let tgt : Pc := BitVec.ofInt 48 ((i.pc.toNat : Int) + 8 * (BitVec.ofNat 36 o.off).toInt)
     let vacant := (List.range 32).filter fun l => (i.sh.strand l).run = .vacant
     let released (u : State) : State := u.performStores (ofLanes i.t i.j (maskOf i.batch)) 1
     let made (t : State) (l : Nat) (v0 item : Word) : Prop :=
       let sh := t.sheafAt i.t i.j
       sh.strand l = { pc := tgt, run := .active, item := item, acq := (t.die i.die).performed } ∧ sh.v l 0 = { bits := v0 } ∧
         ∀ k, 0 < k → k < i.sh.w → sh.v l k = {}
     (∃ t u, exec (.spawn c o) s = .next t ∧ Issued s u i [] past ∧
       (∃ f, t = (released u).modSheaf i.t i.j f) ∧
       (∀ l ∈ vacant, made t l (BitVec.ofNat 64 (i.on.headD 0)) (BitVec.allOnes 64)) ∧
       ∀ l, l ∉ vacant → (t.sheafAt i.t i.j).strand l =
         { (u.sheafAt i.t i.j).strand l with acq := ((t.sheafAt i.t i.j).strand l).acq }) ∧
     (∀ (first avail : Nat),
       i.tm.st.phased = true ∧ first = i.tm.itemNext ∧ avail = i.tm.itemEnd - i.tm.itemNext ∨
         i.tm.st.phased = false ∧ (∃ g, s.stageRun? i.tm.launch i.tm.stage = some g ∧ first = g.item ∧
           avail = i.tm.st.items - g.item) →
       ∃ t u, exec (.refill c o) s = .next t ∧ Issued s u i [] past ∧
         t = ((released u).fillLanes i.t i.j tgt).acquire i.die i.t i.j (maskOf vacant) ∧
         (∀ k < vacant.length, k < avail →
           made t (vacant.getD k 0) (BitVec.ofNat 64 (first + k)) (BitVec.ofNat 64 (first + k))) ∧
         (∀ k < vacant.length, avail ≤ k → ((t.sheafAt i.t i.j).strand (vacant.getD k 0)).run = .vacant) ∧
         (i.tm.st.phased = true → (t.team? i.t).map (fun x => x.itemNext) = some (first + min vacant.length avail)) ∧
         (i.tm.st.phased = false → (t.stageRun? i.tm.launch i.tm.stage).map (fun x => x.item) =
           some (first + min vacant.length avail)))) ∧
  (∀ (c : Ctl) (o : OpN) (s : State) (i : Iss), s.iss? c = some i → i.aG = [] →
     ∃ u m p, exec (.exit c o) s =
         .next ({ u with loads := s.loads.filter fun x => !x.endsWith i.t i.j (maskOf i.on) }.settled i.t) ∧
       IssuedAs s u i (fun sh => { sh with masks := m, pend := p }) (fun l st => if l ∈ i.on then {} else past l st) ∧
       (∀ k < 12, m.val k 0 = i.sh.mask k &&& ~~~ maskOf i.on) ∧
       p.map (fun q => q.seq) = i.sh.pend.map (fun q => q.seq) ∧
       ∀ q ∈ p, ∀ w ∈ q.writes, ∀ l ∈ i.on, w.lane ≠ some l)

/-- R105: TRAP and BPT name the lanes whose guard is true with cause trap or breakpoint and the code; those lanes are past the
instruction. R72: a word that is refused, and a word that cannot be fetched (R97), name every lane of the batch, which keep
their PCs and are active (R81); the word has not issued. -/
def Obligations.ProgramTraps : Prop :=
  (∀ (c : Ctl) (o : OpN) (s : State) (i : Iss), s.iss? c = some i → i.aG = [] →
    (∃ t, exec (.trap c o) s = .next t ∧
      IssuedAs s t i (fun sh => sh.raise i.seq o.code (i.on.map fun l => (l, 0xA01, 0))) past) ∧
    (∃ t, exec (.bpt c o) s = .next t ∧
      IssuedAs s t i (fun sh => sh.raise i.seq o.code (i.on.map fun l => (l, 0xA02, 0))) past)) ∧
  (∀ (s : State) (i : Iss), s.iss? {} = some i →
    let named (cause addr : Nat) : State := { s with
      teams := s.teams.put i.t (i.tm.modSheaf i.j fun sh =>
        (sh.modLanes i.batch fun st => { st with run := .active }).raise i.seq 0 (i.batch.map fun l => (l, cause, addr))) }
    exec (.illegal none) s = .next (named 0x107 0) ∧
    exec (.illegal (some .version)) s = .next (named 0x201 0) ∧
    exec (.illegal (some .zero)) s = .next (named 0x101 0) ∧
    exec (.illegal (some .major)) s = .next (named 0x102 0) ∧
    exec (.illegal (some .fn)) s = .next (named 0x103 0) ∧
    exec (.illegal (some .reserved)) s = .next (named 0x104 0) ∧
    exec (.illegal (some .approx)) s = .next (named 0x105 0) ∧
    exec (.illegal (some .type)) s = .next (named 0x106 0) ∧
    (s.fetchAt i.core i.tm.vdev i.pc.toNat = .unmapped → exec .fetchTrap s = .next (named 0x705 i.pc.toNat)) ∧
    (s.fetchAt i.core i.tm.vdev i.pc.toNat = .notExecutable → exec .fetchTrap s = .next (named 0x706 i.pc.toNat)))

/-- R95, R57: in every instruction of the chapter but NOP and LAND, a lane whose guard is tagged A takes a-branch and performs
nothing. R72, R107: an integer, float or compare form that breaks a check of the whole batch names every lane of it with the
cause, at its own instruction, and performs nothing. -/
def Obligations.GuardSinksAndBatchCauses : Prop :=
  (∀ (ins : Instr) (c : Ctl) (s : State) (i : Iss), s.iss? c = some i →
     (∃ o, ins = .bra c o ∨ ins = .spawn c o ∨ ins = .refill c o) ∨
       ((i.tm.guarded = none ∨ i.sh.cleared = true) ∧ ∃ o, ins = .call c o) ∨
       (∃ o : OpJ, o.target < i.sh.w ∧ (ins = .brx c o ∨ (i.tm.guarded = none ∨ i.sh.cleared = true) ∧ ins = .callx c o)) ∨
       (∃ o, ins = .ret c o ∨ ins = .exit c o ∨ ins = .yield c o ∨ ins = .trap c o ∨ ins = .bpt c o) ∨
       (∃ o, ins = .join c o ∨ ins = .leave c o ∨ ins = .waitm c o) →
     ∃ u, (exec ins s = .next u ∨ exec ins s = .next (u.settled i.t)) ∧
       ∀ l ∈ i.aG, (∃ r ∈ (u.sheafAt i.t i.j).traps, r.iss = i.seq ∧ (l, 0x403, 0) ∈ r.causes) ∧
         (u.sheafAt i.t i.j).strand l = { i.sh.strand l with run := .active }) ∧
  (∀ (ins : Instr) (m fn : Nat) (c : Ctl) (o : OpR) (s : State) (i : Iss) (cause : Nat),
     ((∃ r, integerRow ins = some r ∧ r.m = m ∧ r.fn = fn ∧ r.c = c ∧ r.o = o) ∨
       (∃ r, floatRow ins = some r ∧ r.m = m ∧ r.fn = fn ∧ r.c = c ∧ r.o = o) ∨
       (ins = .fscale c o ∧ m = 0x3A ∧ fn = 0) ∨ (ins = .fclass c o ∧ m = 0x37 ∧ fn = 0) ∨
       ∃ k n, compareRow ins = some (m, k, c, o, n) ∧ fn = k.code) →
     s.iss? c = some i → rChecks m fn o c.apx none i.sh.w = some cause →
     ∃ t, exec ins s = .next t ∧ IssuedAs s t i (fun sh => sh.raise i.seq 0 (i.batch.map fun l => (l, cause, 0))) stay ∧
       SameBytes s t)

/-! ### Traps -/

/-- R107 to R110: a pending trap with nothing outstanding, outside a handler and with no cause that goes to the service or rolls
back, enters the stage's trap vector: the record's fields, TMODE, HMASK, its lanes at the vector at DEPTH 0 with the hidden
copy, and S63. What a change of run state brings follows (`settled`). Several traps that are pending at once merge into one record, in which
the first cause of a lane stands (the model's reading of R107, log entry 14). R111, R114, R108: a cause that goes to the service, a
trap while TMODE is 1, and a stage without a good trap vector stop the sheaf with the service; nothing else of the team
changes. -/
def Obligations.TrapEntry : Prop :=
  (∀ (s : State) (t j v : Nat) (tm : Team), s.team? t = some tm → j < tm.sheaves.length →
     let sh := tm.sheaf j
     let causes := sh.faulting
     sh.traps ≠ [] → sh.pend = [] → (sh.hold = .none ∨ sh.hold = .commit) → sh.tmode = false → sh.strands.length = 32 →
     (∀ x ∈ causes, Cause.toService x.2.1 tm.debug = false) → (∀ r ∈ sh.traps, ∀ x ∈ r.causes, x.2.1 ≠ 0xC01) → s.vector? tm = some v → v < 2 ^ 48 →
     let dead (l : Nat) : Prop := ∃ a, (l, 0x509, a) ∈ causes ∨ (l, 0x50A, a) ∈ causes
     let enters (l : Nat) : Prop := l < 32 ∧ ((sh.strand l).run = .active ∨ (sh.strand l).run = .yielded ∨ dead l)
     ∃ tm', exec (.trapDelivery t j) s = .next ((s.modTeam t fun _ => tm').settled t) ∧
       tm' = { tm with larder := tm'.larder, sheaves := tm.sheaves.set j (tm'.sheaf j) } ∧
       tm'.sheaf j = { sh with
         traps := [], tmode := true, hmask := (tm'.sheaf j).hmask, ureg := (tm'.sheaf j).ureg,
         safeAt := sh.safeAt &&& ~~~ (tm'.sheaf j).hmask, heldAt := sh.heldAt &&& ~~~ (tm'.sheaf j).hmask, told := (tm'.sheaf j).told, strands := (tm'.sheaf j).strands } ∧
       (∀ l, (tm'.sheaf j).hmask.getLsbD l = true ↔ enters l) ∧
       (∀ l, enters l → (tm'.sheaf j).strand l = { sh.strand l with
         pc := BitVec.ofNat 48 v, hdepth := (sh.strand l).depth, depth := 0, run := .active, park := .nothing }) ∧
       (∀ l, ¬ enters l → (tm'.sheaf j).strand l = sh.strand l) ∧
       (tm'.sheaf j).u 63 = { bits := BitVec.ofNat 64 (tm.recordAt j) } ∧
       (∀ k, k ≠ 63 → (tm'.sheaf j).u k = sh.u k) ∧
       (∀ a, a < tm.recordAt j ∨ tm.recordAt j + 1024 ≤ a → tm'.larderByte a = tm.larderByte a) ∧
       tm'.recordField j 0 4 = (maskOf (causes.map Prod.fst)).toNat ∧
       tm'.recordField j 4 4 = (tm'.sheaf j).hmask.toNat ∧
       tm'.recordField j 8 2 = sh.trapCode % 2 ^ 16 ∧
       tm'.recordField j 0x10 8 = (sh.u 63).bits.toNat ∧
       tm'.recordField j 0x18 1 = (if (sh.u 63).tag then 1 else 0) ∧
       ∀ l < 32, (∀ k a, causes.find? (fun x => x.1 == l) = some (l, k, a) →
             tm'.recordField j (0x40 + 2 * l) 2 = k % 2 ^ 16 ∧ tm'.recordField j (0x180 + 8 * l) 8 = a % 2 ^ 64) ∧
         tm'.recordField j (0x80 + 8 * l) 8 = (sh.strand l).pc.toNat ∧
         tm'.recordField j (0x280 + l) 1 = (sh.strand l).depth % 256 ∧
         tm'.recordField j (0x2A0 + 2 * l) 2 = (sh.strand l).base % 65536 ∧
         tm'.recordField j (0x2E0 + 2 * l) 2 = (sh.strand l).floor % 65536 ∧
         (¬ dead l → tm'.recordField j (0x320 + l) 1 = (match (sh.strand l).run with
           | .vacant => 0
           | .active => 16
           | .yielded => 32
           | .parked w => 48 + w
           | .waiting k => 64 + k) % 256) ∧
         tm'.recordField j (0x340 + 4 * l) 4 = (sh.strand l).pw.toNat ∧
         (dead l → tm'.recordField j (0x320 + l) 1 = 16)) ∧
  (∀ (s : State) (t j : Nat) (tm : Team), s.team? t = some tm → j < tm.sheaves.length →
     let sh := tm.sheaf j
     sh.traps ≠ [] → sh.pend = [] → sh.hold = .none → tm.guarded = none →
     let stops (cause : Nat) (h : Hold) : Prop := ∃ rec, exec (.trapDelivery t j) s = .next (s.modSheaf t j fun x =>
       { x with traps := [], record := rec, sCause := cause, hold := h })
     (sh.tmode = true → stops 0xB03 .service) ∧
     (sh.tmode = false → ∀ x, sh.faulting.find? (fun y => Cause.toService y.2.1 tm.debug) = some x →
       stops x.2.1 (if x.2.1 = 0xA02 ∧ tm.debug then .debug else .service)) ∧
     (sh.tmode = false → sh.faulting.find? (fun y => Cause.toService y.2.1 tm.debug) = none → s.vector? tm = none →
       stops 0xB04 .service))

/-- R106: a TRET whose batch is every lane of HMASK not exited, at DEPTH 0 with a good record, restores each such lane's PC, run
state, DEPTH and predicate word and S63 from the record, and clears TMODE and HMASK; earlier results still outstanding lose
those elements (R62). R106, R114, R116: TRET with another guard, outside a handler, and one that R106 or R116 refuses (a batch
that is not those lanes; a lane at another DEPTH, or whose recorded PC has bits 63:48 or 2:0, or whose recorded RUN has a
reserved bit or is neither active nor yielded) name every lane of the batch. A lane of HMASK that has exited and holds a new
strand counts again, and the record's bytes of other lanes are not judged (the model's choices, log entry 14). -/
def Obligations.TrapReturn : Prop :=
  (∀ (c : Ctl) (o : OpN) (s : State) (i : Iss), s.iss? c = some i → c.gn = false → c.gp = 15 → i.sh.tmode = true →
     (∀ l, l ∈ i.batch ↔ l < 32 ∧ i.sh.hmask.getLsbD l ∧ (i.sh.strand l).run ≠ .vacant) →
     let left (ps : List Pending) : List Pending := ps.map fun q => if q.seq ≤ i.seq then
       { q with writes := q.writes.map fun w => match w with
         | .p l k v g => if i.batch.contains l && decide (k < 15) then Wr.p l k none none else .p l k v g
         | .u k m b g => if k = 63 then Wr.u k 0 b none else .u k m b g
         | x => x } else q
     let pc (l : Nat) := i.tm.recordField i.j (0x80 + 8 * l) 8
     let run (l : Nat) := i.tm.recordField i.j (0x320 + l) 1
     (∀ l ∈ i.batch, (i.sh.strand l).depth = 0 ∧ pc l < 2 ^ 48 ∧ pc l % 8 = 0 ∧ (run l / 16 = 1 ∨ run l / 16 = 2)) →
     ∃ u, exec (.tret c o) s = .next (u.settled i.t) ∧
       IssuedAs s u i (fun sh =>
           let v : Val := { bits := BitVec.ofNat 64 (i.tm.recordField i.j 0x10 8), tag := i.tm.recordField i.j 0x18 1 % 2 == 1 }
           ({ sh with
             tmode := false, hmask := 0, pend := left sh.pend
             safeAt := sh.safeAt &&& ~~~ maskOf i.batch }.setU 63 v).tell (.uni 63 v))
         fun l st => { st with
           pc := BitVec.ofNat 48 (pc l)
           run := if run l / 16 = 2 then .yielded else .active
           depth := st.hdepth
           pword := (BitVec.ofNat 32 (i.tm.recordField i.j (0x340 + 4 * l) 4) ||| 0x8000) &&& 0x7FFFFFFF }) ∧
  (∀ (c : Ctl) (o : OpN) (s : State) (i : Iss), s.iss? c = some i →
     let named (cause : Nat) : Prop := ∃ t, exec (.tret c o) s = .next t ∧
       IssuedAs s t i (fun sh => sh.raise i.seq 0 (i.batch.map fun l => (l, cause, 0))) stay
     (c.gn = true ∨ c.gp ≠ 15 → named 0x108) ∧
     (c.gn = false → c.gp = 15 → i.sh.tmode = false → named 0x50B) ∧
     (c.gn = false → c.gp = 15 → i.sh.tmode = true →
       let back (l : Nat) : Prop := l < 32 ∧ i.sh.hmask.getLsbD l = true ∧ (i.sh.strand l).run ≠ .vacant
       let pc (l : Nat) := i.tm.recordField i.j (0x80 + 8 * l) 8
       let run (l : Nat) := i.tm.recordField i.j (0x320 + l) 1
       (∃ l, ¬ (l ∈ i.batch ↔ back l)) ∨
         (∃ l, back l ∧ ((i.sh.strand l).depth ≠ 0 ∨ 2 ^ 48 ≤ pc l ∨ pc l % 8 ≠ 0 ∨ ¬ (run l / 16 = 1 ∨ run l / 16 = 2))) →
       named 0xB03))

/-! ### Memory -/

/-- R151, R149, R172: LDL of aligned words in the larder that hold no uncorrectable error completes: it reads w/8 bytes,
little-endian, extended by the type's signedness, tagged by the line's class or the guard's tag, with variable latency; what
it reads of an approximate line is exposed (R48). R151, R156, R157, R177: LD of lines that are not precise cellar lines, and LDS
of approximate cellar lines, read what the strand sees on its die, its own stores not yet performed among it; only caches
change besides. When such a load is performed is the model's choice (log entry 13): at its issue, or, where the agenda has it so
(`late`), later: it then joins the die's outstanding loads with the writes that its value will complete. -/
def Obligations.LoadResults : Prop :=
  (∀ (c : Ctl) (o : OpM) (s : State) (i : Iss), s.iss? c = some i → memChecks o true true i.sh.w = none →
     let n := o.ty.width / 8
     (∀ l ∈ accessLanes i o.u, i.addrTag o.base o.index l = false ∧ i.poisoned l (memRegs o false) = false ∧
       i.memAddr o l % n = 0 ∧ i.memAddr o l < i.tm.larderSize ∧ i.tm.larderError (i.memAddr o l) n = false) →
     ∃ (t : State) (ws : List Wr) (val : Nat → Word), exec (.ldl c o) s = .next t ∧
       Issued s t i (i.outstanding none ws) past ∧
       WritesColumn i o.u o.t val (fun l => i.tm.larderGrade (i.memAddr o (resultLane i o.u l)) != 8) ws ∧
       (∀ l x, Wr.f l x 0 ∉ ws) ∧
       ∀ l, (if o.u then i.on ≠ [] else l ∈ i.on) →
         let a := i.memAddr o (resultLane i o.u l)
         LoadedAs o.ty (val l) i.tm.larderByte (i.tm.larderGrade a) (i.tm.larderW.val (lineOf a) 32) a) ∧
  (∀ (c : Ctl) (o : OpM) (s : State) (i : Iss) (ins : Instr) (pa grade : Nat → Nat), s.iss? c = some i →
     memChecks o true true i.sh.w = none → PlainLoad s i c o ins pa grade →
     (s.late = false → ∃ (t u : State) (ws : List Wr) (val : Nat → Word), exec ins s = .next t ∧
       Issued s u i (i.outstanding none ws) past ∧ OnlyCaches u t ∧
       WritesColumn i o.u o.t val (fun l => grade (resultLane i o.u l) != 8) ws ∧ (∀ l x, Wr.f l x 0 ∉ ws) ∧
       ∀ l, (if o.u then i.on ≠ [] else l ∈ i.on) →
         let r := resultLane i o.u l
         let seen := s.ownWrites i.tm i.j (maskOf (accessFor i o.u r))
         LoadedAs o.ty (val l) (s.byteAt i.die seen) (grade r) (s.widthAt i.die seen (pa r)) (pa r)) ∧
     (s.late = true → accessLanes i o.u ≠ [] → ∃ (t u : State) (ws : List Wr) (later : List Load), exec ins s = .next t ∧
       Issued s u i [{ seq := i.seq, writes := ws, waits := later.length }] past ∧
       OnlyCaches { u with loads := u.loads ++ later } t ∧ (∀ w ∈ ws, ∃ l e, w = Wr.v l e 0 0 (some true) ∧ l ∈ i.offLanes) ∧
       later.length = (accessLanes i o.u).length ∧
       ∀ k < later.length, ∃ x, later[k]? = some x ∧
         let l := (accessLanes i o.u).getD k 0
         (x = { x with
           t := i.t, j := i.j, seq := i.seq, lanes := maskOf (accessFor i o.u l), lane := l, die := i.die, pa := pa l, ty := o.ty,
           grade := grade l }) ∧
         (o.u = true → x.writes = [Wr.u o.t allOnes 0 (some (grade l != 8 || !i.aG.isEmpty))]) ∧
         (o.u = false → Wr.v l (i.sh.ring l o.t) allOnes 0 (some (grade l != 8 || i.aG.contains l)) ∈ x.writes ∧
           ∀ w ∈ x.writes, w = Wr.v l (i.sh.ring l o.t) allOnes 0 (some (grade l != 8 || i.aG.contains l)) ∨
             ∃ q ∈ i.offLanes, q ∈ i.aG ∧ w = Wr.v q (i.sh.ring q o.t) 0 0 (some true))))

/-- R271: LD and LDS of precise cellar lines, and a plain team's ST to them, send one request for each access to the line's
home; the sheaf issues nothing until the homes have answered. -/
def Obligations.HomeAccesses : Prop :=
  ∀ (c : Ctl) (o : OpM) (s : State) (i : Iss) (ins : Instr) (pa : Nat → Nat), s.iss? c = some i →
    memChecks o true true i.sh.w = none → i.aG = [] → i.on ≠ [] →
    (∀ l ∈ accessLanes i o.u, i.poisoned l (memRegs o (match ins with | .st _ _ => true | _ => false)) = false ∧
      s.preciseCellar (pa l) = true) →
    (ins = .ld c o ∧ ∀ l ∈ accessLanes i o.u, ∃ m, globalVerdict s i false o l = some (.inr (m, pa l)) ∧ m.grade = 8) ∨
      (ins = .lds c o ∧ ∀ l ∈ accessLanes i o.u, i.addrTag o.base o.index l = false ∧
          i.memAddr o l % (o.ty.width / 8) = 0 ∧ i.memAddr o l < 201326592 ∧
          pa l = 2 ^ 44 + i.die * 2 ^ 28 + i.memAddr o l ∧
          ∃ g, s.region? (pa l) = some g ∧ g.launch = some i.tm.launch ∧ g.ctx = none) ∨
      (ins = .st c o ∧ i.tm.guarded = none ∧ ∀ l ∈ accessLanes i o.u, (if o.u then i.sh.u o.t else i.sh.v l o.t).tag = false ∧
          ∃ m, globalVerdict s i true o l = some (.inr (m, pa l)) ∧ m.grade = 8) →
    ∃ t p, exec ins s = .next t ∧
      (t.sheafAt i.t i.j).hold = .home ((List.range (accessLanes i o.u).length).map fun k => s.ids + k) ∧
      (t.sheafAt i.t i.j).pend = i.sh.pend ++ [p] ∧ p.seq = i.seq ∧ p.due = none ∧
      p.waits = (accessLanes i o.u).length ∧
      t.ids = s.ids + (accessLanes i o.u).length ∧ t.stores = s.stores ∧
      (∀ l ∈ i.batch, ((t.sheafAt i.t i.j).strand l).pc = (i.sh.strand l).pc + 8) ∧
      (∀ k < (accessLanes i o.u).length,
        let l := (accessLanes i o.u).getD k 0
        ∃ r ∈ (t.cluster (homeOf (pa l))).queue, r.id = s.ids + k ∧ r.pa = pa l ∧ r.ty = o.ty ∧ r.staged = true ∧
          r.kind = (match ins with | .st _ _ => .store | _ => .load) ∧
          r.src = (if o.u then .uniform i.t i.j i.seq i.on else .lane i.t i.j l i.seq)) ∧
      ∀ d a, (t.die d).view.get a = (s.die d).view.get a

/-- R152, R153, R157, R177: ST of a lane whose checks pass puts its bytes among the stores that its die has still to perform,
the lanes ascending, or, in a guarded team, into the team's share; memory itself, every register and every flag are
unchanged. R152, R172: STL writes the lanes' bytes in ascending lane order, so that the highest lane's remain; an
approximate line takes the storage width; every other byte of the larder, and everything else, is unchanged. -/
def Obligations.StoreEffects : Prop :=
  (∀ (c : Ctl) (o : OpM) (s : State) (i : Iss) (acc : Nat → Mapping × Nat), s.iss? c = some i → i.aG = [] →
     memChecks o true true i.sh.w = none → i.tm.key = i.t →
     (∀ l ∈ accessLanes i o.u, globalVerdict s i true o l = some (.inr (acc l)) ∧ i.poisoned l (memRegs o true) = false ∧
       ((acc l).1.grade = 8 → (if o.u then i.sh.u o.t else i.sh.v l o.t).tag = false)) →
     ((i.tm.guarded = none → (∀ l ∈ accessLanes i o.u, (acc l).1.grade ≠ 8 ∨ s.preciseCellar (acc l).2 = false) →
       ∃ t u, exec (.st c o) s = .next t ∧ Issued s u i [] past ∧
         OnlyCaches { u with stores := u.stores ++ (accessLanes i o.u).map fun l => storeOf i o (acc l) l } t) ∧
     (∀ g, i.tm.guarded = some g → (∀ l ∈ accessLanes i o.u, s.isStaged (acc l).2 = false) →
       g.share.length + (accessLanes i o.u).length ≤ 16384 →
       ∃ t u, exec (.st c o) s = .next t ∧ Issued s u i [] past ∧
         OnlyCaches (u.modTeam i.t fun x => { x with guarded := some { g with
           share := g.share ++ (accessLanes i o.u).map fun l =>
             { pa := (storeOf i o (acc l) l).2.pa, bytes := (storeOf i o (acc l) l).2.bytes, width := o.ty.width,
               grade := (acc l).1.grade, sheaf := i.t * 16 + i.j, lanes := maskOf (accessFor i o.u l),
               tag := (if o.u then i.sh.u o.t else i.sh.v l o.t).tag } } }) t))) ∧
  (∀ (c : Ctl) (o : OpM) (s : State) (i : Iss), s.iss? c = some i → i.aG = [] → memChecks o true true i.sh.w = none →
     i.tm.guarded = none → 8 ≤ o.ty.width →
     let n := o.ty.width / 8
     let a (l : Nat) := i.memAddr o l
     let v (l : Nat) : Val := if o.u then i.sh.u o.t else i.sh.v l o.t
     (∀ l ∈ accessLanes i o.u, i.addrTag o.base o.index l = false ∧ i.poisoned l (memRegs o true) = false ∧
       a l % n = 0 ∧ a l < i.tm.larderSize ∧ (i.tm.larderGrade (a l) = 8 → (v l).tag = false)) →
     ∃ t u larder width, exec (.stl c o) s = .next t ∧ Issued s u i [] past ∧
       t = u.modTeam i.t (fun x => { x with larder := larder, larderW := width }) ∧
       (∀ b, larder.val b 0 =
         match ((accessLanes i o.u).filter fun l => a l ≤ b && b < a l + n).getLast? with
         | some l => BitVec.ofNat 8 ((v l).bits.toNat / 256 ^ (b - a l))
         | none => i.tm.larderByte b) ∧
       ∀ b, width.val (lineOf b) 32 =
         if ∃ l ∈ accessLanes i o.u, lineOf (a l) = lineOf b ∧ i.tm.larderGrade (a l) ≠ 8 then o.ty.width
         else i.tm.larderW.val (lineOf b) 32)

/-- R153, R154, R149: each lane of LD or ST passes the rows in their order; the first that fails names it, a lane that misses
translation parks with WHY 5; both keep their PCs and perform nothing: no store, no request, no load and no result of theirs
appears. A uniform access is judged once, by its first lane, for every lane whose guard is true. A lane of a vector ST whose
guard is tagged A is judged at rows 2 to 5 even where its guard is false, and writes nothing then. An uncorrectable error of a
line that is no precise cellar line is row 7 of a load; that of a precise cellar line its home finds (R271). -/
def Obligations.AccessCheckOrder : Prop :=
  ∀ (c : Ctl) (o : OpM) (s : State) (i : Iss), s.iss? c = some i →
    memChecks o true true i.sh.w = none → i.sh.strands.length = 32 →
    (∀ g, i.tm.guarded = some g → i.sh.cleared = true ∧ g.share.length + 32 ≤ 16384) →
    (∀ l ∈ i.on, i.poisoned l (memRegs o true) = false) →
    let guardTag (l : Nat) : Prop := if o.u then i.aG ≠ [] else l ∈ i.aG
    let load (l : Nat) : Option Nat ⊕ Unit := match globalVerdict s i false o l with
      | none => .inr ()
      | some (.inl k) => .inl (some k)
      | some (.inr x) => .inl (if s.preciseCellar x.2 = false ∧ s.poisonAt x.2 (o.ty.width / 8) then some 0xC01 else none)
    let store (l : Nat) : Option Nat ⊕ Unit := match (if l ∈ i.on then globalVerdict s i true o l else pageVerdict s i true o l) with
      | none => .inr ()
      | some (.inl k) => .inl (some k)
      | some (.inr x) => .inl (if x.1.grade = 8 ∧ guardTag l then some 0x404
          else if l ∈ i.on ∧ x.1.grade = 8 ∧ (if o.u then i.sh.u o.t else i.sh.v l o.t).tag then some 0x405 else none)
    ∀ (ins : Instr) (verdict : Nat → Option Nat ⊕ Unit) (judged : List Nat),
      (ins, verdict, judged) = (.ld c o, load, i.on) ∨
        (ins, verdict, judged) = (.st c o, store, if o.u then i.on else i.batch.filter fun l => i.on.contains l || i.aG.contains l) →
      ∃ t, exec ins s = .next t ∧ SameBytes s t ∧ ∀ l ∈ judged,
        let st := (t.sheafAt i.t i.j).strand l
        let r := resultLane i o.u l
        let nothing : Prop :=
          (∃ new, t.stores = s.stores ++ new ∧ ∀ x ∈ new, x.2.lanes.getLsbD l = false) ∧
          (∃ new, t.loads = s.loads ++ new ∧ ∀ x ∈ new, x.lanes.getLsbD l = false) ∧
          (∃ new, (t.sheafAt i.t i.j).pend = i.sh.pend ++ new ∧ ∀ q ∈ new, ∀ w ∈ q.writes, w.lane ≠ some l ∧
            (o.u = true → ∀ k m b g, w ≠ Wr.u k m b g)) ∧
          (∀ k, ∃ new, (t.cluster k).queue = (s.cluster k).queue ++ new ∧ ∀ q ∈ new, q.lanes.getLsbD l = false) ∧
          t.sending = s.sending ∧
          ∀ g, i.tm.guarded = some g → ∃ new, ((t.team? i.t).bind fun x => x.guarded).map (fun x => x.share) = some (g.share ++ new) ∧
            ∀ e ∈ new, e.lanes.getLsbD l = false
        match verdict r with
        | .inr _ => st.run = .parked 5 ∧ st.pc = (i.sh.strand l).pc ∧ nothing ∧
            ∃ w ∈ (t.die i.die).walks, w.vdev = i.tm.vdev ∧ w.page = i.memAddr o r / 65536 ∧ (i.t, i.j, l) ∈ w.lanes
        | .inl (some k) => st.pc = (i.sh.strand l).pc ∧ nothing ∧
            ∃ q ∈ (t.sheafAt i.t i.j).traps, q.iss = i.seq ∧ (l, k, i.memAddr o r) ∈ q.causes
        | .inl none => st.pc = (i.sh.strand l).pc + 8

/-- R155, R159: PREF brings the lines of lanes that pass into the cellar cache and changes no more; each FENCE puts a mark behind
the outstanding stores of every lane whose guard is true, which holds the lane's later accesses as its side says, within its
scope, at .package and .system asking for global visibility on the release side; an acquire at .system merges what its strands'
answers have covered into their die's flows (R373). No mark passes while an atomic, a load or a
sequencer entry issued before it waits, none of a release side before an earlier store of its strand that is not performed
within its scope, and no later store of the strand before a mark. R157, R324, R326: a write that its die performs gives that
die's view its bytes and no others, on no other die, and joins the writes to be stamped; a store waits for the earlier
overlapping ones of its strand (R156). R159, R160: a store that is performed within a scope narrower than its die changes
nothing but who sees it: the strands of that scope. R151, R157: a load that is performed after its issue gives its result what
its strand sees then, without the strand's later stores. What an acquire counts as seen, and that a load's value and a store's
performance for a scope fall where the agenda puts them, is the model's choice (log entry 13). -/
def Obligations.FencesAndStorePerformance : Prop :=
  ((∀ (c : Ctl) (o : OpM) (s : State) (i : Iss), s.iss? c = some i → memChecks o false false i.sh.w = none →
     (∀ l ∈ i.on, i.addrTag o.base o.index l = false) →
     ∃ t u, exec (.pref c o) s = .next t ∧ Issued s u i [] past ∧ OnlyCaches u t ∧
       ∀ l ∈ i.on, ∀ m pa, s.access i.core i.tm.vdev none true false false 1 (i.memAddr o l) = .ok m pa →
         s.poisonAt (lineOf pa) 128 = false → (t.die i.die).cache.has (lineOf pa) = true) ∧
   (∀ (c : Ctl) (o : OpS) (s : State) (i : Iss), s.iss? c = some i →
     (i.tm.guarded = none ∨ o.scope.code ≤ 2 ∨ i.sh.cleared = true) →
     ∀ (ins : Instr) (acq rel : Bool), (ins, acq, rel) = (.fenceAcq c o, true, false) ∨
       (ins, acq, rel) = (.fenceRel c o, false, true) ∨ (ins, acq, rel) = (.fenceFull c o, true, true) →
     let marks : List (Nat × Write) := i.on.map fun l =>
       (i.die, { sheaf := i.t * 16 + i.j, lanes := laneBit l, iss := i.seq + 1, core := i.tm.core, acq := acq, rel := rel,
                 scope := min 5 o.scope.code, no := (i.sh.strand l).acq,
                 pub := rel && decide (o.scope = .package ∨ o.scope = .system), sys := rel && decide (o.scope = .system) })
     ∃ t u, exec ins s = .next t ∧ Issued s u i [] past ∧ t = { u with stores := u.stores ++ marks, dies := t.dies } ∧
       (¬ (acq = true ∧ o.scope = .system) → t.dies = u.dies) ∧
       (∀ d, t.die d = { s.die d with covers := (t.die d).covers } ∧ (d ≠ i.die → t.die d = s.die d)) ∧
       (acq = true → o.scope = .system → ∀ l ∈ i.on, ∀ e ∈ (i.sh.strand l).covers,
         clockLe e.2 ((t.die i.die).covers.val e.1 []) = true))) ∧
  ((∀ (s : State) (d : Nat) (w : Write), w.zeros = 0 →
     (∀ a, ((s.perform d w).die d).view.get a =
       if w.pa ≤ a ∧ a < w.pa + w.bytes.length then w.bytes.getD (a - w.pa) 0 else (s.die d).view.get a) ∧
     (∀ e, e ≠ d → ∀ a, ((s.perform d w).die e).view.get a = (s.die e).view.get a) ∧
     ((s.perform d w).die d).unstamped = (s.die d).unstamped ++ [{ w with no := (s.die d).performed }] ∧
     ((s.perform d w).die d).performed = (s.die d).performed + 1) ∧
   (∀ (s : State) (n m : Nat) (x y : Nat × Write), m < n → s.stores[n]? = some x → s.stores[m]? = some y →
     y.2.sheaf = x.2.sheaf → y.2.lanes &&& x.2.lanes ≠ 0 →
     (y.2.pa < x.2.pa + x.2.size ∧ x.2.pa < y.2.pa + y.2.size) ∨ (y.2.isMark = true ∧ x.2.isMark = false) ∨
       (y.2.isMark = false ∧ x.2.isMark = true ∧ x.2.rel = true ∧ y.2.vis < x.2.scope) → s.performNth n = s) ∧
   (∀ (s : State) (n : Nat) (x : Nat × Write), s.stores[n]? = some x → x.2.isMark = true →
     s.atomicsOf x.2.sheaf x.2.lanes x.2.iss ≠ [] ∨ s.loadsOf x.2.sheaf x.2.lanes x.2.iss ≠ [] ∨
       s.entriesOf x.2.sheaf x.2.iss ≠ [] → s.performNth n = s)) ∧
  ((∀ (s : State) (n sc : Nat), s.revealNth n sc = s ∨ ∃ x, s.stores[n]? = some x ∧ x.2.isMark = false ∧ x.2.vis < sc ∧ sc ≤ 4 ∧
     s.revealNth n sc = { s with stores := s.stores.set n (x.1, { x.2 with vis := sc }) }) ∧
   (∀ (s : State) (tm : Team) (j : Nat) (m : Lanes) (x : Nat × Write), x ∈ s.stores →
     (1 ≤ x.2.vis ∧ x.2.sheaf = tm.key * 16 + j) ∨ (2 ≤ x.2.vis ∧ j < 16 ∧ x.2.sheaf / 16 = tm.key) ∨
       (3 ≤ x.2.vis ∧ x.2.core = tm.core) ∨ (4 ≤ x.2.vis ∧ x.2.core / 8 = tm.core / 8) → x.2 ∈ s.ownWrites tm j m) ∧
   (∀ (s : State) (n : Nat) (x : Load) (tm : Team), s.loads[n]? = some x → s.team? x.t = some tm → x.j < tm.sheaves.length →
     let seen := (s.ownWrites tm x.j x.lanes).filter fun w =>
       ! (w.sheaf == x.t * 16 + x.j && w.lanes &&& x.lanes != 0 && decide (x.seq < w.iss))
     ∃ v, LoadedAs x.ty v (s.byteAt x.die seen) x.grade (s.widthAt x.die seen x.pa) x.pa ∧
       (∃ f, s.readNth n = { s with loads := s.loads.eraseIdx n }.modSheaf x.t x.j f) ∧
       ((s.readNth n).sheafAt x.t x.j).strands = (tm.sheaf x.j).strands ∧
       ((s.readNth n).sheafAt x.t x.j).vreg = (tm.sheaf x.j).vreg ∧
       ((s.readNth n).sheafAt x.t x.j).pend = (tm.sheaf x.j).pend.map fun p => if p.seq = x.seq then
         { p with waits := p.waits - 1, writes := p.writes ++ x.writes.map fun w => w.withBits v } else p))

/-! ### The core -/

/-- R94, R166, R167: ROLE with its guard false everywhere does nothing; with all 32 lanes at DEPTH, BASE and FLOOR 0 it takes
the role at once when its units lie within the reservation, or when no request waits and the free pool holds them: entries
below both allotments are kept, every other is zero and precise; a paired team's shadow takes the role with its sheaf (R180),
and units that this frees go to the requests that wait (`serveBorrow`). Else the lanes park at the ROLE with WHY 3 and the request
queues; the deadlock test of R169 follows. R168, R169: the head request of a core's queue is granted when the free pool
holds its units, and none before it; when every sheaf of a team that is not finished waits to grow, each takes role-deadlock
in every lane and the team's requests leave. -/
def Obligations.RoleResults : Prop :=
  (∀ (c : Ctl) (o : OpS) (s : State) (i : Iss), s.iss? c = some i →
     (guardNowhere i →
       ∃ t, exec (.role c o) s = .next t ∧ Issued s t i [] past) ∧
     (∀ r, o.sel ≤ 7 → i.tm.st.role? o.sel = some r → i.on.length = 32 → i.sh.strands.length = 32 →
       (∀ l ∈ i.batch, (i.sh.strand l).depth = 0 ∧ (i.sh.strand l).base = 0 ∧ (i.sh.strand l).floor = 0) →
       let g := i.tm.copies * ((r.regs - i.sh.allot) / 8)
       let own := i.tm.reservation - i.tm.held
       let atOnce := g ≤ own ∨ (s.core i.core).borrow = [] ∧ g - own ≤ s.freePool i.core
       let entry : Pc := BitVec.ofNat 48 (i.tm.code + r.entry)
       (atOnce → ∃ t v p, exec (.role c o) s = .next ((t.modTeam i.t fun x =>
           { x with guarded := x.guarded.map fun g => { g with
               shadows := g.shadows.modify i.j fun d => { d with sheaf := d.sheaf.setRole r entry } } }).serveBorrow i.core) ∧
         IssuedAs s t i (fun sh => { sh with
             vreg := v, poison := p, allot := r.regs, role := r.k, cls := r.cls, entry := entry })
           (fun _ st => { st with pc := st.pc + 8, run := .active, park := .nothing }) ∧
         ∀ l e, e < 2048 → v.val (l * 2048 + e) {} = if e < min i.sh.allot r.regs then i.sh.entryVal l e else {}) ∧
       (¬ atOnce → ∃ u, IssuedAs s u i id (fun _ st => { st with run := .parked 3, park := .growth }) ∧
         exec (.role c o) s = .next ((u.modCore i.core fun q =>
           { q with borrow := q.borrow ++ [(i.t, i.j, o.sel)] }).roleDeadlock i.t)))) ∧
  ((∀ (core t j k : Nat) (rest : List (Nat × Nat × Nat)) (tm : Team) (r : RoleRow) (s : State),
     (s.core core).borrow = (t, j, k) :: rest → s.team? t = some tm → tm.st.role? k = some r → j < tm.sheaves.length →
     (s.freePool core < tm.toBorrow j r → exec (.roleGrant core) s = .next s) ∧
     (tm.toBorrow j r ≤ s.freePool core → ∃ u, exec (.roleGrant core) s = .next u ∧ (u.core core).borrow = rest ∧
       (u.sheafAt t j).allot = r.regs ∧ (u.sheafAt t j).role = r.k ∧ (u.sheafAt t j).cls = r.cls ∧
       (∀ l < 32, l < (tm.sheaf j).strands.length → (u.sheafAt t j).strand l =
         { (tm.sheaf j).strand l with pc := ((tm.sheaf j).strand l).pc + 8, run := .active, park := .nothing }) ∧
       ∀ x, x ≠ j → u.sheafAt t x = s.sheafAt t x)) ∧
   (∀ (t : Nat) (tm : Team) (s : State), s.team? t = some tm → (∃ sh ∈ tm.sheaves, sh.finished = false) →
     (∀ sh ∈ tm.sheaves, sh.finished = false → ∀ l < 32, (sh.strand l).run = .parked 3) →
     let u := s.roleDeadlock t
     (∀ b ∈ (u.core tm.core).borrow, b.1 ≠ t) ∧
     ∀ j < tm.sheaves.length, u.sheafAt t j = if (tm.sheaf j).finished then tm.sheaf j
       else (tm.sheaf j).raise (tm.sheaf j).iss 0 ((List.range 32).map fun l => (l, 0x50A, 0))))

/-- R170: BAR, and BARX with a mask of sixteen bits that includes its sheaf, park the lanes with WHY 2; another guard, or
another mask, is refused in every lane. The completion test follows (`settled`). R170, R171: a barrier completes when every
sheaf it joins has arrived, a finished sheaf counting as arrived: the lanes parked there become active at PC + 8 and acquire, and
those sheaves' earlier stores are performed for the strands of their team; else nothing changes. -/
def Obligations.BarrierResults : Prop :=
  (∀ (c : Ctl) (o : OpS) (s : State) (i : Iss), s.iss? c = some i →
     let plain := c.gn = false ∧ c.gp = 15
     let mask := (i.sh.u o.b.idx).bits.toNat
     let refused (ins : Instr) : Prop := ∃ t, exec ins s = .next t ∧
       IssuedAs s t i (fun sh => sh.raise i.seq 0 (i.batch.map fun l => (l, 0x108, 0))) stay
     (plain → ∃ u, exec (.bar c o) s = .next (u.settled i.t) ∧
       Issued s u i [] fun _ st => { st with run := .parked 2, park := .barrier none }) ∧
     (plain → o.b.uni = true → mask < 65536 → mask.testBit i.j → ∃ u, exec (.barx c o) s = .next (u.settled i.t) ∧
       Issued s u i [] fun _ st => { st with run := .parked 2, park := .barrier (some mask) }) ∧
     (¬ plain → refused (.bar c o) ∧ refused (.barx c o)) ∧
     (65536 ≤ mask ∨ mask.testBit i.j = false → refused (.barx c o))) ∧
  (∀ (s : State) (t : Nat) (m : Option Nat) (tm : Team), s.team? t = some tm → tm.guarded = none →
     (∀ sh ∈ tm.sheaves, sh.strands.length = 32) →
     let joined (j : Nat) : Prop := j < tm.sheaves.length ∧ (∀ k, m = some k → k.testBit j = true)
     let arrived (j : Nat) : Prop := (tm.sheaf j).finished = true ∨
       (∃ l < 32, ((tm.sheaf j).strand l).run ≠ .vacant) ∧ ∀ l < 32, ((tm.sheaf j).strand l).run ≠ .vacant →
         ((tm.sheaf j).strand l).run = .parked 2 ∧ ((tm.sheaf j).strand l).park = .barrier m
     let complete := (∀ j, joined j → arrived j) ∧ ∃ j, joined j ∧ (tm.sheaf j).finished = false
     let u := s.completeBarrier t m
     (complete →
       (∀ j l, joined j → (u.sheafAt t j).strand l =
         let st := (tm.sheaf j).strand l
         if l < 32 ∧ st.run ≠ .vacant ∧ st.park = .barrier m then
           { st with pc := st.pc + 8, run := .active, park := .nothing, acq := (u.die tm.die).performed }
         else { st with acq := ((u.sheafAt t j).strand l).acq }) ∧
       (∀ j, ¬ joined j → u.sheafAt t j = { s.sheafAt t j with strands := (u.sheafAt t j).strands } ∧
         ∀ l, (u.sheafAt t j).strand l = { (s.sheafAt t j).strand l with acq := ((u.sheafAt t j).strand l).acq }) ∧
       ∀ x ∈ u.stores, x.2.isMark = false → x.2.lanes ≠ 0 → x.2.sheaf / 16 = t → joined (x.2.sheaf % 16) → 2 ≤ x.2.vis) ∧
     (¬ complete → u = s))

/-- R184, R185, R257: SREAD and PREAD write the register's value, precise, with variable latency. R251, R252, R248: PLEVEL
registers the highest level asked for unless the precise floor denies it, SETGRADE the most precise grade unless the
approximate floor denies it, one toward a more precise grade than the effective one only when the rail has reached it (at
once where it stands there already); the predicate tells. A request outside its range, tagged A, or under a guard tagged A is
refused in every lane. That the uniform form of SREAD item gives the item of the first lane whose guard is true is the model's
choice (log entry 48). -/
def Obligations.StatusReadsAndRequests : Prop :=
  (∀ (c : Ctl) (o : OpS) (s : State) (i : Iss), s.iss? c = some i → (128 ≤ o.sel ∨ o.d < i.sh.w) →
     let u : Bool := 128 ≤ o.sel
     let pid : Bool := o.sel / 32 % 2 = 1
     let reg := o.sel % 32
     (o.sel / 64 % 2 = 0 → (pid = true → 1 ≤ reg ∧ reg ≤ 4 ∧ i.tm.priv = true) →
       (reg ≤ 7 ∨ reg = 10 ∨ reg = 11) → (u = true → reg ≠ 0) → (i.tm.st.phased = true → reg ≠ 7) → o.sel < 256 →
       ∃ val : Nat → Word, CompletesColumn (.sread c o) s i u o.d none val (fun _ => false) (fun _ => 0) ∧
         ∀ l, (if u then i.on ≠ [] else l ∈ i.on) →
           let r := resultLane i u l
           val l = BitVec.ofNat 64 (match reg with
             | 0 => l
             | 1 => if pid then i.tm.pid else i.tm.lid
             | 2 => if pid then i.sh.slot else i.j
             | 3 => if pid then i.tm.core else if i.tm.st.phased then i.tm.lid else s.lidCore i.tm.part i.tm.core
             | 4 => if pid then i.tm.core / 96 else if i.tm.st.phased then 0 else s.lidDie i.tm.part (i.tm.core / 96)
             | 5 => i.tm.phase
             | 6 => (i.sh.strand r).item.toNat
             | 7 => s.time
             | 10 => i.tm.grade
             | _ => i.tm.level)) ∧
     (o.sel / 32 % 4 = 0 → (reg = 8 ∨ reg = 9) → i.tm.st.phased = false → o.sel < 256 →
       CompletesColumn (.pread c o) s i u o.d none
         (fun _ => if reg = 8 then (s.cluster (i.tm.core / 8)).permits else (s.cluster (i.tm.core / 8)).stallw)
         (fun _ => false) (fun _ => 0)) ∧
     (i.tm.st.phased = true → i.on ≠ [] → (o.sel = 8 ∨ o.sel = 9 → ∃ t, exec (.pread c o) s = .next t ∧
       ∀ l ∈ i.on, ∃ r ∈ (t.sheafAt i.t i.j).traps, r.iss = i.seq ∧ (l, 0xB01, 0) ∈ r.causes) ∧
       (o.sel = 7 → ∃ t, exec (.sread c o) s = .next t ∧
         ∀ l ∈ i.on, ∃ r ∈ (t.sheafAt i.t i.j).traps, r.iss = i.seq ∧ (l, 0xB01, 0) ∈ r.causes))) ∧
  (∀ (c : Ctl) (o : OpS) (s : State) (i : Iss), s.iss? c = some i → (o.sel < 128 → o.b.uni = false → o.b.idx < i.sh.w) →
     (o.sel < 128 → o.b.uni = false → ∀ l ∈ i.on, i.poisoned l [o.b.idx] = false) →
     let ask (l : Nat) : Val :=
       if 128 ≤ o.sel then { bits := BitVec.ofNat 64 (o.sel % 16) } else if o.b.uni then i.sh.u o.b.idx else i.sh.v l o.b.idx
     let good (top : Nat) := ∀ l ∈ i.on, (ask l).bits.toNat ≤ top ∧ (ask l).tag = false ∧ l ∉ i.aG
     let volts (l : List Nat) (k : Nat) : Nat := l.getD k 0
     let answer (t : State) (ok : Bool) (wait : Bool) : Prop := ∃ ws, WritesPredicate i o.d (fun _ => ok) (fun _ => false) ws ∧
       (t.sheafAt i.t i.j).pend = i.sh.pend ++ [{ seq := i.seq, ready := !wait, writes := ws }] ∧
       (∀ l ∈ i.batch, ((t.sheafAt i.t i.j).strand l).pc = (i.sh.strand l).pc + 8) ∧
       t.stores = s.stores ∧ t.dies = s.dies
     (i.on = [] → (∃ t, exec (.plevel c o) s = .next t ∧ Issued s t i [] past) ∧
       ∃ t, exec (.setgrade c o) s = .next t ∧ Issued s t i [] past) ∧
     (i.on ≠ [] → good 6 →
       let r := (i.on.map fun l => (ask l).bits.toNat).foldl max 0
       let ok : Bool := (s.cluster i.cluster).pfloor ≤ volts [300, 310, 320, 335, 350, 385, 420] r
       ∃ t, exec (.plevel c o) s = .next t ∧ answer t ok false ∧
         (t.team? i.t).map (fun x => x.level) = some (if ok then r else i.tm.level)) ∧
     (i.on ≠ [] → good 8 →
       let r := (i.on.map fun l => (ask l).bits.toNat).foldl min 8
       let ok : Bool := r = 8 ∨ (s.cluster i.cluster).afloor ≤ volts [350, 330, 310, 290, 270, 250, 235, 220] r
       let wait : Bool := ok ∧ r < s.effectiveGrade i.cluster ∧ (s.cluster i.cluster).serves s.time r = false
       ∃ t, exec (.setgrade c o) s = .next t ∧ answer t ok wait ∧
         (t.team? i.t).map (fun x => (x.grade, x.gradeReq)) = some (if ok ∧ ¬ wait then r else i.tm.grade,
           if wait then i.tm.gradeReq ++ [(r, i.j, i.seq)] else i.tm.gradeReq)) ∧
     (¬ good 6 → ∃ t, exec (.plevel c o) s = .next t ∧
       IssuedAs s t i (fun sh => sh.raise i.seq 0 (i.batch.map fun l => (l, 0x108, 0))) stay) ∧
     (¬ good 8 → ∃ t, exec (.setgrade c o) s = .next t ∧
       IssuedAs s t i (fun sh => sh.raise i.seq 0 (i.batch.map fun l => (l, 0x108, 0))) stay))

/-- R61, R62: a core's cycle writes every fixed-latency result that is due, the later-issued last, and leaves the others
outstanding; a returned variable-latency result writes its lanes. When either latency is variable an earlier-issued result still
outstanding loses what was written (`Wr.without`): written late, it leaves the same registers, predicates and flags as if it had come
first. R174, R178, R176: aging makes the lowest-slot sheaf ready for 4,096 cycles the port's next; a forced commit performs the share,
checkpoints the team and clears its held instructions to issue, once every sheaf stands, the sequencer's queue is empty and a paired
team's shadows have caught up and agree. R179, R182: a rollback restores the checkpoint: sheaves with nothing outstanding, the matrix
array, and the larder lines written since; the share is discarded, and a lane that was parked elsewhere than at a barrier stands at its
instruction; a paired mismatch is counted in its sheaves and logged, and rolls the team back. That a rollback restores an
allotment even where its units are in use elsewhere since is the model's choice (log entry 49). -/
def Obligations.TimingAndAging : Prop :=
  ((∀ (sh : Sheaf) (n : Nat),
     let due (p : Pending) : Bool := match p.due with | some d => d ≤ n | none => false
     let ws := (sh.pend.filter due).flatMap fun p => p.writes
     let out := sh.commitDue n
     out.vreg = (ws.foldl Sheaf.apply sh).vreg ∧ out.ureg = (ws.foldl Sheaf.apply sh).ureg ∧
       out.strands = (ws.foldl Sheaf.apply sh).strands ∧
       out.pend = (sh.pend.filter fun p => !due p).map fun p => if p.due = none then
         { p with writes := p.writes.map fun w =>
             (((sh.pend.filter due).filter fun x => decide (p.seq < x.seq)).flatMap fun x => x.writes).foldl Wr.without w } else p) ∧
   (∀ (s : State) (t j q : Nat) (lanes : Lanes) (tm : Team) (p : Pending), s.team? t = some tm → j < tm.sheaves.length →
     (tm.sheaf j).pend.find? (fun x => x.seq == q && x.due.isNone && x.ready && x.waits == 0) = some p → p.slotOf = 0 →
     let ws := p.writes.filter fun w => match w.lane with | some l => lanes.getLsbD l | none => true
     ∃ u, exec (.resultReturn t j q lanes) s = .next u ∧ (∃ f, u = s.modSheaf t j f) ∧
       (u.sheafAt t j).vreg = (ws.foldl Sheaf.apply (tm.sheaf j)).vreg ∧
       (u.sheafAt t j).ureg = (ws.foldl Sheaf.apply (tm.sheaf j)).ureg ∧
       (u.sheafAt t j).strands = (ws.foldl Sheaf.apply (tm.sheaf j)).strands ∧
       (u.sheafAt t j).masks = (tm.sheaf j).masks ∧
       let rest := p.writes.filter fun w => !(match w.lane with | some l => lanes.getLsbD l | none => true)
       (u.sheafAt t j).pend = ((tm.sheaf j).pend.filter fun x => !(x.seq == q && rest.isEmpty)).map fun x =>
         if x.seq = q then { x with writes := rest, slotOf := x.slotOf &&& ~~~lanes }
         else if x.seq < q then { x with writes := x.writes.map fun w => ws.foldl Wr.without w } else x) ∧
   (∀ (sh : Sheaf) (w r : Wr), (∀ l e m b t, w = .v l e m b t ∨ r = .v l e m b t → e < 2048) →
     let late := (sh.apply r).apply (w.without r)
     let first := (sh.apply w).apply r
     (∀ l e, e < 2048 → late.entryVal l e = first.entryVal l e) ∧ (∀ k, late.u k = first.u k) ∧
       ∀ l, late.strand l = first.strand l) ∧
   (∀ (sh : Sheaf) (l e : Nat) (m b : Word) (t : Option Bool) (k f : Nat), e < 2048 → f < 2048 →
     let out := sh.apply (.v l e m b t)
     out.entryVal k f = if k = l ∧ f = e then
         { bits := ((sh.entryVal l e).bits &&& ~~~m) ||| (b &&& m), tag := t.getD (sh.entryVal l e).tag }
       else sh.entryVal k f)) ∧
  ((∀ (s : State) (core : Nat) (mem : Bool) (t : Nat) (tm : Team) (j : Nat), (t, tm) ∈ s.teams → tm.key = t → tm.core = core →
     j < tm.sheaves.length → 4096 ≤ (if mem then (tm.sheaf j).readyM else (tm.sheaf j).readyV) →
     (∀ e ∈ s.teams, e.2.core = core → ∀ k < e.2.sheaves.length, (e.2.key, k) ≠ (t, j) →
       4096 ≤ (if mem then (e.2.sheaf k).readyM else (e.2.sheaf k).readyV) → (tm.sheaf j).slot < (e.2.sheaf k).slot) →
     exec (.issueAging core mem) s = .next (s.modCore core fun q =>
       if mem then { q with agedM := some (t, j) } else { q with agedV := some (t, j) })) ∧
   (∀ (s : State) (t : Nat) (tm : Team) (g : Guarded), s.team? t = some tm → tm.key = t → tm.guarded = some g →
     g.backed = true → g.mismatch = none → g.committing = false → s.shareOut t = false → tm.preempt = .none →
     tm.mayCommit = true → (tm.st.mode = 2 → tm.differing g = []) → (∃ sh ∈ tm.sheaves, sh.hold = .commit) →
     (∀ e ∈ g.share, isFabric e.pa = false ∧ s.isStaged e.pa = false) →
     let rests (st : Strand) : Prop := st.run = .vacant ∨ isWaiting st.run = true ∨ isParked st.run = true ∧
       ((∃ m, st.park = .barrier m) ∨ (∃ a b, st.park = .job a b) ∨ ∃ a b, st.park = .page a b)
     (∀ sh ∈ tm.sheaves, sh.traps = [] ∧ sh.pend = [] ∧
       (sh.hold = .commit ∧ (∀ l < 32, isParked (sh.strand l).run = true → rests (sh.strand l)) ∨
         sh.hold = .none ∧ ∀ l < 32, rests (sh.strand l))) →
     ∃ u tm' g', exec (.forcedCommit t) s = .next u ∧ u.team? t = some tm' ∧ tm'.guarded = some g' ∧
       (∀ j < tm.sheaves.length, tm'.sheaf j = { tm.sheaf j with
         hold := .none
         cleared := (tm.sheaf j).hold = .commit ∨ (tm.sheaf j).cleared
         safeAt := 0
         given := (tm'.sheaf j).given
         told := (tm'.sheaf j).told }) ∧
       g'.sheaves = tm'.sheaves ∧ g'.matrix = tm.matrix ∧ g'.undo = [] ∧ g'.share = [] ∧ g'.rollbacks = 0 ∧ g'.mismatch = none ∧
       g'.committing = false ∧
       (∀ j d, g.shadows[j]? = some d → j < tm.sheaves.length → ∃ d', g'.shadows[j]? = some d' ∧
         d'.sheaf = d.caughtUp (tm.sheaf j) ∧ d'.last = (tm.sheaf j).strands ∧ d'.stores = []) ∧
       ∀ d a, (u.die d).view.get a = if d = tm.die then overlay tm.shareWrites a ((s.die d).view.get a) else (s.die d).view.get a)) ∧
  (∀ (s : State) (t : Nat) (tm : Team) (g : Guarded), s.team? t = some tm → tm.guarded = some g → g.backed = true →
     let back (u : State) (count : Nat → Nat) : Prop := ∃ tm' g', u.team? t = some tm' ∧ tm'.guarded = some g' ∧
       g'.rollbacks = g.rollbacks + 1 ∧ g'.undo = [] ∧ g'.share = [] ∧ g'.mismatch = none ∧ g'.sheaves = g.sheaves ∧
       tm'.matrix = { g.matrix with nextId := tm.matrix.nextId } ∧
       (∀ a, tm'.larderByte a = match g.undo.reverse.find? fun e => decide (e.1 ≤ a) && decide (a < e.1 + e.2.1.length) with
         | some e => e.2.1.getD (a - e.1) 0
         | none => tm.larderByte a) ∧
       ∀ j < tm.sheaves.length, ∀ cp, g.sheaves[j]? = some cp → let sh := tm'.sheaf j
         sh.vreg = cp.vreg ∧ sh.ureg = cp.ureg ∧ sh.masks = cp.masks ∧ sh.allot = cp.allot ∧ sh.role = cp.role ∧ sh.cls = cp.cls ∧
         sh.entry = cp.entry ∧ sh.tmode = cp.tmode ∧ sh.hmask = cp.hmask ∧ sh.finished = cp.finished ∧
         sh.pend = [] ∧ sh.traps = [] ∧ sh.hold = .none ∧ sh.cleared = false ∧ sh.iss = (tm.sheaf j).iss ∧
         sh.mismatches = (tm.sheaf j).mismatches + count j ∧
         ∀ l, sh.strand l = match (cp.strand l).run with
           | .parked why => if why = 2 then cp.strand l else { cp.strand l with run := .active, park := .nothing }
           | _ => cp.strand l
     g.rollbacks < 4 → back (s.rollbackTeam t) (fun _ => 0) ∧
       ∀ js, back (s.mismatch t js) (fun j => js.count j) ∧ Logged s (s.mismatch t js) tm.die 0x0309)

/-! ### The matrix array -/

/-- R200 and R243: the checks of a matrix instruction pass. The team is the matrix team, with bin z among its bins; the uniform
registers that the instruction reads carry no A tag; its descriptor keeps R198's limits; its bytes lie, aligned, in the attic
region or the larder; and its latch's issued format and its bin's issued tag admit it. -/
structure MatrixReady (s : State) (i : Iss) (op : SeqOp) (o : OpQ) : Prop where
  bins : o.z < i.tm.st.bins
  addrTag : op ≠ .wswp → op ≠ .zclr → (i.sh.u o.sA).tag = false
  descTag : op ≠ .wswp → op ≠ .zclr → op ≠ .wld → (i.sh.u o.sN).tag = false
  descriptor : op ≠ .wswp → op ≠ .zclr → op ≠ .wld → descBad (i.sh.u o.sN).bits (i.entry op o).recSize = false ∧
    (op = .chain ∨ (i.sh.u o.sN).bits.toNat < 2 ^ 32) ∧ ((i.entry op o).pair = true → o.ty = .f32 ∧ o.rnd = .rne)
  tile : op = .wld → if o.x % 2 = 0 then
      (i.sh.u o.sA).bits.toNat % 8192 = 0 ∧ (i.sh.u o.sA).bits.toNat + 8192 * planesOf o.ty ≤ s.atticSize i.tm
    else (i.sh.u o.sA).bits.toNat % 128 = 0 ∧ (i.sh.u o.sA).bits.toNat + 8192 * planesOf o.ty ≤ i.tm.larderSize
  rows : op = .mma ∨ op = .zrd ∨ op = .zwr ∨ op = .rdc ∨ op = .scan ∨ op = .chain ∧ (i.sh.u o.sN).bits.toNat / 2 ^ 40 % 8 = 0 →
    (i.sh.u o.sA).bits.toNat % 128 = 0 ∧
    (i.sh.u o.sA).bits.toNat + rowsSpan (i.sh.u o.sN).bits (i.entry op o).recSize ≤ i.tm.larderSize
  format : op = .mma ∨ op = .chain → (i.tm.matrix.issuedOf o.latch).1 = latchFmt o.ty ∧ latchFmt o.ty ≠ 0
  approximate : op = .zrd → (i.tm.matrix.issuedBinTag.getLsbD o.z = true ∨ i.aG ≠ []) →
    i.tm.rowsPrecise (i.sh.u o.sA).bits.toNat (i.sh.u o.sN).bits (i.entry op o).recSize = false
  chain : op = .chain → let d := (i.sh.u o.sN).bits.toNat
    2 ≤ d / 2 ^ 36 % 16 ∧ d / 2 ^ 36 % 16 ≤ 8 ∧ d / 2 ^ 40 % 8 < d / 2 ^ 36 % 16 ∧ d / 2 ^ 43 % 32 = 0 ∧ d / 2 ^ 32 % 16 = 0

/-- `ins` completes: its entry stands last in its team's queue with its operands, the issued formats and tags follow, its result is
outstanding, and its lanes go on; a CHAIN's sheaf is held (R192, R200, R243). -/
def EntersQueue (ins : Instr) (op : SeqOp) (c : Ctl) (o : OpQ) (s : State) (i : Iss) : Prop :=
  let e : SeqEntry := {
    id := i.tm.matrix.nextId, op := op, sheaf := i.j, seq := i.seq, z := o.z, latch := o.latch, ty := o.ty, rnd := o.rnd,
    x := o.x, apx := c.apx, addr := (i.sh.u o.sA).bits.toNat, desc := (i.sh.u o.sN).bits, gtag := !i.aG.isEmpty,
    grade := if i.tm.grade = 8 then 7 else i.tm.grade, jobs := i.tm.nextSeq }
  ∃ (t u : State) (m : Matrix) (p : Pending), exec ins s = .next t ∧
    IssuedAs s u i (fun sh => { sh with pend := sh.pend ++ [p], hold := if op = .chain then .chain else sh.hold })
      (if op = .chain then stay else past) ∧
    p.seq = i.seq ∧ p.due = none ∧ p.ready = false ∧
    t = u.modTeam i.t (fun x => { x with matrix := m }) ∧
    m = { i.tm.matrix with
      queue := i.tm.matrix.queue ++ [e], nextId := i.tm.matrix.nextId + 1,
      issued0 := m.issued0, issued1 := m.issued1, issuedBinTag := m.issuedBinTag } ∧
    IssuedTags i op c o m

/-- R94, R192, R200, R243: WLD, WSWP, MMA, ZCLR, ZRD, ZWR, RDC, SCAN and CHAIN complete when all 32 guards are true and their
checks pass: each takes the next place in its team's queue, with its operands as they stand; the issued format and tag of its
latch change as R200 gives, and its result is outstanding. A CHAIN's sheaf issues nothing more until it has formed. With its
guard false everywhere each does nothing. A failed check names every lane. R192, R206, R216: an entry begins when no earlier
entry of its latch or bin, or array entry before it, is unfinished; RDC and SCAN then load their constant tile; an entry that may
not begin changes nothing. -/
def Obligations.SequencerIssueAndBegin : Prop :=
  (∀ (c : Ctl) (o : OpQ) (s : State) (i : Iss), s.iss? c = some i → i.on.length = 32 →
     (MatrixReady s i .wld o → EntersQueue (.wld c o) .wld c o s i) ∧
     (MatrixReady s i .wswp o → EntersQueue (.wswp c o) .wswp c o s i) ∧
     (MatrixReady s i .mma o → EntersQueue (.mma c o) .mma c o s i) ∧
     (MatrixReady s i .zclr o → EntersQueue (.zclr c o) .zclr c o s i) ∧
     (MatrixReady s i .zrd o → EntersQueue (.zrd c o) .zrd c o s i) ∧
     (MatrixReady s i .zwr o → EntersQueue (.zwr c o) .zwr c o s i) ∧
     (MatrixReady s i .rdc o → EntersQueue (.rdc c o) .rdc c o s i) ∧
     (MatrixReady s i .scan o → EntersQueue (.scan c o) .scan c o s i) ∧
     (MatrixReady s i .chain o → EntersQueue (.chain c o) .chain c o s i)) ∧
  (∀ (ins : Instr) (op : SeqOp) (c : Ctl) (o : OpQ) (s : State) (i : Iss), matrixRow ins = some (op, c, o) → s.iss? c = some i →
     (guardNowhere i → ∃ t, exec ins s = .next t ∧ Issued s t i [] past) ∧
     (∀ x, i.on.length = 32 → i.matrixCause s op o = some x → ∃ t, exec ins s = .next t ∧
       IssuedAs s t i (fun sh => sh.raise i.seq 0 (i.batch.map fun l => (l, x.1, x.2))) stay)) ∧
  (∀ (s : State) (t id : Nat) (tm : Team) (e : SeqEntry), s.team? t = some tm → tm.matrix.entry? id = some e → e.op ≠ .chain →
     (¬ mayBegin tm e → exec (.sequencerEntryBegin t id) s = .next s) ∧
     (mayBegin tm e → ∃ m : Matrix, exec (.sequencerEntryBegin t id) s = .next (s.modTeam t fun x => { x with matrix := m }) ∧
       m = { tm.matrix with
         queue := tm.matrix.queue.map (fun q => if q.id = id then { q with started := true, base := q.step } else q)
         latch0 := m.latch0, latch1 := m.latch1 } ∧
       (e.op = .rdc ∨ e.op = .scan → e.step = 0 →
         m.latch e.latch = { fmt := latchFmt e.ty, tag := e.apx || e.gtag, kind := if e.op = .rdc then 1 else 2 } ∧
         ∀ k, k ≠ e.latch → (k = 0 ∨ k = 1) → (e.latch = 0 ∨ e.latch = 1) → m.latch k = tm.matrix.latch k) ∧
       (e.op ≠ .rdc → e.op ≠ .scan → m.latch0 = tm.matrix.latch0 ∧ m.latch1 = tm.matrix.latch1)))

/-- R202, R203, R207: WLD loads the tile image with its format and tag, WSWP exchanges the latches, ZCLR clears the bin; each
leaves the queue and its result is written. R204, R206, R194, R48: MMA, RDC and SCAN accumulate each row times the tile into their
bin rows, in ascending row order, the approximate forms with one rounding and an exposure for each block, and rows of approximate
lines as a read gives them; at an interruption point the rows up to the next multiple of 16 are done and the step index says so.
Every other bin element is unchanged; the bin's tag follows R201. That a tile, and the rows of one event, are read at one place of
a job's write pointer is the model's choice (log entry 50). -/
def Obligations.LatchAndArrayEntries : Prop :=
  (∀ (s : State) (t id : Nat) (tm : Team) (e : SeqEntry), s.team? t = some tm → tm.matrix.entry? id = some e →
     Runs s t tm e → s.entryError tm tm e e.addr e.desc e.rows = none → e.op = .wld ∨ e.op = .wswp ∨ e.op = .zclr →
     (∀ q ∈ tm.matrix.queue, q.id = id → q = e) →
     (∀ p ∈ (tm.sheaf e.sheaf).pend, p.seq = e.seq → p = { seq := e.seq, ready := false }) →
     ∃ (u : State) (tm' : Team), exec (.sequencerEntryFinish t id) s = .next (u.settled t) ∧ u.team? t = some tm' ∧
       tm'.matrix.queue = tm.matrix.queue.filter (fun q => q.id != id) ∧
       (∀ p ∈ (tm'.sheaf e.sheaf).pend, p.seq ≠ e.seq) ∧
       (∀ a, tm'.larderByte a = tm.larderByte a) ∧
       (e.op = .wld →
         let w := tm'.matrix.latch e.latch
         w.fmt = latchFmt e.ty ∧ w.kind = 0 ∧
         (e.x % 2 = 0 → w.tag = e.gtag ∧ ∀ k < 8192 * planesOf e.ty, w.tile.val k 0 = (s.atticOf tm).val (e.addr + k) 0) ∧
         (e.x % 2 = 1 → e.addr % 128 = 0 → tm.st.larderA % 128 = 0 → w.tag = (decide (e.addr < tm.st.larderA) || e.gtag) ∧
           ∃ get : Nat → Byte, LarderReads tm e.addr (8192 * planesOf e.ty) get ∧
             ∀ k < 8192 * planesOf e.ty, w.tile.val k 0 = get k) ∧
         tm'.matrix.bins = tm.matrix.bins) ∧
       (e.op = .wswp → tm'.matrix.latch0 = tm.matrix.latch1 ∧ tm'.matrix.latch1 = tm.matrix.latch0 ∧
         tm'.matrix.bins = tm.matrix.bins ∧ tm'.matrix.binTag = tm.matrix.binTag) ∧
       (e.op = .zclr → (∀ row col, row < 64 → col < 64 → tm'.matrix.pair e.z row col = (0, 0)) ∧
         (e.z < 16 → tm'.matrix.binTag.getLsbD e.z = false) ∧
         (∀ z row col, row < 64 → col < 64 → z ≠ e.z → tm'.matrix.pair z row col = tm.matrix.pair z row col) ∧
         tm'.matrix.latch0 = tm.matrix.latch0 ∧ tm'.matrix.latch1 = tm.matrix.latch1)) ∧
  (∀ (s : State) (t id : Nat) (tm : Team) (e : SeqEntry), s.team? t = some tm → tm.matrix.entry? id = some e →
     Runs s t tm e → e.op = .mma ∨ e.op = .rdc ∨ e.op = .scan → e.addr % 128 = 0 → tm.st.larderA % 128 = 0 →
     (∀ q ∈ tm.matrix.queue, q.id = id → q = e) → descFirst e.desc + descRows e.desc ≤ 64 →
     (∀ p ∈ (tm.sheaf e.sheaf).pend, p.seq = e.seq → p = { seq := e.seq, ready := false }) →
     (e.ty = .tb8 ∨ e.ty = .tb4 ∨ e.ty = .bf16 ∨ e.ty = .f16 ∨ e.ty = .f32) →
     let done (m : Matrix) (upto : Nat) : Prop := ∃ row : Nat → Nat → Byte,
       (∀ j < upto, LarderReads tm (rowAddr e.addr e.desc j) (recordSize e.ty false) (row j)) ∧
       (∀ j n, e.step ≤ j → j < upto → n < 64 →
         Accumulates e.ty e.apx e.grade (List.zipWith FV.mul (recordValues e.ty (row j)) ((tm.matrix.latch e.latch).column e.ty n))
           (tm.matrix.pair e.z (descFirst e.desc + j) n) (m.pair e.z (descFirst e.desc + j) n)) ∧
       ∀ z r n, r < 64 → n < 64 → ¬ (z = e.z ∧ descFirst e.desc + e.step ≤ r ∧ r < descFirst e.desc + upto) →
         m.pair z r n = tm.matrix.pair z r n
     (s.entryError tm tm e e.addr e.desc e.rows = none → ∃ (u : State) (tm' : Team), exec (.sequencerEntryFinish t id) s = .next (u.settled t) ∧
       u.team? t = some tm' ∧ done tm'.matrix (descRows e.desc) ∧
       tm'.matrix.queue = tm.matrix.queue.filter (fun q => q.id != id) ∧
       tm'.matrix.latch0 = tm.matrix.latch0 ∧ tm'.matrix.latch1 = tm.matrix.latch1 ∧
       (e.z < 16 → tm'.matrix.binTag.getLsbD e.z =
         (tm.matrix.binTag.getLsbD e.z || e.apx || (tm.matrix.latch e.latch).tag || tm.rowsApprox e.addr e.desc || e.gtag)) ∧
       (∀ j < tm.sheaves.length, ∀ l, ((tm'.sheaf j).strand l).flags = ((tm.sheaf j).strand l).flags) ∧
       ∀ a, tm'.larderByte a = tm.larderByte a) ∧
     (let upto := (e.step / 16 + 1) * 16
      upto < descRows e.desc → s.entryError tm tm e e.addr e.desc upto = none → ∃ (u : State) (tm' : Team), exec (.interruptionPointReached t id) s = .next u ∧ u.team? t = some tm' ∧
       done tm'.matrix upto ∧ (tm'.matrix.entry? id).map (fun q => q.step) = some upto ∧ tm'.sheaves = tm.sheaves ∧
       ∀ a, tm'.larderByte a = tm.larderByte a))

/-- R208, R209, R211: ZRD to precise larder lines writes RoundF of each pair's exact sum where its record stands, leaves the bin
unchanged, and ORs the flags into F of every lane of its sheaf unless the bin or the guard is approximate; .pair writes the
two patterns. R210: ZWR sets the elements of its rows from the record. R243 to R246: the first member of a chain to begin
waits under its launch and key; the last forms the chain, and the lanes of each member pass their CHAIN; 65,536 cycles after
the first arrival, unless the chain re-forms after a joint restore (R246), the arrived members are refused with chain-formation in
every lane in use and leave the arbiter. That the flags are written when the entry finishes, and whose core's cycles count for a
chain, is read from the rules (log entry 22); that a row's bytes take their place when it is written is the model's choice (log
entry 50). -/
def Obligations.TransfersAndChains : Prop :=
  (∀ (s : State) (t id : Nat) (tm : Team) (e : SeqEntry), s.team? t = some tm → tm.matrix.entry? id = some e →
     Runs s t tm e → e.step = 0 → s.entryError tm tm e e.addr e.desc e.rows = none → tm.rowsApprox e.addr e.desc = false →
     tm.guarded = none → tm.st.mode ≠ 2 → (∀ q ∈ tm.matrix.queue, q.id = id → q = e) →
     descFirst e.desc + descRows e.desc ≤ 64 → e.flags = 0 →
     (∀ p ∈ (tm.sheaf e.sheaf).pend, p.seq = e.seq →
       p = { seq := e.seq, ready := false, writes := if e.op = .zrd then (List.range 32).map fun l => Wr.f l 0 0 else [] }) →
     recordSize e.ty (e.x % 2 = 1) ≤ 128 * descStride e.desc →
     let at_ (j : Nat) := e.addr + 128 * descStride e.desc * j
     let first := descFirst e.desc
     (e.op = .zrd → (e.ty = .f64 ∨ e.ty = .f32 ∨ e.ty = .f16 ∨ e.ty = .bf16) → (e.x % 2 = 1 → e.ty = .f32) →
       ∃ (u : State) (tm' : Team), exec (.sequencerEntryFinish t id) s = .next (u.settled t) ∧ u.team? t = some tm' ∧
       tm'.matrix.queue = tm.matrix.queue.filter (fun q => q.id != id) ∧
       (∀ z row col, tm'.matrix.pair z row col = tm.matrix.pair z row col) ∧
       (∀ j < descRows e.desc, ∀ n < 64,
         let p := tm.matrix.pair e.z (first + j) n
         if e.x % 2 = 1 then
           (∀ k < 4, tm'.larderByte (at_ j + 8 * n + k) = BitVec.ofNat 8 (p.1 / 256 ^ k)) ∧
           ∀ k < 4, tm'.larderByte (at_ j + 8 * n + 4 + k) = BitVec.ofNat 8 (p.2 / 256 ^ k)
         else ∀ k < e.ty.width / 8, tm'.larderByte (at_ j + n * (e.ty.width / 8) + k) =
           BitVec.ofNat 8 ((readPair e.ty e.rnd p).1 / 256 ^ k)) ∧
       (let fl : Flags := ((List.range (descRows e.desc)).flatMap fun j => (List.range 64).map fun n =>
           if e.x % 2 = 1 then 0 else (readPair e.ty e.rnd (tm.matrix.pair e.z (first + j) n)).2).foldl (fun x y => x ||| y) 0
        (∃ p ∈ (tm.sheaf e.sheaf).pend, p.seq = e.seq) → e.sheaf < tm.sheaves.length →
        ∀ l < 32, l < (tm.sheaf e.sheaf).strands.length → ((tm'.sheaf e.sheaf).strand l).flags =
          ((tm.sheaf e.sheaf).strand l).flags ||| (if tm.matrix.binTag.getLsbD e.z || e.gtag then 0 else fl)) ∧
       ∀ a, (∀ j < descRows e.desc, ¬ (at_ j ≤ a ∧ a < at_ j + recordSize e.ty (e.x % 2 = 1))) →
         tm'.larderByte a = tm.larderByte a) ∧
     (e.op = .zwr → e.ty = .f32 → ∃ (u : State) (tm' : Team), exec (.sequencerEntryFinish t id) s = .next (u.settled t) ∧ u.team? t = some tm' ∧
       tm'.matrix.queue = tm.matrix.queue.filter (fun q => q.id != id) ∧
       (∀ a, tm'.larderByte a = tm.larderByte a) ∧
       (e.z < 16 → tm'.matrix.binTag.getLsbD e.z =
         (if descRows e.desc = 64 then e.gtag else tm.matrix.binTag.getLsbD e.z || e.gtag)) ∧
       ∀ z row col, row < 64 → col < 64 → tm'.matrix.pair z row col =
         if z = e.z ∧ first ≤ row ∧ row < first + descRows e.desc then
           let num (o : Nat) : Nat := bytesNat ((List.range 4).map fun k => tm.larderByte (at_ (row - first) + o + k))
           if e.x % 2 = 1 then (num (8 * col), num (8 * col + 4)) else (num (4 * col), 0)
         else tm.matrix.pair z row col)) ∧
  ((∀ (s : State) (t id : Nat) (tm : Team) (e : SeqEntry), s.team? t = some tm → tm.matrix.entry? id = some e → e.op = .chain →
     mayBegin tm e → e.formed = false → e.id = id →
     let k := tm.core / 8
     let key := e.desc.toNat / 2 ^ 48
     let waits (g : ChainGroup) : Prop := g.formed = false ∧ g.launch = tm.launch ∧ g.key = key
     (¬ (∃ g ∈ (s.cluster k).chains, waits g) → ∃ u : State, exec (.sequencerEntryBegin t id) s = .next u ∧
       (u.cluster k).chains = (s.cluster k).chains ++ [{
         launch := tm.launch, key := key, len := e.desc.toNat / 2 ^ 36 % 16, rows := descRows e.desc, ty := e.ty,
         since := (s.core tm.core).cycle, core := tm.core, resumed := decide (e.id < tm.resuming),
         members := [(e.desc.toNat / 2 ^ 40 % 8, t, id)] }]) ∧
     (∀ n t0 id0 tm0 e0 c0 again, again = true ∨ (s.core c0).cycle < n + 65536 → (s.cluster k).chains = [{
           launch := tm.launch, key := key, len := 2, rows := descRows e.desc, ty := e.ty, since := n, core := c0, resumed := again,
           members := [(0, t0, id0)] }] →
       s.team? t0 = some tm0 → t0 ≠ t → tm0.matrix.entry? id0 = some e0 → e0.id = id0 → e0.sheaf < tm0.sheaves.length →
       e.sheaf < tm.sheaves.length → (tm0.sheaf e0.sheaf).hold = .chain → (tm.sheaf e.sheaf).hold = .chain →
       e.desc.toNat / 2 ^ 40 % 8 = 1 → e.desc.toNat / 2 ^ 36 % 16 = 2 →
       ∃ u : State, exec (.sequencerEntryBegin t id) s = .next u ∧
         (∀ g ∈ (u.cluster k).chains, g.formed = true ∧ g.members = [(0, t0, id0), (1, t, id)]) ∧
         (u.sheafAt t e.sheaf).hold = .none ∧ (u.sheafAt t0 e0.sheaf).hold = .none ∧
         (∀ l < 32, l < (tm.sheaf e.sheaf).strands.length →
           ((u.sheafAt t e.sheaf).strand l).pc = ((tm.sheaf e.sheaf).strand l).pc + 8) ∧
         ∀ l < 32, l < (tm0.sheaf e0.sheaf).strands.length →
           ((u.sheafAt t0 e0.sheaf).strand l).pc = ((tm0.sheaf e0.sheaf).strand l).pc + 8)) ∧
   (∀ (s : State) (k launch key t id : Nat) (tm : Team) (e : SeqEntry) (g : ChainGroup), (s.cluster k).chains = [g] →
     g.formed = false → g.launch = launch → g.key = key → g.members = [(chainPos e.desc, t, id)] → s.team? t = some tm →
     tm.matrix.entry? id = some e → e.id = id → e.sheaf < tm.sheaves.length → (tm.sheaf e.sheaf).finished = false →
     (tm.sheaf e.sheaf).traps = [] → (tm.sheaf e.sheaf).hold = .chain → e.op = .chain →
     ((s.core g.core).cycle < g.since + 65536 ∨ g.resumed = true → exec (.chainTimeout k launch key) s = .next s) ∧
     (g.since + 65536 ≤ (s.core g.core).cycle → g.resumed = false → ∃ u : State, exec (.chainTimeout k launch key) s = .next u ∧
       (u.cluster k).chains = [] ∧ (u.sheafAt t e.sheaf).hold = .none ∧
       (∀ l ∈ (tm.sheaf e.sheaf).used, ∃ r ∈ (u.sheafAt t e.sheaf).traps, (l, 0x902, 0) ∈ r.causes) ∧
       ∀ l, ((u.sheafAt t e.sheaf).strand l).pc = ((tm.sheaf e.sheaf).strand l).pc)))

/-! ### Engine jobs -/

/-- R213, R217, R219, R220, R222, R272: a job instruction whose guard is true somewhere enters its job in the table, gives its ticket
and performs its batch's earlier stores, with those that the batch has seen; with a completion object it registers first and its
sheaf waits for the home; a failed check refuses the whole batch; with its guard false everywhere it does nothing, but that its
word's own errors are refused even then (R57). R213, R214, R224: EWAIT goes on, an acquire, when its ticket's job is complete, takes
the job's cause when it has failed, and parks the lanes with WHY 4 else; CWAIT goes on also when the write pointer has reached its
count; EQRY gives the status word. A ticket of no job of the table refuses all three. That the operands' checks are made, and the
ticket and count change, only when some guard is true is read from R217 (log entry 23); that the issue performs the batch's stores
for the whole die is the model's choice (log entry 13). -/
def Obligations.JobIssueAndWaits : Prop :=
  (∀ (ins : Instr) (k : JobKind) (c : Ctl) (o : OpE) (s : State) (i : Iss), jobRow ins = some (k, c, o) → s.iss? c = some i →
     i.aG = [] → i.tm.key = i.t → (i.tm.guarded = none ∨ i.sh.cleared = true) → (k = .cpyr → o.x % 4 ≠ 3) →
     (∀ y ∈ i.tm.jobs, y.seq < i.tm.nextSeq) →
     let job := i.jobOf k o
     let wordBad : Prop := 60 < o.sd ∨ (o.sn = true ∧ o.so ≠ 0) ∨ (k = .dtab ∨ k = .dec) ∧ 3 < o.chan
     (i.on = [] → ¬ wordBad → ∃ t, exec ins s = .next t ∧ Issued s t i [] past) ∧
     (i.on = [] → wordBad → ∃ t, exec ins s = .next t ∧
       IssuedAs s t i (fun sh => sh.raise i.seq 0 (i.batch.map fun l => (l, 0x911, 0))) stay) ∧
     (i.on ≠ [] → i.jobCause s k o = none → o.sn = true →
       let q : Job := { job with
         seq := i.tm.nextSeq, order := s.ids, entries := i.tm.matrix.nextId
         state := if k ≠ .dtab ∧ job.size = 0 then 2 else 0 }
       let seen (w : Write) : Bool := ofLanes i.t i.j (maskOf i.batch) w || w.visibleTo (i.t * 16 + i.j) i.tm.core
       ∃ t u, exec ins s = .next t ∧ Issued s u i [] past ∧
         t = ((({ u with ids := s.ids + 1 }.flush seen).modTeam i.t fun (x : Team) => { x with
             nextSeq := i.tm.nextSeq + 1, jobs := (i.tm.jobs.filter fun (y : Job) => y.seq + 64 > i.tm.nextSeq) ++ [q] }).modSheaf i.t i.j
           fun (sh : Sheaf) => { sh with pend := sh.pend ++ [({ seq := i.seq, writes := [Wr.u o.st allOnes q.ticket (some false)] } : Pending)] }) ∧
         ∀ x ∈ t.stores, x.2.isMark = false → seen x.2 = false) ∧
     (∀ m pa, i.on ≠ [] → i.jobCause s k o = none → o.sn = false →
       let va := (i.sh.u o.so).bits.toNat
       s.access i.core i.tm.vdev (i.sh.strand (i.on.headD 0)).refused false false false 1 va = .ok m pa →
       ∃ t r w, exec ins s = .next t ∧ Sent s t [r] ∧ r.kind = .registration ∧ r.id = s.ids ∧ r.pa = pa ∧
         (t.sheafAt i.t i.j).hold = .home [s.ids] ∧
         (∀ l, ((t.sheafAt i.t i.j).strand l).pc = (i.sh.strand l).pc) ∧
         (t.team? i.t).map (fun x => x.jobWait) = some (i.tm.jobWait ++ [w]) ∧
         w = { id := s.ids, job := { job with so := some pa, soVa := va }, j := i.j, iss := i.seq, ticket := o.st,
               batch := maskOf i.batch, on := maskOf i.on, so := va } ∧
         (t.team? i.t).map (fun x => x.jobs) = some i.tm.jobs ∧ t.stores = s.stores) ∧
     (∀ cause, i.on ≠ [] → i.jobCause s k o = some cause → ∃ t, exec ins s = .next t ∧
       IssuedAs s t i (fun sh => sh.raise i.seq 0 (i.batch.map fun l => (l, cause, 0))) stay)) ∧
  (∀ (c : Ctl) (o : OpE) (s : State) (i : Iss), s.iss? c = some i → i.on ≠ [] → (i.sh.u o.st).tag = false →
     let named (f : Nat → Option (Nat × Nat)) (sh : Sheaf) : Sheaf :=
       sh.raise i.seq 0 (i.on.filterMap fun l => (f l).map fun x => (l, x.1, x.2))
     let refused (ins : Instr) : Prop := ∃ t, exec ins s = .next t ∧
       IssuedAs s t i (fun sh => sh.raise i.seq 0 (i.batch.map fun l => (l, 0x912, 0))) stay
     (i.tm.jobOfTicket (i.sh.u o.st).bits = none → refused (.ewait c o) ∧ refused (.eqry c o) ∧
       ((i.sh.u o.sd).tag = false → refused (.cwait c o))) ∧
     (∀ j, i.tm.jobOfTicket (i.sh.u o.st).bits = some j →
       let waits (ins : Instr) (n : Option Nat) (reached : Prop) : Prop :=
         (reached → ∃ t, exec ins s = .next t ∧ Issued s t i [] fun l st =>
           if l ∈ i.on then { past l st with acq := (s.die i.die).performed } else past l st) ∧
         (¬ reached → j.state = 3 → ∃ t, exec ins s = .next t ∧ IssuedAs s t i (named fun _ => some (j.cause, j.addr)) fun l st =>
           if l ∈ i.on then stay l st else past l st) ∧
         (¬ reached → j.state < 2 → ∃ t, exec ins s = .next t ∧ Issued s t i [] fun l st =>
           if l ∈ i.on then { past l st with pc := i.pc, run := .parked 4, park := .job j.seq n } else past l st)
       waits (.ewait c o) none (j.state = 2) ∧
       ((i.sh.u o.sd).tag = false →
         waits (.cwait c o) (some (i.sh.u o.sd).bits.toNat) (j.state = 2 ∨ (i.sh.u o.sd).bits.toNat ≤ j.wp)) ∧
       CompletesColumn (.eqry c o) s i true o.sd none
         (fun _ => BitVec.ofNat 64 (j.state * 2 ^ 61 + (if j.state = 3 then j.cause % 4096 else 0) * 2 ^ 48 + j.wp % 2 ^ 32))
         (fun _ => false) (fun _ => 0)))

/-- R212, R216, R218, R220, R221, R253: a waiting job starts when its unit is free, its team's rail stands, and no earlier job of its
team, and no earlier WLD, meets its regions. R223, R48: a unit of CPY and CPOS moves eight bytes from its source, CPOS's at the row
that its index names, one of CPYR combines an element of its destination with one of its source; approximate source storage is
exposed, and A data stops at a precise line. R225, R226: DTAB keeps 256 code lengths that make a complete code and empties its slot
for any other; DEC decodes 64 canonical codes of a column, MSB first, and writes them with the column's exponents and zeros as a
record of a .tb8 tile. A job at the end of its region completes, a job that has met a failure fails, and the lanes that wait on it go
on, an acquire, or take its cause. DEC's advance by whole records is read from the rules (log entry 23); the storage width that a
copy from precise bytes gives, and which regions meet, is the model's choice (log entry 45). -/
def Obligations.JobProgress : Prop :=
  ∀ (s : State) (t seq : Nat) (tm : Team) (j : Job), s.team? t = some tm → tm.key = t → tm.job? seq = some j →
    let ready : Prop := j.state = 0 ∧ tm.waitsRail = false ∧
      (∀ i ∈ tm.jobs, i.state < 2 → i.seq < j.seq → j.dependsOn i = false ∧ ¬ (j.unit = 0 ∧ i.unit = 0 ∧ i.chan = j.chan)) ∧
      (j.unit = 1 → ∀ e ∈ s.teams, e.2.core = tm.core → ∀ i ∈ e.2.jobs, i.state < 2 → i.unit = 1 → j.order ≤ i.order) ∧
      ∀ e ∈ tm.matrix.queue, e.id < j.entries → rangesMeet j.attic e.attic = false
    let stands (u : State) (q : Job) : Prop := ∃ tm', u.team? t = some tm' ∧ tm'.job? seq = some q ∧
      ∀ x < tm.sheaves.length, ∀ l < 32, ∀ n, isParked ((tm.sheaf x).strand l).run = true → ((tm.sheaf x).strand l).park = .job seq n →
        l < (tm.sheaf x).strands.length →
        let st := (tm.sheaf x).strand l
        if q.state = 2 ∨ ∃ k, n = some k ∧ k ≤ q.wp then (tm'.sheaf x).strand l =
          { st with pc := st.pc + 8, run := .active, park := .nothing, acq := (u.die tm.die).performed }
        else if q.state = 3 then (tm'.sheaf x).strand l = { st with run := .active, park := .nothing } ∧
          ∃ r ∈ (tm'.sheaf x).traps, (l, q.cause, q.addr) ∈ r.causes
        else (tm'.sheaf x).strand l = st
    let runs : Prop := j.moves = true ∧ s.unitFree tm j = true ∧ tm.waitsRail = false
    (ready → exec (.jobStart t seq) s = .next (s.modTeam t fun x => x.modJob seq fun q => { q with state := 1 })) ∧
    (¬ ready → exec (.jobStart t seq) s = .next s) ∧
    (let n := if j.kind = .cpyr then j.ty.width / 8 else 8
     let dst := j.dst + j.wp
     ∀ (src : Nat) (row : Option (Nat × Nat)), runs → j.wp < j.size → tm.preempt = .none → tm.guarded = none →
       j.source = none → j.target = none → j.acked = false → (j.kind = .cpyr → 8 ≤ j.ty.width) →
       (j.kind = .cpy ∨ j.kind = .cpyr) ∧ src = j.src + j.wp ∧ row = j.row ∨
         (j.kind = .cpos ∧ ∃ r, row = some (j.wp / j.rowBytes, r) ∧ src = j.src + j.rowBytes * r + j.wp % j.rowBytes ∧
           let at_ := j.idx + 4 * (j.wp / j.rowBytes)
           (j.row = row ∨ j.row = none ∧ tm.larderError at_ 4 = false ∧ tm.larderGrade at_ = 8 ∧
             r = bytesNat ((List.range 4).map fun k => tm.larderByte (at_ + k)) ∧ j.rowBytes * (r + 1) ≤ j.srcLen)) →
       j.ssp = 1 ∨ j.dsp = 1 ∨ j.dsp = 3 → SideOk s tm j.ssp src n → (j.kind = .cpyr → SideOk s tm j.dsp dst n ∧ j.dsp ≠ 3) →
       ∀ (pa grade : Nat),
       (j.dsp = 1 ∧ grade = tm.larderGrade dst ∨ j.dsp = 3 ∧ grade = 8 ∨
         (j.dsp = 0 ∨ j.dsp = 2) ∧ JobPlace s tm j.dsp dst (decide (j.kind = .cpyr)) true pa grade ∧ s.preciseCellar pa = false) →
       ∃ (u : State) (tm' : Team) (ys xs : List Byte) (ya xa : Bool) (width wx : Nat),
         exec (.writePointerAdvance t seq) s = .next (State.settled u t) ∧ u.team? t = some tm' ∧
         ys.length = n ∧ xs.length = n ∧ SideReads s tm j.ssp src ys ya width ∧ (j.kind = .cpyr → SideReads s tm j.dsp dst xs xa wx) ∧
         let out := if j.kind = .cpyr then natBytes n (combined (j.x % 4) j.ty (bytesNat xs) (bytesNat ys)) else ys
         let apx := ya || decide (j.kind = .cpyr) && xa
         let w := if j.kind = .cpyr then j.ty.width else width
         let inUnit (a : Nat) : Prop := dst ≤ a ∧ a < dst + n
         (apx = true → grade = 8 → (tm'.job? seq).bind (fun q => q.fail) = some (0x405, dst) ∧
           (∀ a, tm'.larderByte a = tm.larderByte a) ∧ SameBytes s u ∧ ∀ a, (u.atticOf tm').val a 0 = (s.atticOf tm).val a 0) ∧
         (apx = false ∨ grade ≠ 8 →
           stands u { j with wp := j.wp + n, row := row, source := none, target := none, acked := false } ∧
           (∀ a, j.dsp = 1 → inUnit a → tm'.larderByte a = out.getD (a - dst) 0) ∧
           (∀ a, ¬ (j.dsp = 1 ∧ inUnit a) → tm'.larderByte a = tm.larderByte a) ∧
           (j.dsp = 1 → grade ≠ 8 → tm'.larderW.val (lineOf dst) 32 = w) ∧
           (∀ a, j.dsp = 3 → inUnit a → s.atticSize tm ≠ 0 → (u.atticOf tm').val a 0 = out.getD (a - dst) 0) ∧
           (∀ a, ¬ (j.dsp = 3 ∧ inUnit a) → (u.atticOf tm').val a 0 = (s.atticOf tm).val a 0) ∧
           (∀ d a, (u.die d).view.get a = if d = tm.die ∧ (j.dsp = 0 ∨ j.dsp = 2) ∧ pa ≤ a ∧ a < pa + n then out.getD (a - pa) 0
             else (s.die d).view.get a) ∧
           (j.dsp = 0 ∨ j.dsp = 2 → grade ≠ 8 → w ≠ 0 → u.widthAt tm.die [] pa = w))) ∧
    (∀ ls : List Nat, j.kind = .dtab → runs → j.state < 2 → j.ssp = 1 → tm.larderBad = [] → j.src % 8 = 0 → tm.st.larderA ≤ j.src → j.so = none →
      ls = (List.range 256).map (fun k => (tm.larderByte (j.src + k)).toNat) →
      (GoodTable ls → ∃ u, exec (.jobComplete t seq) s = .next (State.settled u t) ∧ stands u { j with state := 2 } ∧
        ((u.team? t).bind fun x => x.decoder.find j.chan) = some ls) ∧
      (¬ GoodTable ls → ∃ u, exec (.jobComplete t seq) s = .next u ∧ ((u.team? t).bind fun x => x.decoder.find j.chan) = none ∧
        ((u.team? t).bind fun x => x.job? seq).bind (fun q => q.fail) = some (0x913, j.src))) ∧
    (∀ (ls syms : List Nat), j.kind = .dec → runs → j.wp < j.size → j.wp % 128 = 0 → tm.preempt = .none → tm.guarded = none →
      j.ssp = 1 → tm.larderBad = [] → tm.st.larderA ≤ j.src → tm.st.larderA % 128 = 0 →
      tm.decoder.find j.chan = some ls → ls.length = 256 → GoodTable ls → syms.length = 64 →
      let bit (p : Nat) : Bool := (tm.larderByte (j.src + 256 * j.tiles + p / 8)).getLsbD (7 - p % 8)
      let pos (k : Nat) : Nat := j.bitPos + ((syms.take k).map fun x => ls.getD x 0).sum
      let t8 := j.wp / 8192
      let col := j.wp % 8192 / 128
      (∀ k < 64, let x := syms.getD k 0
        x < 256 ∧ ls.getD x 0 ≠ 0 ∧ ∀ q < ls.getD x 0, bit (pos k + q) = (canonicalCode ls x).testBit (ls.getD x 0 - 1 - q)) →
      256 * j.tiles * 8 + pos 64 ≤ 8 * j.len →
      (col = 63 → ∀ p, pos 64 ≤ p → p < (pos 64 + 7) / 8 * 8 → bit p = false) →
      ∃ (u : State) (tm' : Team), exec (.writePointerAdvance t seq) s = .next (State.settled u t) ∧ u.team? t = some tm' ∧
        (∃ got, stands u { j with
          wp := j.wp + 128, bitPos := if col = 63 then (pos 64 + 7) / 8 * 8 else pos 64, got := got, source := none, target := none
          acked := false }) ∧
        (∀ a, tm'.larderByte a = tm.larderByte a) ∧
        ∀ a, s.atticSize tm ≠ 0 → (u.atticOf tm').val a 0 = if j.dst + j.wp ≤ a ∧ a < j.dst + j.wp + 128 then
            let k := a - (j.dst + j.wp)
            if k < 64 then BitVec.ofNat 8 (syms.getD k 0) else if k < 68 then tm.larderByte (j.src + 256 * t8 + 4 * col + (k - 64)) else 0
          else (s.atticOf tm).val a 0) ∧
    (runs → j.kind ≠ .dtab → j.size ≤ j.wp → j.so = none →
      ∃ u, exec (.jobComplete t seq) s = .next (State.settled u t) ∧ stands u { j with state := 2 }) ∧
    (∀ cause addr, j.fail = some (cause, addr) → j.state = 1 → j.so = none →
      ∃ u, exec (.jobFail t seq) s = .next (State.settled u t) ∧ stands u { j with state := 3, cause := cause, addr := addr })

/-- R272: a registration that finds its staged object counts one arrival more in PEND and enters the job; another refuses the
lanes with not-staged, and one whose queue entry, line or metadata holds an error with uncorrectable-consumed. An arrival at its
home, when the object's class admits it, performs its transition and leaves PEND; else it is discarded, its job fails with
staged-fault and the die's log takes a record that names the object and the job (R316). -/
def Obligations.CompletionObjects : Prop :=
  (∀ (s : State) (k t j l n : Nat) (r : Req) (rest : List Req) (tm : Team) (w : JobWait), (s.cluster k).halted = false →
    (s.cluster k).queue = r :: rest → r.kind = .registration → r.src = .lane t j l n → s.team? t = some tm → tm.key = t →
    tm.jobWait = [w] → w.id = r.id → w.j = j → j < tm.sheaves.length → (tm.sheaf j).hold = .home [r.id] → r.clock = [] →
    (∀ y ∈ tm.jobs, y.seq < tm.nextSeq) → s.parked (lineOf r.pa) = [] →
    let o := s.metaOf r.pa
    let fits : Prop := s.preciseCellar r.pa = true ∧ o.stg = true ∧ o.pend < 65535 ∧ r.bad = false ∧ s.lineBad r.pa = false
    (fits → (w.job.kind = .dtab ∨ w.job.size ≠ 0) → ∃ u tm', exec (.completionRegistration k) s = .next u ∧
      State.team? u t = some tm' ∧ u.metaOf r.pa = { o with pend := o.pend + 1 } ∧ (u.cluster k).queue = rest ∧
      tm'.jobWait = [] ∧ (tm'.sheaf j).hold = .none ∧
      tm'.jobs = (tm.jobs.filter fun y => y.seq + 64 > tm.nextSeq) ++ [{ w.job with
        seq := tm.nextSeq, order := s.ids, entries := tm.matrix.nextId, state := 0 }] ∧
      ∀ l < (tm.sheaf j).strands.length, l < 32 → ((tm'.sheaf j).strand l).pc =
        if w.batch.getLsbD l then ((tm.sheaf j).strand l).pc + 8 else ((tm.sheaf j).strand l).pc) ∧
    (¬ fits → ∃ u tm', exec (.completionRegistration k) s = .next u ∧ State.team? u t = some tm' ∧
      (∀ a, u.metaOf a = s.metaOf a) ∧ tm'.jobs = tm.jobs ∧ tm'.jobWait = [] ∧ (tm'.sheaf j).hold = .none ∧
      let error : Prop := r.bad = true ∨ s.preciseCellar r.pa = true ∧ s.lineBad r.pa = true
      ∀ l < 32, w.on.getLsbD l = true → ∃ q ∈ (tm'.sheaf j).traps, (error → (l, 0xC01, w.so) ∈ q.causes) ∧
        (¬ error → (l, 0x803, w.so) ∈ q.causes))) ∧
  (∀ (s : State) (t seq : Nat) (r : Req) (rest : List Req) (e : Nat), (s.cluster (homeOf r.pa)).halted = false →
    (s.cluster (homeOf r.pa)).queue = r :: rest → r.kind = .arrival → r.src = .job t seq → r.clock = [] → r.bad = false →
    (s.die (ownerOf r.pa)).inbox = [] →
    let o := s.metaOf r.pa
    let line := lineOf r.pa
    (s.judge r = .done e → s.lineBad r.pa = false → eRet e = false → r.trans = 15 →
      let m : Meta := { o.after r e with pend := o.pend - 1 }
      let v : State := ((s.modCluster (homeOf r.pa) fun c => { c with queue := rest }).setMeta r.pa m).modJobOf t seq fun q =>
        { q with arrived := true }
      let x : State := if m ≠ o then v.walk line else v
      exec (.engineArrival (homeOf r.pa)) s =
        .next ((State.refillParked (homeOf r.pa) (x.cluster (homeOf r.pa)).overflow.length x).settled t)) ∧
    (s.judge r = .fault → o.stg = true → o.pend ≠ 0 → s.parked line = [] → (s.cluster (homeOf r.pa)).overflow = [] →
      ∃ u, exec (.engineArrival (homeOf r.pa)) s = .next (State.settled u t) ∧ u.metaOf r.pa = { o with pend := o.pend - 1 } ∧
        (∃ q, (u.die (ownerOf r.pa)).events = (s.die (ownerOf r.pa)).events ++ [q] ∧ q.kind = 0x0308 ∧ q.time = s.time ∧
          q.addr = r.pa ∧ q.vdev = ((s.region? r.pa).elim 255 fun g => g.vdev) ∧
          q.detail + 65536 * q.aux = (seq - 1) % (2 ^ 32 - 1) + 1) ∧
        ∀ tm q, s.team? t = some tm → tm.job? seq = some q → (u.team? t).bind (fun x => x.job? seq) =
          some { q with arrived := true, state := 3, cause := 0x801, addr := r.va }))

/-! ### Atomics and staged objects -/

/-- The requests and the result that an atomic of member `fn` leaves (R231, R232): one request for each lane whose guard is true, in
ascending lane order, its lane's slot taken, its result waiting for the answers; the lanes' earlier stores are performed. -/
structure AtomicSent (s t : State) (i : Iss) (o : OpX) (fn : Nat) (acc : Nat → Mapping × Nat) : Prop where
  stores : ∀ x ∈ t.stores, StillWaits s x ∧ ofLanes i.t i.j (maskOf i.on) x.2 = false
  sent : ∃ rs, Sent s t rs ∧ rs.length = i.on.length ∧ ∀ n < i.on.length,
    let l := i.on.getD n 0
    let r := rs.getD n {}
    r.id = s.ids + n ∧ r.kind = .atomic ∧ r.src = .lane i.t i.j l i.seq ∧ r.pa = (acc l).2 ∧ r.fn = fn ∧ r.ty = o.ty ∧
      r.e = (i.sh.v l o.e).bits ∧ r.g = (i.sh.v l o.g).bits ∧ r.dst = .v (i.sh.ring l o.d) ∧ r.key = []
  ids : t.ids = s.ids + i.on.length
  result : (t.sheafAt i.t i.j).pend = i.sh.pend ++ [{ seq := i.seq, waits := i.on.length, slotOf := maskOf i.on }]
  lanes : LanesPast s t i fun l st => if l ∈ i.on then { st with slots := st.slots + 1 } else st

/-- The contributions that AFADD.o leaves in the homes' reorder buffers (R237, R238). -/
structure Contributed (s t : State) (i : Iss) (o : OpX) (acc : Nat → Mapping × Nat) : Prop where
  stores : ∀ x ∈ t.stores, StillWaits s x ∧ ofLanes i.t i.j (maskOf i.on) x.2 = false
  queues : ∀ k, (t.cluster k).queue = (s.cluster k).queue
  buffers : ∀ k, (t.cluster k).reorder = (s.cluster k).reorder ++ (i.on.map fun l => ({
      launch := i.tm.launch, key := [i.tm.stage, i.tm.lid, i.j, l, (i.sh.strand l).seqIdx.toNat], pa := (acc l).2,
      grade := (acc l).1.grade, ty := o.ty, e := (i.sh.v l o.e).bits } : Contribution)).filter fun x => homeOf x.pa == k
  result : (t.sheafAt i.t i.j).pend = i.sh.pend
  lanes : LanesPast s t i fun l st => if l ∈ i.on then { st with seqIdx := st.seqIdx + 1 } else st

/-- R231, R232, R328: AADD, AMIN, AMAX, AAND, AOR, AXOR, AXCHG, ACAS and AFADD each complete when their lanes pass their checks (R234)
and nothing of the sheaf's lanes stands before them: they perform the lanes' earlier stores, take a return slot in each lane and send
one request for each, in ascending lane order, to the lines' homes; the result waits for the answers. R237, R238, R241: AFADD.o,
and AFADD in a phased launch, complete the same way: their contributions enter the homes' reorder buffers under their keys, and
each lane's sequence index counts. R178: in a guarded team all wait for a commit. -/
def Obligations.AtomicIssue : Prop :=
  ∀ (c : Ctl) (o : OpX) (s : State) (i : Iss) (acc : Nat → Mapping × Nat), s.iss? c = some i → i.aG = [] → i.on ≠ [] →
    (∀ l ∈ i.on, passes s i o true true (o.ty.width / 8) l (acc l) ∧ s.preciseCellar (acc l).2 = false) →
    s.sending = [] → s.atomicsOf (i.t * 16 + i.j) (BitVec.allOnes 32) i.seq = [] →
    s.loadsOf (i.t * 16 + i.j) (BitVec.allOnes 32) i.seq = [] → (∀ x ∈ s.stores, s.writeHeld x.2 = false) →
    (∀ x ∈ s.stores, x.2.sheaf = i.t * 16 + i.j → x.2.isMark = false ∧ x.2.iss ≤ i.seq) →
    let ready : Prop := i.tm.guarded = none ∨ i.sh.cleared = true
    let plain (fn : Nat) (ins : Instr) : Prop :=
      xRange o true true (fn == 7) i.sh.w = none →
      (∀ l ∈ i.on, i.poisoned l (xReads o true (fn == 7)) = false ∧
        ((acc l).1.grade = 8 → (i.sh.v l o.e).tag = false ∧ (fn = 7 → (i.sh.v l o.g).tag = false))) →
      (ready → ∃ t, exec ins s = .next t ∧ AtomicSent s t i o fn acc) ∧
      (¬ ready → exec ins s = .next (s.modSheaf i.t i.j fun sh => { sh with hold := .commit }))
    let contributes (d : Bool) (ins : Instr) : Prop :=
      xRange o d true false i.sh.w = none →
      (∀ l ∈ i.on, i.poisoned l (xReads o true false) = false ∧ ((acc l).1.grade = 8 → (i.sh.v l o.e).tag = false) ∧
        s.poisonAt (acc l).2 (o.ty.width / 8) = false) →
      (ready → ∃ t, exec ins s = .next t ∧ Contributed s t i o acc) ∧
      (¬ ready → exec ins s = .next (s.modSheaf i.t i.j fun sh => { sh with hold := .commit }))
    plain 0 (.aadd c o) ∧ plain 1 (.amin c o) ∧ plain 2 (.amax c o) ∧ plain 3 (.aand c o) ∧ plain 4 (.aor c o) ∧
    plain 5 (.axor c o) ∧ plain 6 (.axchg c o) ∧ plain 7 (.acas c o) ∧ (i.tm.st.phased = false → plain 8 (.afadd c o)) ∧
    (i.tm.st.phased = true → contributes true (.afadd c o)) ∧ contributes false (.afaddO c o)

/-- R235, R233, R241, R48: a home that serves an atomic of a plain line writes NewValue of the old value there, of an approximate line
as a read gives it, answers with the old value, extended by the type's signedness, and changes no other byte: the integer members at
every width, and AFADD with one rounding to nearest, ties to even. R237, R239, R240: AFLUSH completes: it empties the buffers of its
launch, and its result is outstanding until every die has applied what it wrote; each buffer adds its contributions one by one in
ascending order of location and key, so that on every die the bytes are those that the sums leave, and no others change. -/
def Obligations.AtomicService : Prop :=
  (∀ (s : State) (k t j l n : Nat) (r : Req) (rest : List Req) (tm : Team) (p : Pending), (s.cluster k).halted = false →
    (s.cluster k).queue = r :: rest → r.kind = .atomic → r.src = .lane t j l n → r.seq = n → r.clock = [] → r.bad = false →
    s.judge r = .plain → (r.fn ≤ 7 ∧ r.ty.float = false ∨ r.fn = 8 ∧ r.ty.float = true) → 8 ≤ r.ty.width → r.key = [] →
    s.poisonAt r.pa (r.ty.width / 8) = false → s.team? t = some tm → tm.key = t → j < tm.sheaves.length →
    (tm.sheaf j).hold = .none → (tm.sheaf j).pend = [p] → p.seq = n → p.slotOf.getLsbD l = true →
    (s.die (ownerOf r.pa)).inbox = [] → (s.cluster (homeOf r.pa)).overflow = [] →
    let b := r.ty.width / 8
    let at_ (u : State) (a : Nat) : Byte := (u.die (ownerOf r.pa)).view.get a
    ∃ (u : State) (bs : List Byte), exec (.atomicServe k) s = .next (State.settled u t) ∧ (u.cluster k).queue = rest ∧
      bs.length = b ∧ StorageReads (at_ s) r.grade (s.widthAt (ownerOf r.pa) [] r.pa) r.pa bs ∧
      let old := bytesNat bs
      let new := if r.fn = 8 then (fpOp .add (FFmt.of r.ty) .rne old (elem r.ty.width 0 r.e) 0 0).1
        else integerAtomic r.fn r.ty old (elem r.ty.width 0 r.e) (elem r.ty.width 0 r.g)
      (∀ a, at_ u a = if r.pa ≤ a ∧ a < r.pa + b then BitVec.ofNat 8 (new / 256 ^ (a - r.pa)) else at_ s a) ∧
      (r.grade ≠ 8 → u.widthAt (ownerOf r.pa) [] r.pa = r.ty.width) ∧
      (r.dst = .v 0 → (u.sheafAt t j).pend = [{ p with
        waits := p.waits - 1
        writes := p.writes ++ [Wr.v l 0 allOnes (BitVec.ofInt 64 (toInt r.ty.signed r.ty.width old))
          (some (r.tag || decide (r.grade ≠ 8)))] }])) ∧
  (∀ (c : Ctl) (o : OpX) (s : State) (i : Iss) (n : Launch), s.iss? c = some i → i.on ≠ [] →
    (i.tm.guarded = none ∨ i.sh.cleared = true) → s.launch? i.tm.launch = some n →
    (∀ k, ∀ x ∈ (s.cluster k).reorder, x.bad = false) →
    ∃ t, exec (.aflush c o) s = .next t ∧
      (∀ k, (t.cluster k).reorder = (s.cluster k).reorder.filter fun x => x.launch != i.tm.launch) ∧
      t.dies = ((s.publishLanes i.die i.t i.j i.on).flushLaunch i.tm.launch).dies ∧
      (t.sheafAt i.t i.j).pend = i.sh.pend ++ [{ seq := i.seq, ready := false }] ∧
      LanesPast s t i (fun _ st => st) ∧
      ∃ f, t.finishes = s.finishes ++ [f] ∧ f.t = i.t ∧ f.j = i.j ∧ f.seq = i.seq ∧
        ∀ d < 16, ∀ q < 16, ((t.die d).vc).getD q 0 ≤ f.cover.getD q 0) ∧
  (∀ (s : State) (n : Nat) (l : Launch), s.launch? n = some l → SMap.sorted s.clusters = true →
    (∀ k, ∀ x ∈ (s.cluster k).reorder, x.launch = n → x.bad = false ∧ x.grade = 8) → ∀ d,
    ∃ order : List (Nat × Contribution),
      order.Perm (s.clusters.flatMap fun e => (e.2.reorder.filter fun x => x.launch == n && ownerOf x.pa == d).map fun x => (e.1, x)) ∧
      (order.Pairwise fun x y => x.1 = y.1 → ¬ (y.2.pa :: y.2.key < x.2.pa :: x.2.key)) ∧
      ∀ a, ((s.flushLaunch n).die d).view.get a = (order.map Prod.snd).foldl addedTo (fun x => (s.die d).view.get x) a) ∧
  (∀ l : List Contribution, (sortContributions l).Perm l ∧ (sortContributions l).Pairwise fun x y => y.before x = false)

/-- R266, R276, R277, R281: LDT, STT and XTR of lanes that pass their checks each complete their issue: they perform those lanes'
earlier stores, park them with WHY 0 and send one request for each to its home; a transition past the form's range refuses the
batch. STBL of a good image completes and loads the class on every die of the partition. -/
def Obligations.StagedIssue : Prop :=
  ∀ (c : Ctl) (o : OpX) (s : State) (i : Iss), s.iss? c = some i → i.aG = [] → i.on ≠ [] →
    (i.tm.guarded = none ∨ i.sh.cleared = true) →
    (∀ acc : Nat → Mapping × Nat,
      let reads (k : ReqKind) : Bool := k = .stt ∨ k = .xtr ∧ o.g % 16 = 14
      let top (k : ReqKind) : Nat := if k = .xtr then 14 else 13
      let ready (k : ReqKind) : Prop := xRange o (k != .stt) (reads k) false i.sh.w = none ∧ o.g % 16 ≤ top k ∧ ∀ l ∈ i.on,
        i.poisoned l (xReads o (reads k) false) = false ∧
        passes s i o (k != .stt) (k != .ldt) (if k = .xtr then 128 else o.ty.width / 8) l (acc l) ∧
        (reads k → (i.sh.v l o.e).tag = false) ∧ (k = .xtr → o.g % 16 = 14 → (i.sh.v l o.e).bits.toNat < 2 ^ 22)
      let sent (k : ReqKind) (t : State) : Prop := ∃ rs, Sent s t rs ∧ t.ids = s.ids + i.on.length ∧ rs.length = i.on.length ∧
        (∀ x ∈ t.stores, StillWaits s x ∧ (x.2.isMark = false → ofLanes i.t i.j (maskOf i.on) x.2 = false)) ∧
        (∀ n < i.on.length,
          let l := i.on.getD n 0
          let r := rs.getD n {}
          r.id = s.ids + n ∧ r.kind = k ∧ r.src = .lane i.t i.j l i.seq ∧ r.pa = (acc l).2 ∧ r.trans = o.g % 16 ∧ r.ty = o.ty ∧
          r.e = (if reads k then (i.sh.v l o.e).bits else 0) ∧ r.dst = (if k = .stt then .none else .v (i.sh.ring l o.d))) ∧
        (t.sheafAt i.t i.j).pend = i.sh.pend ∧
        ∀ n < i.on.length, let st := (t.sheafAt i.t i.j).strand (i.on.getD n 0)
          st = { past 0 (i.sh.strand (i.on.getD n 0)) with
            pc := i.pc, run := .parked 0, park := .request (s.ids + n), acq := st.acq }
      let refused (k : ReqKind) (ins : Instr) : Prop := xRange o (k != .stt) (reads k) false i.sh.w = none → top k < o.g % 16 →
        ∃ t, exec ins s = .next t ∧ IssuedAs s t i (fun sh => sh.raise i.seq 0 (i.batch.map fun l => (l, 0x108, 0))) stay
      (ready .ldt → ∃ t, exec (.ldt c o) s = .next t ∧ sent .ldt t) ∧ refused .ldt (.ldt c o) ∧
      (ready .stt → ∃ t, exec (.stt c o) s = .next t ∧ sent .stt t) ∧ refused .stt (.stt c o) ∧
      (ready .xtr → ∃ t, exec (.xtr c o) s = .next t ∧ sent .xtr t) ∧ refused .xtr (.xtr c o)) ∧
    (∀ (b : Nat) (m : Nat → Mapping) (pa : Nat → Nat), o.base = some b → o.index = none → (i.sh.u b).tag = false →
      (i.sh.u o.e).tag = false →
      let k := (i.sh.u o.e).bits.toNat
      let im := imageOf ((List.range 4).flatMap fun n => (List.range 128).map fun x =>
        s.byteAt i.die (s.ownWrites i.tm i.j (maskOf i.on)) (pa n + x))
      k < 64 → (∀ n < 4, s.access i.core i.tm.vdev (i.sh.strand (i.on.headD 0)).refused true false false 128
          ((i.sh.u b).bits.toNat + 128 * n) = .ok (m n) (pa n) ∧ s.poisonAt (pa n) 128 = false ∧ (m n).grade = 8) →
      imageBad im = false →
      4 ≤ k → s.partDies i.tm.part ≠ [] → s.classImage ((s.partDies i.tm.part).headD 0) i.tm.part k = none →
      (∀ d ∈ s.partDies i.tm.part, (s.die d).tablesOf i.tm.part < s.shareOf i.tm.part d) →
      ∃ t, exec (.stbl c o) s = .next t ∧ LanesPast s t i (fun _ st => st) ∧
        (t.sheafAt i.t i.j).pend = i.sh.pend ++ [{ seq := i.seq }] ∧
        (∀ d ∈ s.partDies i.tm.part, t.classImage d i.tm.part k = some im) ∧
        (∀ d p q, (p, q) ≠ (i.tm.part, k) → t.classImage d p q = s.classImage d p q) ∧
        (i.tm.part, k, i.tm.launch) ∈ t.service.holders)

/-- R268, R269, R270, R271: the home judges the head of its queue by the object's class: a legal entry that permits the access is
performed, the object takes its state, the parked lane its result at PC + 8, and under REL what the lane has written is globally
visible first (R274); a PARK entry puts the request at the tail of the line's queue; another names the lane with staged-fault. R279: a withdrawal takes a request that its home has judged out of the
queue, and its lane stands at its instruction again. Which die stamps the data of an STT is read from R324 (log entry 47). -/
def Obligations.StagedService : Prop :=
  (∀ (s : State) (k t j l n : Nat) (r : Req) (rest : List Req) (tm : Team), (s.cluster k).halted = false →
    (s.cluster k).queue = r :: rest → (r.kind = .ldt ∨ r.kind = .stt ∨ r.kind = .xtr) → r.src = .lane t j l n → r.clock = [] →
    r.bad = false → homeOf r.pa = k → s.team? t = some tm → tm.key = t → j < tm.sheaves.length →
    l < (tm.sheaf j).strands.length → ((tm.sheaf j).strand l).run = .parked 0 →
    ((tm.sheaf j).strand l).park = .request r.id → (s.die (ownerOf r.pa)).inbox = [] → s.parked (lineOf r.pa) = [] →
    (s.cluster k).overflow = [] →
    let o := s.metaOf r.pa
    let st := (tm.sheaf j).strand l
    let served (u : State) : Prop := exec (.stagedRequest k) s = .next (u.settled t) ∧ (u.cluster k).queue = rest
    (∀ e, s.judge r = .done e → s.lineBad r.pa = false → eRel e = true → s.releaseClear r = true →
      ∃ u, served u ∧ u.metaOf r.pa = o.after r e ∧
        ((u.sheafAt t j).strand l).run = .active ∧ ((u.sheafAt t j).strand l).pc = st.pc + 8 ∧
        (∀ x ∈ u.stores, x.2.isMark = false → ofLanes t j (laneBit l) x.2 = false) ∧
        ∀ w ∈ (u.die r.die).unstamped, ofLanes t j (laneBit l) w = false) ∧
    (∀ e, s.judge r = .done e → s.lineBad r.pa = false → eRel e = false → ∃ u, served u ∧ u.metaOf r.pa = o.after r e ∧
      (u.sheafAt t j).strand l = { st with pc := st.pc + 8, run := .active, park := .nothing } ∧
      (r.kind = .ldt → r.dst = .v 0 → r.grade = 8 → (u.sheafAt t j).entryVal l 0 = {
        bits := extend r.ty (bytesNat ((List.range (r.ty.width / 8)).map fun x => (s.die (ownerOf r.pa)).view.get (r.pa + x)))
        tag := r.tag }) ∧
      (r.kind = .xtr → r.dst = .v 0 → (u.sheafAt t j).entryVal l 0 = {
        bits := BitVec.ofNat 64 ((o.after r e).word + o.state % 16 * 2 ^ 48) }) ∧
      (r.kind = .stt → r.grade = 8 → (s.die r.die).inbox = [] → ∀ a, (u.die r.die).view.get a =
        if r.pa ≤ a ∧ a < r.pa + r.ty.width / 8 then BitVec.ofNat 8 (r.e.toNat / 256 ^ (a - r.pa))
        else (s.die r.die).view.get a)) ∧
    (s.judge r = .park → s.parkedCount k < 4096 → ∃ u, served u ∧ u.parked (lineOf r.pa) = [r] ∧ u.metaOf r.pa = o ∧
      (u.sheafAt t j).strand l = st) ∧
    (s.judge r = .fault → ∃ u, served u ∧ u.metaOf r.pa = o ∧
      (u.sheafAt t j).strand l = { st with run := .active, park := .nothing } ∧
      ∃ q ∈ (u.sheafAt t j).traps, (l, 0x801, r.va) ∈ q.causes)) ∧
  (∀ (s : State) (t j l id : Nat) (tm : Team), s.team? t = some tm → tm.key = t → j < tm.sheaves.length →
    l < (tm.sheaf j).strands.length → tm.deciding = true → ((tm.sheaf j).strand l).run = .parked 0 →
    ((tm.sheaf j).strand l).park = .request id → s.remoteTag id = none →
    (∀ e ∈ s.clusters, ∀ r ∈ e.2.queue, r.id ≠ id) →
    ∃ u, exec (.requestWithdrawal t j l) s = .next u ∧
      (u.sheafAt t j).strand l = { (tm.sheaf j).strand l with run := .active, park := .nothing } ∧
      (u.sheafAt t j).safeAt.getLsbD l = ((tm.sheaf j).safeAt.getLsbD l || decide (l < 32)) ∧
      ∀ e ∈ u.dies, ∀ q ∈ e.2.parkq, ∀ r ∈ q.2, r.id ≠ id)

/-! ### Combine buffer -/

/-- R287 to R296, R304: CCFG, CSLOT, CSTAT, CFREE, CGATE and CPUT of good operands complete: CCFG configures a context over its
region, CSLOT gives each lane the next slot of the free queue (with none left a .n lane gets 0 and false, a .p lane parks with WHY
1), CGATE gates a slot, CSTAT reads it, CFREE abandons it, and CPUT's lanes put their rows in once the context has granted them
all, and park with WHY 6 until then. That the unit answers at the issue, and which handles are current, is read from the rules
(log entry 25). -/
def Obligations.CombineIssue : Prop :=
  ∀ (c : Ctl) (o : OpX) (s : State) (i : Iss), s.iss? c = some i → i.aG = [] → i.on ≠ [] → i.tm.key = i.t →
    (i.tm.guarded = none ∨ i.sh.cleared = true) →
    (∀ b r, o.index = none → o.base = some b → (i.sh.u b).tag = false → (i.sh.u o.e).tag = false →
      let w := (i.sh.u o.e).bits
      let va := (i.sh.u b).bits.toNat
      cwBad w = false → (s.die i.die).regions.find? (fun q => q.vdev == i.tm.vdev && q.va == va) = some r → r.grade = 8 →
      r.launch = some i.tm.launch → r.ctx = none → s.ctx? i.die (cwCtx w) = none →
      let n := min ((r.bytes - 4096) / cwSlotBytes w) (4096 - (s.die i.die).slotsTaken)
      n ≠ 0 → ∃ t, exec (.ccfg c o) s = .next t ∧ LanesPast s t i (fun _ st => st) ∧
        t.ctx? i.die (cwCtx w) = some { launch := i.tm.launch, cfg := w, region := va, regionPa := r.pa, s := n } ∧
        (t.die i.die).slotsTaken = (s.die i.die).slotsTaken + n ∧
        { r with ctx := some (cwCtx w) } ∈ (t.die i.die).regions) ∧
    (∀ x, s.ctx? i.die (o.g % 16) = some x → x.waiters = [] → (freeQueue x).Nodup → o.base = none → o.index = none → o.d < i.sh.w →
      let n : Bool := o.e / 64 % 2 = 1
      ∃ t ws y, exec (.cslot c o) s = .next t ∧ t.ctx? i.die (o.g % 16) = some y ∧
        (t.sheafAt i.t i.j).pend = i.sh.pend ++ (if ws = [] then [] else [{ seq := i.seq, writes := ws }]) ∧
        ∀ m < i.on.length,
          let l := i.on.getD m 0
          let e := i.sh.ring l o.d
          let st := (t.sheafAt i.t i.j).strand l
          match (freeQueue x)[m]? with
          | some k => Wr.v l e allOnes (handleWord s i.die (o.g % 16) x k) (some false) ∈ ws ∧
              (n → Wr.p l (o.e % 16) (some true) (some false) ∈ ws) ∧ st = past l (i.sh.strand l) ∧
              y.slot k = { gen := (x.slot k).gen, st := 1, alloc := x.nextAlloc + m }
          | none =>
            if n then Wr.v l e allOnes 0 (some false) ∈ ws ∧ Wr.p l (o.e % 16) (some false) (some false) ∈ ws ∧
              st = past l (i.sh.strand l)
            else st = { past l (i.sh.strand l) with pc := i.pc, run := .parked 1, park := .slot (o.g % 16) } ∧
              (i.t, i.j, l, e) ∈ y.waiters) ∧
    (∀ x : Nat → Ctx × CSlot, o.base = none → o.index = none → o.d < i.sh.w → o.e < i.sh.w →
      (∀ l ∈ i.on, i.combineCause s .stat o l = none ∧ (namesSlot s i o l (x l) ∨
        hQuery (i.sh.v l o.e).bits = true ∧ s.ctxOf (i.sh.v l o.e).bits = some (x l).1)) →
      ∃ t ws, exec (.cstat c o) s = .next t ∧ Issued s t i (i.outstanding none ws) past ∧ (∀ l x, Wr.f l x 0 ∉ ws) ∧
       WritesColumn i false o.d
        (fun l => if hQuery (i.sh.v l o.e).bits then
            BitVec.ofNat 64 ((x l).1.late * 2 ^ 42 + (x l).1.disc * 2 ^ 21 + ((x l).1.s - (x l).1.fresh + (x l).1.freed.length))
          else (x l).2.report)
        (fun _ => false) ws) ∧
    (∀ x : Nat → Ctx × CSlot, o.base = none → o.index = none → o.e < i.sh.w → (i.on.map (placeOf i o)).Nodup →
      (∀ l ∈ i.on, i.combineCause s .free o l = none ∧ namesSlot s i o l (x l)) →
      ∃ t, exec (.cfree c o) s = .next t ∧ LanesPast s t i (fun _ st => st) ∧ (t.sheafAt i.t i.j).pend = i.sh.pend ∧
        ∀ l ∈ i.on, ∃ y, t.slotAt (placeOf i o l) = some y ∧
          y.2 = { gen := nextGen (x l).2.gen, word := { (x l).2 with st := 5 }.status } ∧ (placeOf i o l).2.2 ∈ y.1.freed) ∧
    (∀ (x : Nat → Ctx × CSlot) (g : Nat → Gate), xRange o false true false i.sh.w = none → (i.on.map (placeOf i o)).Nodup →
      (∀ l ∈ i.on, i.combineCause s .gate o l = none ∧ namesSlot s i o l (x l) ∧
        (x l).2 = { gen := (x l).2.gen, st := 1, alloc := (x l).2.alloc } ∧
        gateRecord ((List.range 128).map fun n => i.tm.larderByte (i.xAddr o l + n)) s.time i.tm.vdev i.tm.phase = some (g l)) →
      ∃ t, exec (.cgate c o) s = .next t ∧ LanesPast s t i (fun _ st => st) ∧ (t.sheafAt i.t i.j).pend = i.sh.pend ∧
        ∀ l ∈ i.on, (t.slotAt (placeOf i o l)).map Prod.snd =
          some { (x l).2 with st := 2, gate := some (g l), expect := BitVec.ofNat 8 (2 ^ (g l).n - 1) }) ∧
    (∀ (d x : Nat) (k : Ctx), xRange o false true true i.sh.w = none → d < 16 → s.ctx? d x = some k →
      (∀ l ∈ i.on, i.combineCause s .put o l = none ∧ hDie (i.sh.v l o.e).bits = d ∧ hCtx (i.sh.v l o.e).bits = x ∧
        hPkg (i.sh.v l o.e).bits = s.ownPod % 2 ^ 14) →
      (∀ e < 16, (s.die e).granted = []) → (s.die d).poolQ = [] → (∀ l b, (i.sh.strand l).park ≠ .pool i.seq b) →
      let ask (l : Nat) : Contrib := {
        handle := (i.sh.v l o.e).bits, pos := (i.sh.v l o.g).bits.toNat % 8, src := .lane i.t i.j l i.seq, offset := i.xAddr o l }
      (s.poolUsed d x k + i.on.length ≤ cwPool k.cfg * k.s → ∃ t, exec (.cput c o) s = .next (State.settled t i.t) ∧
        (t.die d).input = (s.die d).input ++ i.on.map (fun l => { ask l with
          data := (List.range (hBytes (ask l).handle)).map fun n => i.tm.larderByte (i.xAddr o l + n) }) ∧
        (t.die d).poolQ = [] ∧ (t.die d).granted = [] ∧
        LanesPast s t i fun l st => if l ∈ i.on then { st with park := .nothing } else st) ∧
      (cwPool k.cfg * k.s ≤ s.poolUsed d x k → ∃ t, exec (.cput c o) s = .next t ∧ (t.die d).input = (s.die d).input ∧
        (t.die d).poolQ = i.on.map ask ∧
        LanesPast s t i fun l st => if l ∈ i.on then { st with pc := i.pc, run := .parked 6, park := .pool i.seq false } else st))

/-- R294, R296 to R304, R307: a freed slot goes to the first waiting lane; a pool grant lets a CPUT issue whose other lanes hold
theirs; an accepted contribution is held, or applied when it is the next position of a gated ZERO slot, and in RENORM mode all are
applied, in ascending order, with the last; a late one is counted; a passed deadline substitutes every missing position, and in
RENORM mode applies those present with their weights renormalised; a release writes the rounded row, keeps the status word and frees
the slot; with an error in the slot or a row that cannot be written it writes no row and sets ERR; a DONE transition carries the
status word, and one that cannot be performed is logged with the ERR bits. The order of a context's work in a mesh cycle is read
from the rules (log entry 25). -/
def Obligations.CombineService : Prop :=
  ∀ (s : State) (d x : Nat) (c : Ctx), s.ctx? d x = some c →
    (∀ t j l e r tm k q, c.waiters = (t, j, l, e) :: r → s.team? t = some tm → j < tm.sheaves.length →
      l < (tm.sheaf j).strands.length → ((tm.sheaf j).strand l).park = .slot x → freeQueue c = k :: q → e < 2048 → tm.key = t →
      ∃ u y, exec (.cslotGrant d x) s = .next u ∧ State.ctx? u d x = some y ∧ y.waiters = r ∧ freeQueue y = q ∧
        y.slot k = { gen := (c.slot k).gen, st := 1, alloc := c.nextAlloc } ∧
        (u.sheafAt t j).entryVal l e = { bits := handleWord s d x c k } ∧
        (u.sheafAt t j).strand l = { (tm.sheaf j).strand l with
          pc := ((tm.sheaf j).strand l).pc + 8, run := .active, park := .nothing }) ∧
    (∀ q t j l iss tm, (s.die d).poolQ = [q] → hCtx q.handle = x → q.src = .lane t j l iss → s.team? t = some tm → tm.key = t →
      d < 16 → (∀ e < 16, (s.die e).granted = []) → j < tm.sheaves.length → l < (tm.sheaf j).strands.length → l < 32 →
      (∀ n b, ((tm.sheaf j).strand n).park = .pool iss b ↔ n = l ∧ b = false) → s.poolUsed d x c < cwPool c.cfg * c.s →
      ∃ u, exec (.poolGrant d x) s = .next (State.settled u t) ∧ (u.die d).poolQ = [] ∧
        (u.die d).input = (s.die d).input ++ [{ q with
          data := (List.range (hBytes q.handle)).map fun n => tm.larderByte (q.offset + n) }] ∧
        (u.sheafAt t j).strand l = { (tm.sheaf j).strand l with
          pc := ((tm.sheaf j).strand l).pc + 8, run := .active, park := .nothing }) ∧
    (∀ q rest, (s.die d).input = q :: rest → hCtx q.handle = x → hDie q.handle = d → c.tookAt ≠ some s.time →
      (s.current q.handle = none → ∃ u y, exec (.contributionIntake d x) s = .next u ∧ (u.die d).input = rest ∧
        State.ctx? u d x = some y ∧ y.late = min (c.late + 1) 2097151 ∧ y.slots = c.slots ∧ y.tookAt = some s.time) ∧
      (∀ z, s.current q.handle = some (c, z) → q.pos < 8 → z.arrived.getLsbD q.pos = false →
        (z.gate = none → ∃ u, exec (.contributionIntake d x) s = .next u ∧ (u.die d).input = rest ∧
          (u.slotAt (d, x, hSlot q.handle)).map Prod.snd = some { z with
            arrived := z.arrived ||| BitVec.ofNat 8 (2 ^ q.pos), held := z.held ++ [(q.pos, q.data)] }) ∧
        (∀ g, z.gate = some g → c.renorm = false → z.ready = false → q.pos = z.next → z.next < g.n → z.held = [] →
          z.subst = 0 → (∀ n, z.next < n → z.arrived.getLsbD n = false) →
          ∃ u y, exec (.contributionIntake d x) s = .next u ∧ (u.slotAt (d, x, hSlot q.handle)).map Prod.snd = some y ∧
            y.next = z.next + 1 ∧ y.held = [] ∧ y.pres = z.pres ||| BitVec.ofNat 8 (2 ^ q.pos) ∧
            y.ready = decide (g.n ≤ z.next + 1) ∧
            ∀ k < c.d, y.pairs.val k (0, 0) = accumulatedRows c (z.pairs.val k (0, 0)) k [(val32 (g.wgt.getD q.pos 0), q.data)]) ∧
        (∀ g (rows : Nat → List Byte), z.gate = some g → c.renorm = true → z.ready = false → q.pos < g.n → rows q.pos = q.data →
          (∀ h ∈ z.held, h.1 ≠ q.pos) →
          (∀ j < g.n, j ≠ q.pos → z.arrived.getLsbD j = true ∧ z.held.find? (fun h => h.1 == j) = some (j, rows j)) → g.n ≤ 8 →
          ∃ u y, exec (.contributionIntake d x) s = .next u ∧ (u.slotAt (d, x, hSlot q.handle)).map Prod.snd = some y ∧
            y.ready = true ∧ ∀ k < c.d, y.pairs.val k (0, 0) =
              accumulatedRows c (z.pairs.val k (0, 0)) k ((List.range g.n).map fun j => (val32 (g.wgt.getD j 0), rows j))))) ∧
    (∀ k g, (c.slot k).gate = some g → g.n ≤ 8 → (c.slot k).next ≤ g.n → s.ctxPhased c = false →
      c.tookAt = some s.time → (c.slot k).ready = false →
      (∀ n, g.deadline = some n → n ≤ s.time → ∃ u y, exec (.combineDeadline d x k) s = .next u ∧
        (u.slotAt (d, x, k)).map Prod.snd = some y ∧ y.ready = true ∧ y.timedOut = true ∧
        (c.renorm = true →
          let here := (List.range g.n).filter fun j => (c.slot k).arrived.getLsbD j
          let sum := sumFV (here.map fun j => val32 (g.wgt.getD j 0))
          let weight (j : Nat) : FV :=
            let w := val32 (g.wgt.getD j 0)
            if sum.isZero then w else quotient32 w sum
          ∀ rows : Nat → List Byte, (∀ j ∈ here, (c.slot k).held.find? (fun h => h.1 == j) = some (j, rows j)) →
            ∀ m < c.d, y.pairs.val m (0, 0) = accumulatedRows c ((c.slot k).pairs.val m (0, 0)) m (here.map fun j => (weight j, rows j))) ∧
        (∀ j < 8, y.subst.getLsbD j = ((c.slot k).subst.getLsbD j || decide (j < g.n ∧ (c.slot k).arrived.getLsbD j = false)))) ∧
      (g.deadline = none ∨ (∃ n, g.deadline = some n ∧ s.time < n) → exec (.combineDeadline d x k) s = .next s)) ∧
    (∀ k g, c.releasableNow k = true → k ∉ freeQueue c → (c.slot k).gate = some g → g.done ≠ 0 →
      (c.slot k).bad = true ∨ s.rowLines g.vdev g.dest (c.d * (c.ofmt.width / 8)) = none →
      let err := if (c.slot k).bad then 4 else 1
      let kept (more : Nat) : CSlot := { c.slot k with st := if (c.slot k).timedOut then 4 else 3, err := err + more }
      let freed (u : State) (more : Nat) : Prop := ∃ y, State.ctx? u d x = some y ∧
        y.slot k = { gen := nextGen (c.slot k).gen, word := (kept more).status }
      (s.pageOf g.vdev g.done = none → ∃ u, exec (.slotRelease d x k) s = .next u ∧ freed u 2 ∧
        (∀ e a, (u.die e).view.get a = (s.die e).view.get a) ∧ ∃ r ∈ (u.die d).events, r.kind = 0x0307 ∧ r.detail = err + 2) ∧
      (∀ m e, s.pageOf g.vdev g.done = some m → m.w = true → ownerOf (m.paOf g.done) = d →
        let pa := lineOf (m.paOf g.done)
        isFabric pa = false → (s.die d).inbox = [] → s.parked pa = [] → s.lineBad pa = false →
        (∀ v t, s.judge { kind := .store, pa := pa, va := g.done, ty := .n64, trans := 0, e := v, die := d, clock := t } = .done e) →
        ∃ u, exec (.slotRelease d x k) s = .next u ∧ freed u 0 ∧ u.metaOf pa = (s.metaOf pa).after { kind := .store, trans := 0 } e ∧
          ∀ a, (u.die d).view.get a =
            if pa ≤ a ∧ a < pa + 8 then BitVec.ofNat 8 ((kept 0).status.toNat / 256 ^ (a - pa)) else (s.die d).view.get a)) ∧
    (∀ k g pa, c.releasableNow k = true → k ∉ freeQueue c → (c.slot k).bad = false → (c.slot k).gate = some g → g.done = 0 → c.d % 64 = 0 →
      let w := c.ofmt.width / 8
      s.rowLines g.vdev g.dest (c.d * w) = some ((List.range (c.d * w / 128)).map fun q => pa + 128 * q) →
      ∃ u y, exec (.slotRelease d x k) s = .next u ∧ State.ctx? u d x = some y ∧
        (∀ n < c.d, ∀ b < w, (u.die d).view.get (pa + n * w + b) =
          BitVec.ofNat 8 ((readPair c.ofmt .rne ((c.slot k).pairs.val n (0, 0))).1 / 256 ^ b)) ∧
        (∀ a, a < pa ∨ pa + c.d * w ≤ a → (u.die d).view.get a = (s.die d).view.get a) ∧
        y.slot k = { gen := nextGen (c.slot k).gen
                     word := { c.slot k with st := if (c.slot k).timedOut then 4 else 3, err := 0 }.status } ∧
        freeQueue y = freeQueue c ++ [k])

/-- R305: a slot's pairs depend on the contributions alone, not on the order in which they arrive. -/
def Obligations.CombineOrderIndependence : Prop :=
  ∀ (c : Ctx) (k : Nat) (g : Gate) (xs ys : List (Nat × List Byte)), (c.slot k).gate = some g → g.n ≤ 8 →
    (c.slot k).ready = false → (c.slot k).next = 0 → (c.slot k).held = [] → (c.slot k).arrived = 0 → (c.slot k).subst = 0 →
    xs.Perm ys → (xs.map Prod.fst).Nodup → (∀ p ∈ xs, p.1 < g.n) →
    let take (c : Ctx) (p : Nat × List Byte) : Ctx :=
      let z := c.slot k
      (c.setSlot k { z with arrived := z.arrived ||| BitVec.ofNat 8 (2 ^ p.1), held := z.held ++ [p] }).advance k
    let fin (l : List (Nat × List Byte)) : CSlot := (l.foldl take c).slot k
    let out (l : List (Nat × List Byte)) : CSlot := (((l.foldl take c).timeOut k).slot k)
    (∀ n, (fin xs).pairs.val n (0, 0) = (fin ys).pairs.val n (0, 0)) ∧ (fin xs).pres = (fin ys).pres ∧
    (fin xs).ready = (fin ys).ready ∧
    ∀ n, (out xs).pairs.val n (0, 0) = (out ys).pairs.val n (0, 0)

/-! ### Package -/

/-- R332, R333, R386: SETTLE takes the next number and a cover of every earlier one's and of its die's clock, with its lanes' stores
performed and stamped before it, and waits; at .system it asks every package that its lanes have reached, with what they answered
(R373); CODESYNC drops the fetched words of the cores in its scope, at .package once every
die has applied; SNAP takes a snapshot, or counts as missed. R71: the nine privileged instructions take privilege in every
lane where the launch may not issue them, and have not issued. -/
def Obligations.SettleAndPrivilege : Prop :=
  (∀ (c : Ctl) (o : OpS) (s : State) (i : Iss), s.iss? c = some i → i.on ≠ [] →
    let mine := ofLanes i.t i.j (maskOf i.on)
    let before (t : State) : Prop := (∀ x ∈ t.stores, mine x.2 = true → x.2.isMark = true ∧ x.2.sys = true) ∧
      ∀ w ∈ (t.die i.die).unstamped, mine w = false
    (i.tm.guarded = none ∨ i.sh.cleared = true →
      (let pkgs := if o.scope = .system then i.reached else []
       ∃ t m, exec (.settle c o) s = .next t ∧ BatchPast t i ∧ before t ∧
        (t.sheafAt i.t i.j).pend = i.sh.pend ++ [{ seq := i.seq, ready := false }] ∧ t.settleN = s.settleN + 1 ∧
        t.settles = s.settles ++ [m] ∧ t.settleCover = m.cover ∧ m.n = s.settleN + 1 ∧ m.t = i.t ∧ m.j = i.j ∧ m.seq = i.seq ∧
        m.remote.length = pkgs.length ∧
        (∀ n < pkgs.length, ∃ q ∈ t.fabric.outbox, q.dest = pkgs.getD n 0 ∧ q.msg.op = 12 ∧ q.msg.tag = m.remote.getD n 0 ∧
          ∀ d < 16, q.msg.clock.getD d 0 = ((s.die i.die).covers.val q.dest []).getD d 0) ∧
        ∀ d < 16, m.cover.getD d 0 = max (s.settleCover.getD d 0) ((t.die i.die).vc.getD d 0)) ∧
      (o.scope ≠ .package → ∃ t, exec (.codesync c o) s = .next t ∧ BatchPast t i ∧ before t ∧
        (t.sheafAt i.t i.j).pend = i.sh.pend ++ [{ seq := i.seq }] ∧
        ∀ k, (t.core k).ibuf = if inScope o.scope i.core k then [] else (s.core k).ibuf) ∧
      (o.scope = .package → ∃ t f, exec (.codesync c o) s = .next t ∧ BatchPast t i ∧ before t ∧
        (t.sheafAt i.t i.j).pend = i.sh.pend ++ [{ seq := i.seq, ready := false }] ∧ t.finishes = s.finishes ++ [f] ∧
        f.cover = (t.die i.die).clock ∧ f.sync = some (.package, i.core) ∧ f.t = i.t ∧ f.j = i.j ∧ f.seq = i.seq)) ∧
    (i.tm.priv = true ∨ i.tm.debug = true → ∃ t, exec (.snap c o) s = .next t ∧ BatchPast t i ∧
      (t.sheafAt i.t i.j).pend = i.sh.pend ++ [{ seq := i.seq }] ∧
      t.snapshot = if s.snapshot.held then { s.snapshot with missed := min 255 (s.snapshot.missed + 1) }
        else { held := true, code := o.sel % 256, core := i.core, source := 0, time := s.time, blocks := (i.mark s).blocks })) ∧
  (∀ (i : Iss), (∀ p, p ∈ i.reached ↔ ∃ l ∈ i.on, p ∈ (i.sh.strand l).pkgs) ∧ i.reached.Nodup) ∧
  (∀ (s : State) (n : Nat) (m : Settle) (tm : Team), s.settles.find? (fun x => x.n == n) = some m → s.team? m.t = some tm →
    m.j < tm.sheaves.length →
    let due : Prop := (∀ x ∈ s.settles, n ≤ x.n) ∧ s.allApplied m.cover = true ∧ m.remote = []
    (due → ∃ u, exec (.settleComplete n) s = .next u ∧ u.settles = s.settles.filter (fun x => x.n != n) ∧
      (u.sheafAt m.t m.j).pend = (tm.sheaf m.j).pend.map fun p => if p.seq = m.seq then { p with ready := true } else p) ∧
    (¬ due → exec (.settleComplete n) s = .next s)) ∧
  (∀ (ins : Instr) (c : Ctl) (debug : Bool) (s : State) (i : Iss), privilegedRow ins = some (c, debug) → s.iss? c = some i →
    i.tm.priv = false → (debug = true → i.tm.debug = false) →
    exec ins s = .next (s.modSheaf i.t i.j fun sh => sh.raise i.seq 0 (i.batch.map fun l => (l, 0x301, 0))))

/-- R337 to R341: TLBINV of a good operand completes: it removes the translations that its operand names from the buffers of its
scope. MAPCTL that a status refuses completes: it writes the status and changes no page. MAPCTL's MAP, UNMAP, PROTECT and MIGRATE
that no status refuses complete: MAP of a fresh page zeroes it and installs it once every die has applied that; MAP of an
alias or a fabric page, UNMAP and PROTECT take effect and write status 0; MIGRATE copies the page's bytes, and installs the
new place once every die has applied them: until each die's clock covers what the operation wrote it waits, then its page is mapped
and its result returns. Which of several statuses is given, and what an operation waits for, is read from the rules (log entry
16). -/
def Obligations.PageOperations : Prop :=
  (∀ (c : Ctl) (o : OpS) (s : State) (i : Iss), s.iss? c = some i → i.on ≠ [] → i.tm.priv = true → o.b.uni = true →
    (i.sh.u o.b.idx).tag = false → tlbBad (i.sh.u o.b.idx).bits = false →
    ∃ t f, exec (.tlbinv c o) s = .next t ∧ BatchPast t i ∧
      (t.sheafAt i.t i.j).pend = i.sh.pend ++ [{ seq := i.seq, ready := false }] ∧ t.finishes = s.finishes ++ [f] ∧
      f.t = i.t ∧ f.j = i.j ∧ f.seq = i.seq ∧ t.pages = s.pages ∧
      (∀ d < 16, o.scope ≠ .die ∨ d = i.die → Shot t d (tlbNames (i.sh.u o.b.idx).bits)) ∧
      (o.scope = .die → ∀ d, d ≠ i.die → (t.die d).tlb = (s.die d).tlb)) ∧
  (∀ (ins : Instr) (op : PageOp) (c : Ctl) (o : OpS) (s : State) (i : Iss), mapctlRow ins = some (op, c, o) →
    s.iss? c = some i → i.on ≠ [] → i.tm.priv = true → o.b.uni = true → o.b.idx ≤ 61 → o.sel = op.sel →
    (∀ k < 3, (i.sh.u (o.b.idx + k)).tag = false) →
    let w0 := (i.sh.u o.b.idx).bits
    let w1 := (i.sh.u (o.b.idx + 1)).bits
    let w2 := (i.sh.u (o.b.idx + 2)).bits
    let n := askedMapping w0 w1 w2
    let same (m : Mapping) : Bool := m.vdev == n.vdev && m.va == n.va
    let answered (t : State) (v : Nat) (ready : Bool) : Prop := BatchPast t i ∧ (t.sheafAt i.t i.j).pend =
      i.sh.pend ++ [{ seq := i.seq, ready := ready, writes := [Wr.u o.d allOnes (BitVec.ofNat 64 v) (some (!i.aG.isEmpty))] }]
    mapBad op w0 w1 w2 = false →
    (∀ st, s.mapRefuses op w0 w1 w2 = some st → ∃ t, exec ins s = .next t ∧ answered t st true ∧ t.pages = s.pages ∧
      t.finishes = s.finishes) ∧
    (s.mapRefuses op w0 w1 w2 = none → s.finishes = [] → s.stores = [] → s.outstanding = [] → s.loads = [] → s.fabric.copies = [] →
      (∀ e ∈ s.dies, e.2.parkq = [] ∧ e.2.unstamped = []) → (∀ e ∈ s.teams, ∀ g, e.2.guarded = some g → g.share = []) → s.memWf →
      (∀ p ∈ i.sh.pend, p.seq ≠ i.seq) →
      (op = .map → w2.getLsbD 8 = true ∨ isFabric n.pa = true → ∃ t, exec (.mapctlMap c o) s = .next t ∧ answered t 0 true ∧
        n ∈ t.pages ∧ t.finishes = [] ∧ ∀ d a, (t.die d).view.get a = (s.die d).view.get a) ∧
      (op = .map → w2.getLsbD 8 = false → isFabric n.pa = false →
        (let d := ownerOf n.pa
         ∃ e < 16, e ≠ d ∧ ((s.die e).vc.getD d 0 < (s.die d).vc.getD d 0 ∨
           (s.die e).vc.getD d 0 = (s.die d).vc.getD d 0 ∧ (s.die d).stampedAt ≠ some s.time)) →
        ∃ t f, exec (.mapctlMap c o) s = .next t ∧ answered t 0 false ∧ t.pages = s.pages ∧ t.finishes = [f] ∧ f.map = some n ∧
          f.t = i.t ∧ f.j = i.j ∧ f.seq = i.seq ∧ f.drain = [] ∧ f.copy = none ∧ f.cover = (t.die (ownerOf n.pa)).clock ∧
          ∀ a, (t.die (ownerOf n.pa)).view.get a = if n.pa ≤ a ∧ a < n.pa + n.size then 0 else (s.die (ownerOf n.pa)).view.get a) ∧
      (op = .unmap → ∃ t, exec (.mapctlUnmap c o) s = .next t ∧ answered t 0 true ∧ t.pages = s.pages.filter (fun m => !same m) ∧
        (∀ d < 16, Shot t d (tlbNames w0)) ∧ ∀ d a, (t.die d).view.get a = (s.die d).view.get a) ∧
      (op = .protect → ∃ t, exec (.mapctlProtect c o) s = .next t ∧ answered t 0 true ∧ (∀ d < 16, Shot t d (tlbNames w0)) ∧
        (∀ m ∈ t.pages, same m = true → m.r = n.r ∧ m.w = n.w ∧ m.x = n.x) ∧
        t.pages.filter (fun m => !same m) = s.pages.filter (fun m => !same m)) ∧
      (∀ old, op = .migrate → s.pages.find? same = some old → old.grade = 8 → old.size = n.size →
        (s.die (ownerOf old.pa)).inbox = [] →
        ∃ t f, exec (.mapctlMigrate c o) s = .next t ∧ answered t 0 false ∧ t.finishes = [f] ∧ f.map = some { old with pa := n.pa } ∧
        f.t = i.t ∧ f.j = i.j ∧ f.seq = i.seq ∧ f.drain = [] ∧ f.copy = none ∧ f.cover = (t.die (ownerOf old.pa)).clock ∧
        (∀ d < 16, Shot t d (tlbNames w0)) ∧
        (∀ m ∈ t.pages, same m = true → m.migrating = true) ∧
        ∀ k < old.size, (t.die (ownerOf old.pa)).view.get (n.pa + k) = (s.die (ownerOf old.pa)).view.get (old.pa + k)))) ∧
  (∀ (s : State) (d src : Nat) (f : Finish) (n : Mapping) (tm : Team), s.finishes = [f] → f.drain = [] → f.copy = none →
    f.map = some n → f.sync = none → s.team? f.t = some tm → f.j < tm.sheaves.length →
    ∃ u, exec (.writeApply d src) s = .next u ∧
      let reached : Prop := ∀ e < 16, ∀ q < 16, f.cover.getD q 0 ≤ (u.die e).vc.getD q 0
      (reached → n ∈ u.pages ∧ u.finishes = [] ∧ (∀ b, f.busy = some b → u.service.mapBusy = s.service.mapBusy.erase b) ∧
        (u.sheafAt f.t f.j).pend = (tm.sheaf f.j).pend.map fun p => if p.seq = f.seq then { p with ready := true } else p) ∧
      (¬ reached → u.finishes = [f] ∧ u.pages = s.pages ∧ (u.sheafAt f.t f.j).pend = (tm.sheaf f.j).pend))

/-- R324 to R326, R335, R394: a write that no earlier unstamped one overlaps is stamped with one increment of its die's clock and
sent to every other die; a die applies the next write of another die when its clock covers all the others', and each byte
takes it when its key is the greater. A walk whose page is mapped fills the buffers of its cores and frees its lanes; one
whose page is not is asked of the service, which maps pages of the regions that ALLOC and .alloc lines allocated, zeroed, and refuses all others;
one that had been mapped comes back with what it held. Writes that become globally visible on a die in one mesh cycle share one
stamp (R389). What the service maps for a fault is the model's choice (log entry 17); until when writes share a cycle's stamp is
read from R324 (log entry 47). -/
def Obligations.StampsAndWalks : Prop :=
  (∀ (s : State) (d n : Nat) (w : Write), d < 16 → (s.die d).unstamped[n]? = some w →
    (∀ x ∈ (s.die d).unstamped.take n, x.overlaps w = false) →
    let shares : Prop := (s.die d).stampedAt = some s.time ∧
      ∀ e < 16, e ≠ d → ∃ m ∈ (s.die e).inbox, m.die = d ∧ m.stamp = (s.die d).clock
    ∃ u, exec (.writeStamp d n) s = .next u ∧ (u.die d).unstamped = (s.die d).unstamped.eraseIdx n ∧
      (¬ shares → ∀ k < 16, (u.die d).vc.getD k 0 = (s.die d).vc.getD k 0 + if k = d then 1 else 0) ∧
      (shares → ∀ k < 16, (u.die d).vc.getD k 0 = (s.die d).vc.getD k 0) ∧
      (∀ e < 16, e ≠ d → (u.die e).vc = (s.die e).vc ∧
        (¬ shares → (u.die e).inbox = (s.die e).inbox ++ [{ die := d, stamp := (u.die d).clock, writes := [w] }]) ∧
        (shares → (u.die e).inbox = (s.die e).inbox.map fun m =>
          if m.die = d ∧ m.stamp = (s.die d).clock then { m with writes := m.writes ++ [w] } else m)) ∧
      (∀ e a, (u.die e).view.get a = (s.die e).view.get a) ∧
      (w.zeros = 0 → ∀ a, w.pa ≤ a → a < w.pa + w.bytes.length → (u.die d).keys.val a (0, 0) = (stampSum (u.die d).clock, d))) ∧
  (∀ (s : State) (d src : Nat) (m : Stamped) (w : Write), d < 16 → src < 16 → s.finishes = [] →
    (s.die d).inbox.find? (fun x => x.die == src && (s.die d).canApply x) = some m → m.writes = [w] → w.zeros = 0 →
    ∃ u, exec (.writeApply d src) s = .next u ∧ (u.die d).inbox = (s.die d).inbox.erase m ∧
      (∀ k < 16, (u.die d).vc.getD k 0 = if k = src then m.stamp.getD src 0 else (s.die d).vc.getD k 0) ∧
      ∀ a, (u.die d).view.get a =
        if w.pa ≤ a ∧ a < w.pa + w.bytes.length ∧ (s.die d).localByte a = false ∧
          keyBelow ((s.die d).keyOf a) (stampSum m.stamp, src) = true then w.bytes.getD (a - w.pa) 0
        else (s.die d).view.get a) ∧
  (∀ (s : State) (d src : Nat), s.finishes = [] → (∀ m ∈ (s.die d).inbox, m.die = src → (s.die d).canApply m = false) →
    ∃ u, exec (.writeApply d src) s = .next u ∧ ∀ e, u.die e = s.die e) ∧
  (∀ (s : State) (d vdev page : Nat) (w : Walk), s.finishes = [] →
    (s.die d).walks.find? (fun x => x.vdev == vdev && x.page == page) = some w →
    let pooled : Prop := w.asked = true ∨ w ∈ ((s.die d).walks.filter fun x => !x.asked).take 64
    (¬ pooled → exec (.walkComplete d vdev page) s = .next s) ∧
    (∀ m, pooled → s.pages.find? (fun x => x.hasPage w) = some m → m.migrating = false → ∃ u, exec (.walkComplete d vdev page) s = .next u ∧
      (u.die d).walks = (s.die d).walks.erase w ∧
      ∀ e ∈ w.lanes, ∀ tm, s.team? e.1 = some tm → e.2.1 < tm.sheaves.length → e.2.2 < (tm.sheaf e.2.1).strands.length →
        m ∈ (u.core tm.core).tlb ∧
        ∀ a, ((tm.sheaf e.2.1).strand e.2.2).run = .parked 5 → ((tm.sheaf e.2.1).strand e.2.2).park = .page vdev a →
          a / 65536 = page → (u.sheafAt e.1 e.2.1).strand e.2.2 =
            { (tm.sheaf e.2.1).strand e.2.2 with run := .active, park := .nothing, refused := none }) ∧
    (pooled → s.pages.find? (fun x => x.hasPage w) = none → ∃ u, exec (.walkComplete d vdev page) s = .next u ∧
      (u.die d).walks = (s.die d).walks.map (fun x => if x = w then { x with asked := true } else x) ∧ u.teams = s.teams)) ∧
  (∀ (s : State) (d vdev page : Nat) (w : Walk), s.finishes = [] →
    (s.die d).walks.find? (fun x => x.vdev == vdev && x.page == page && x.asked) = some w →
    (∀ b ∈ s.service.mapBusy, ¬ (b.1 = vdev ∧ b.2.1 < page * 65536 + 65536 ∧ page * 65536 < b.2.1 + b.2.2)) →
    (∀ m ∈ s.pages, m.hasPage w = false) →
    ((∀ g ∈ s.service.regions, ¬ (g.asked = true ∧ g.vdev = vdev ∧ g.va ≤ page * 65536 ∧ page * 65536 < g.va + g.bytes)) →
      ∃ u, exec (.faultService d vdev page) s = .next u ∧ (u.die d).walks = (s.die d).walks.erase w ∧
        ∀ e ∈ w.lanes, ∀ tm a, s.team? e.1 = some tm → e.2.1 < tm.sheaves.length → e.2.2 < (tm.sheaf e.2.1).strands.length →
          ((tm.sheaf e.2.1).strand e.2.2).run = .parked 5 → ((tm.sheaf e.2.1).strand e.2.2).park = .page vdev a →
          a / 65536 = page → (u.sheafAt e.1 e.2.1).strand e.2.2 =
            { (tm.sheaf e.2.1).strand e.2.2 with run := .active, park := .nothing, refused := some page }) ∧
    (∀ g, s.service.regions.find? (fun g => g.asked && g.vdev == vdev && g.va ≤ page * 65536 && page * 65536 < g.va + g.bytes) =
        some g →
      (∀ m, s.keptPage g vdev (page * 65536) = some m → ∃ u, exec (.faultService d vdev page) s = .next u ∧ m ∈ u.pages ∧
        u.finishes = [] ∧ ∀ e, (u.die e).view = (s.die e).view) ∧
      (s.keptPage g vdev (page * 65536) = none → (s.takeFrame g.die = none → exec (.faultService d vdev page) s = .next s) ∧
        ∀ pa, s.takeFrame g.die = some pa → ∃ u f n, exec (.faultService d vdev page) s = .next u ∧ u.finishes = [f] ∧
          f.cover = (u.die (ownerOf pa)).clock ∧ f.map = some n ∧ n.vdev = vdev ∧ n.va = page * 65536 ∧ n.size = 65536 ∧ n.pa = pa ∧ n.r = true ∧ n.w = true ∧
          n.grade = g.grade ∧ (∀ m ∈ s.pages, m.pa + m.size ≤ pa ∨ pa + 65536 ≤ m.pa) ∧
          ∀ a, pa ≤ a → a < pa + 65536 → (u.die (ownerOf pa)).view.get a = 0)))

/-! ### Launches -/

/-- R343 to R345: LNCH of a record that breaks no rule numbers the launch, which waits; a record that breaks one is refused with
the first of the reasons 1, 2, 3, 4, 6, and nothing of it remains (reason 4 where there is no room for its regions is the model's
choice, log entry 36). R345, R346, R362: a launch runs once every launch that it
waits for is complete; a phase ends, and the next begins, when every team that it let start has ended and nothing of them is
left; a launch completes then in its last phase, and its completion record reads DONE, KILLED and CAUSE. What the record's address
must be, what a launch takes over, and the order of its completion is read from the rules (log entries 26 and 27). -/
def Obligations.LaunchAcceptanceAndProgress : Prop :=
  (∀ (c : Ctl) (o : OpS) (s : State) (i : Iss) (bs : List Byte), s.iss? c = some i → i.on ≠ [] → i.tm.priv = true → o.b.uni = true →
     (i.sh.u o.b.idx).tag = false →
     let a := (i.sh.u o.b.idx).bits.toNat
     a % 128 = 0 → RecordRead s i a bs →
     let vdev := field bs 9 1
     let part := field bs 10 1
     let n := s.service.nextLaunch
     let after := ((List.range 4).map fun k => field bs (0x20 + 8 * k) 8).filter fun x => x != 0
     let code := s.service.codes.find? fun q => q.addr == field bs 0 8 && q.vdev == vdev
     let refusedWith (r : Nat) : Prop := ∃ t, exec (.lnch c o) s = .next t ∧ UniformAnswer t i o.d (refusalWord r) true ∧
       t.launches = s.launches ∧ t.service.nextLaunch = n
     let fieldsBad : Prop := recordBad bs = true ∨ ∃ k < field bs 8 1, entryFieldsBad bs k = true
     (fieldsBad → refusedWith 1) ∧
     (¬ fieldsBad → code = none → refusedWith 2) ∧
     (∀ co, ¬ fieldsBad → code = some co →
       let gs := co.stages.zipIdx.map fun x => stageOf bs x.2 x.1
       (co.stages.length ≠ field bs 8 1 → refusedWith 1) ∧
       ((∃ g ∈ gs, s.entryBad vdev g = true) → refusedWith 1) ∧
       (co.stages.length = field bs 8 1 → (∀ g ∈ gs, s.entryBad vdev g = false) →
         ((∀ p ∈ s.service.parts, p.part ≠ part) → refusedWith 3) ∧
         (∀ p, s.service.parts.find? (fun x => x.part == part) = some p → p.vdev = vdev →
           (∀ g ∈ gs, ∀ d < 16, g.dies.testBit d = true → d ∈ s.partDies part) → (∀ d ∈ co.dies, d ∈ s.partDies part) →
           ((∃ g ∈ gs, s.stageFits part g = false) → refusedWith 4) ∧
           ((∀ g ∈ gs, s.stageFits part g = true) → s.makeRoom vdev co.addr (s.partDies part) gs = none → refusedWith 4) ∧
           ((∀ g ∈ gs, s.stageFits part g = true) → (∃ q, s.makeRoom vdev co.addr (s.partDies part) gs = some q) → (∃ x ∈ after, n ≤ x) →
             refusedWith 6)))) ∧
     (∀ co, GoodLaunch s bs co → ∃ t l, exec (.lnch c o) s = .next t ∧ UniformAnswer t i o.d (BitVec.ofNat 64 n) true ∧
       Launched s t bs co l)) ∧
  (∀ (s : State) (n : Nat) (l : Launch), s.launch? n = some l → (∀ k, ∀ x ∈ (s.cluster k).reorder, x.bad = false) →
     let idle : Prop := l.state = 1 ∧ s.launchIdle l = true
     (l.state = 0 → (∀ a ∈ l.after, ∀ x, s.launch? a = some x → x.state = 2) →
       ∃ u : State, exec (.launchRun n) s = .next u ∧ u.launch? n = some { l with state := 1 } ∧
         ∀ k, k ≠ n → u.launch? k = s.launch? k) ∧
     (l.state ≠ 0 ∨ (∃ a ∈ l.after, ∃ x, s.launch? a = some x ∧ x.state ≠ 2) → exec (.launchRun n) s = .next s) ∧
     (l.phased = true → idle → (∃ g ∈ l.stages, l.teamLimit g < g.teams) → ∃ (u : State) (x : Launch),
       exec (.phaseAdvance n) s = .next u ∧ u.launch? n = some x ∧ x.phase = l.phase + 1 ∧ x.state = 1 ∧ x.clock = u.allClocks ∧
       ∀ d < 16, (u.die d).unstamped = []) ∧
     (l.phased = false ∨ ¬ idle → exec (.phaseAdvance n) s = .next s) ∧
     (idle → (∀ g ∈ l.stages, g.teams ≤ l.teamLimit g) → ∃ (u : State) (x : Launch), exec (.launchComplete n) s = .next u ∧
       u.launch? n = some x ∧ x.state = 2 ∧ (∀ g ∈ u.service.regions, ¬ (g.vdev = l.vdev ∧ g.va = l.spill)) ∧
       ∀ m, s.ctxsOf n = [] → (∀ d, ∀ r ∈ (s.die d).regions, r.launch ≠ some n) → l.signal = 0 →
         s.pageOf l.vdev l.compl = some m → isFabric (m.paOf l.compl) = false → m.grade = 8 →
         ∀ k < 16, (u.die (ownerOf (m.paOf l.compl))).view.get (m.paOf l.compl + k) =
           (natBytes 4 l.done ++ natBytes 4 l.killed ++ natBytes 2 l.cause ++ List.replicate 6 0).getD k 0) ∧
     ((∃ g ∈ l.stages, l.teamLimit g < g.teams) ∨ ¬ idle → exec (.launchComplete n) s = .next s))

/-- R347, R348: a team of the one wanting stage goes to an accepting core of the die with the fewest teams of the stage, and there
with the fewest teams; a new team takes the next lid.team and, where items are left for all its lanes, a strand for each
item, in ascending order, at its role's entry vector, with its stage's arguments as uniforms; a team that the scheduler saved
goes before it, with the saved teams of its chains beside it (R246). Teams are placed at interval boundaries and where some core's
resources have freed since the last mesh cycle, and at no other time. The order of slots, granules and saved teams is read from
the rules (log entry 29). -/
def Obligations.PlacementOfTeams : Prop :=
  (∀ s : State, s.time % 20000 ≠ 0 → s.roomGrew = false → exec .placement s = .next s) ∧
  ∀ (s : State) (l : Launch) (k : Nat) (g : StageRun), s.wantingStages = [(l, k, g)] → s.launch? l.n = some l →
    s.time % 20000 = 0 ∨ s.roomGrew = true →
    let best (cs : List Nat) (c : Nat) : Prop := c ∈ cs ∧ ∀ x ∈ cs,
      s.stageTeamsOn l.n k (dieOfCore c) ≤ s.stageTeamsOn l.n k (dieOfCore x) ∧
      (dieOfCore x = dieOfCore c → (s.teamsOn c).length ≤ (s.teamsOn x).length)
    (∀ co, s.schedSaved l.n k = [] → s.accepting l k g g.st.need ≠ [] → g.nextLid < l.teamLimit g →
      s.service.codes.find? (fun o => o.addr == l.code && o.vdev == l.vdev) = some co →
      let lid := g.nextLid
      let t := teamKey l.n k lid
      ∃ (u : State) (core : Nat), exec .placement s = .next u ∧ best (s.accepting l k g g.st.need) core ∧
        (∃ x, u.stageRun? l.n k = some x ∧ x.nextLid = lid + 1) ∧
        (0 < g.st.sheaves → l.phased = false → g.item + 32 * g.st.sheaves ≤ g.st.items → (s.die (dieOfCore core)).inbox = [] →
          ∃ tm, u.team? t = some tm ∧ tm.core = core ∧ tm.die = dieOfCore core ∧ tm.lid = lid ∧ tm.launch = l.n ∧
            tm.sheaves.length = g.st.sheaves ∧ ∀ j < g.st.sheaves, ∀ n < 32,
              ((tm.sheaf j).strand n).run = .active ∧
              ((tm.sheaf j).strand n).pc = BitVec.ofNat 48 (co.code + ((g.st.role? 0).getD {}).entry) ∧
              (tm.sheaf j).v n 0 = { bits := BitVec.ofNat 64 (g.item + 32 * j + n) } ∧
              ∀ q < 64, ((tm.sheaf j).u q).tag = false ∧ (g.args = 0 → ((tm.sheaf j).u q).bits = 0) ∧
                ∀ m, g.args ≠ 0 → s.pageOf l.vdev (g.args + 8 * q) = some m → m.grade = 8 →
                  ((tm.sheaf j).u q).bits =
                    BitVec.ofNat 64 ((s.die (dieOfCore core)).view.getNat (m.paOf (g.args + 8 * q)) 8))) ∧
    (∀ v rest, s.schedSaved l.n k = v :: rest →
      let cs := (s.accepting l k g v.team.need).filter fun c => s.takesSaved v c && (s.restoreWith v c).isSome
      cs ≠ [] → (s.saved.map fun y => y.team.key).Nodup → ∃ (u : State) (core : Nat), exec .placement s = .next u ∧ best cs core ∧
        (∀ y ∈ u.saved, y.team.key ≠ v.team.key) ∧
        (Lives v → ∃ x, u.team? v.team.key = some x ∧ x.core = core ∧ x.die = dieOfCore core ∧ x.lid = v.team.lid ∧
          x.sheaves.length = v.team.sheaves.length) ∧
        (∀ y ∈ s.saved, y.bySavectx = false → y.team.launch = v.team.launch → y.team.key ≠ v.team.key →
          (∃ q ∈ v.team.chainKeys, q ∈ y.team.chainKeys) → (∀ z ∈ u.saved, z.team.key ≠ y.team.key) ∧
            (Lives y → ∃ x, u.team? y.team.key = some x ∧ clusterOfCore x.core = clusterOfCore core)) ∧
        ∃ x, u.stageRun? l.n k = some x ∧ x.nextLid = g.nextLid)

/-! ### Pre-emption and contexts -/

/-- R351 to R353, R357: the capture of a team whose lanes all stand takes it off its core as a saved team, with its strands and
its live registers; for a SAVECTX its record, with its header, streams to where its operand says. A decision is withdrawn 10 µs
after it, but for a resize, and a SAVECTX answers 3, one that waits with a resize too; a resize kills its team 20 µs after. R111: the management service
ends a team with the cause of the sheaf it holds. Which decision stands where two meet, and when a capture leaves, is read from
the rules (log entry 28). -/
def Obligations.CaptureAndKill : Prop :=
  ∀ (s : State) (t : Nat) (tm : Team), s.team? t = some tm → tm.key = t → NoChains s →
    (∀ since why rec_ w, tm.preempt = .decided since why rec_ w → (why = 0 ∨ why = 3) → Rests tm → ∃ (u : State) (v : Saved),
      exec (.capture t) s = .next u ∧ u.team? t = none ∧ u.saved = s.saved ++ [v] ∧ v.team.key = t ∧
      v.bySavectx = decide (why = 3) ∧ v.at_ = s.time ∧
      (∀ j < tm.sheaves.length, ∀ l < 32, (v.team.sheaf j).strand l = (tm.sheaf j).strand l ∧
        ∀ k < (tm.sheaf j).w, (tm.sheaf j).allot ≤ 2048 → ((tm.sheaf j).strand l).run ≠ .vacant →
          (s.liveOfSheaf tm (tm.sheaf j)).v.getLsbD k = true → (v.team.sheaf j).v l k = (tm.sheaf j).v l k) ∧
      (why = 3 → v.record = rec_ ∧ ∀ x m, s.team? w.1 = some x → w.1 ≠ t → s.pageOf x.vdev rec_ = some m →
        isFabric (m.paOf rec_) = false →
        let p := m.paOf rec_
        ∃ sv ∈ (u.die (ownerOf p)).saves, sv.team = t ∧ sv.moved = false ∧
          sv.ask = some { since := since, record := rec_, t := w.1, j := w.2.1, seq := w.2.2 } ∧
          sv.bytes.length = v.size ∧ sv.bytes.take 8 = [0x53, 0x41, 0x56, 0x45, 0, 1, 1, 0] ∧
          field sv.bytes 8 4 = tm.launch % 2 ^ 32 ∧ field sv.bytes 0x0C 1 = tm.stage % 256 ∧ field sv.bytes 0x10 4 = tm.lid % 2 ^ 32 ∧
          field sv.bytes 0x20 8 = v.size % 2 ^ 64 ∧ (sv.blocks.map Prod.snd).sum = v.size ∧
          ∃ n, sv.blocks.head? = some (some p, n))) ∧
    (tm.preempt = .none → exec (.capture t) s = .next s ∧ exec (.captureTimeout t) s = .next s ∧
      exec (.resizeKill t) s = .next s) ∧
    (∀ since why rec_ w, tm.preempt = .decided since why rec_ w →
      (why ≠ 2 → since + 20000 ≤ s.time → ∃ (u : State) (x : Team), exec (.captureTimeout t) s = .next u ∧ u.team? t = some x ∧
        x.preempt = .none ∧ (∀ sh ∈ x.sheaves, sh.safeAt = 0) ∧
        ∀ q d m g, why = 3 → q ∈ (s.sheafAt w.1 w.2.1).pend → q.seq = w.2.2 → q.writes = [Wr.u d m 0 g] →
          { q with ready := true, writes := [Wr.u d m 3 g] } ∈ (u.sheafAt w.1 w.2.1).pend) ∧
      (∀ a, why = 2 → tm.saveAsk = some a → a.since + 20000 ≤ s.time → ∃ (u : State) (x : Team),
        exec (.captureTimeout t) s = .next u ∧ u.team? t = some x ∧ x.preempt = tm.preempt ∧ x.saveAsk = none ∧
        ∀ q d m g, q ∈ (s.sheafAt a.t a.j).pend → q.seq = a.seq → q.writes = [Wr.u d m 0 g] →
          { q with ready := true, writes := [Wr.u d m 3 g] } ∈ (u.sheafAt a.t a.j).pend) ∧
      (why = 2 ∧ (∀ a, tm.saveAsk = some a → s.time < a.since + 20000) ∨ why ≠ 2 ∧ s.time < since + 20000 →
        exec (.captureTimeout t) s = .next s) ∧
      (why = 2 → since + 40000 ≤ s.time → tm.killed = false → ∃ (u : State) (x : Team),
        exec (.resizeKill t) s = .next (State.settled u t) ∧ u.team? t = some x ∧ x.killed = true ∧
        (∀ sh ∈ x.sheaves, sh.finished = true ∧ ∀ st ∈ sh.strands, st.run = .vacant) ∧
        ∀ l, s.launch? tm.launch = some l → u.launch? tm.launch =
          some { l with killed := l.killed + 1, cause := if l.cause = 0 then 0xB05 else l.cause }) ∧
      (why ≠ 2 ∨ s.time < since + 40000 → exec (.resizeKill t) s = .next s)) ∧
    (∀ sh, tm.killed = false → tm.sheaves.find? (fun x => x.hold == .service) = some sh → ∃ (u : State) (x : Team),
      exec (.serviceEndsTeam t) s = .next (State.settled u t) ∧ u.team? t = some x ∧ x.killed = true ∧
      (∀ y ∈ x.sheaves, y.finished = true ∧ ∀ st ∈ y.strands, st.run = .vacant) ∧
      ∀ l, s.launch? tm.launch = some l → u.launch? tm.launch =
        some { l with killed := l.killed + 1, cause := if l.cause = 0 then sh.sCause else l.cause }) ∧
    ((∀ sh ∈ tm.sheaves, sh.hold ≠ .service) → exec (.serviceEndsTeam t) s = .next s)

/-- R356 to R358: SAVECTX answers 1 where no resident team has the number, 2 where the area is less than the record bound, 3
where another SAVECTX has decided the team; else the team is decided, or waits with a resize's decision, and the result is
outstanding. RESTCTX answers 2 for bytes that are no record, 3 for a launch that is not there; a record that it can restore puts the
team on the named core and answers 0, when the approximate rail has reached its grade where it must (R253). A field that the two do not
use must be zero. How the record lays out what R355 does not is the model's choice (log entry 19); which decision stands where two
meet is read from the rules (log entry 28). -/
def Obligations.ContextInstructions : Prop :=
  ∀ (c : Ctl) (o : OpS) (s : State) (i : Iss), s.iss? c = some i → i.on ≠ [] → i.tm.priv = true → o.b.uni = true → NoChains s →
    SMap.sorted s.teams = true →
    let w (k : Nat) : Val := i.sh.u (o.b.idx + k)
    (contextFields o = true → ∀ ins, ins = .savectx c o ∨ ins = .restctx c o → ∃ t, exec ins s = .next t ∧
      IssuedAs s t i (fun sh => sh.raise i.seq 0 (i.batch.map fun l => (l, 0x108, 0))) stay) ∧
    (contextFields o = false → o.b.idx ≤ 61 → (w 0).tag = false → (w 1).tag = false → (w 2).tag = false →
      let pid := (w 0).bits.toNat % 2 ^ 15
      let answers (n : Nat) : Prop := ∃ t, exec (.savectx c o) s = .next t ∧ UniformAnswer t i o.d (BitVec.ofNat 64 n) true
      ((∀ e ∈ s.teams, e.2.pid ≠ pid) → answers 1) ∧
      (∀ e, s.teams.find? (fun (e : Nat × Team) => e.2.pid == pid) = some e → s.team? e.1 = some e.2 →
        ((w 2).bits.toNat < e.2.recordBound → answers 2) ∧
        (e.2.recordBound ≤ (w 2).bits.toNat →
          ((∃ a b q, e.2.preempt = .decided a 3 b q ∨ e.2.preempt = .decided a 2 b q ∧ e.2.saveAsk ≠ none) → answers 3) ∧
          ((∀ a b q, e.2.preempt ≠ .decided a 3 b q ∧ (e.2.preempt = .decided a 2 b q → e.2.saveAsk = none)) → e.2.key = e.1 →
            (e.1 = i.t → i.sh.hold = .none) → (∀ x ∈ i.recordPages s (w 1).bits.toNat e.2.recordBound, ∃ m pa, x = .ok m pa) →
            ∃ t x, exec (.savectx c o) s = .next t ∧ UniformAnswer t i o.d 0 false ∧ t.team? e.1 = some x ∧
              ((∀ a b q, e.2.preempt ≠ .decided a 2 b q) →
                x.preempt = .decided s.time 3 (w 1).bits.toNat (i.t, i.j, i.seq)) ∧
              ∀ a b q, e.2.preempt = .decided a 2 b q → x.preempt = e.2.preempt ∧
                x.saveAsk = some { since := s.time, record := (w 1).bits.toNat, t := i.t, j := i.j, seq := i.seq })))) ∧
    (contextFields o = false → o.b.idx ≤ 62 → (w 0).tag = false → (w 1).tag = false → (s.die i.die).inbox = [] →
      let va := (w 0).bits.toNat
      let h := s.headerAt i.die i.tm.vdev va
      let answers (n : Nat) : Prop := ∃ t, exec (.restctx c o) s = .next t ∧ UniformAnswer t i o.d (BitVec.ofNat 64 n) true
      (h.take 4 ≠ [0x53, 0x41, 0x56, 0x45] ∨ va % 4096 ≠ 0 → answers 2) ∧
      (headerBad h va = false → s.launch? (field h 8 4) = none → answers 3) ∧
      (∀ v, s.restoreCheck i.die i.tm.vdev va (w 1).bits.toNat = .inr v → v.team.key ≠ i.t → ∃ t, exec (.restctx c o) s = .next t ∧
        (∀ y ∈ t.saved, y.team.key ≠ v.team.key) ∧
        let waits : Bool := (t.team? v.team.key).elim false fun x => x.waitsRail
        UniformAnswer t i o.d 0 (!waits) ∧
        (Lives v → ∃ x, t.team? v.team.key = some x ∧ x.core = (w 1).bits.toNat ∧ x.lid = v.team.lid ∧
          (waits = true → x.railAnswer = some (i.t, i.j, i.seq)))))

/-! ### Power -/

/-- R254 to R256, R260, R349: at a boundary each cluster that was idle refills half a permit and takes its next level from its
target and its permits, with at most two grants of B2 on a die; a wanting stage whose team fits on no core pre-empts the one
team that it may claim a core from. Between boundaries nothing happens. R254, R392, R252, R258, R359: the clock takes the
interval's level once the rail stands there; the approximate rail reaches its target, requests that it serves are granted, and a team
that waited for it runs, its RESTCTX answered; a droop is injected while the allowance lasts, else it is counted and logged, until it clears; a core at 400 W/cm²
or more trips its cluster until all its cores read below 360; a core hot for 100 µs gives up its longest resident team. That
claims go before placements at a boundary is read from R349 (log entry 29); the window of the injection's allowance is the model's
choice (log entry 40). -/
def Obligations.PowerEvents : Prop :=
  (∀ s : State,
     (s.time % 20000 = 0 → s.lastBoundary ≠ some s.time → ∃ u : State, exec .intervalBoundary s = .next u ∧
       u.lastBoundary = some s.time ∧
       (∀ d < 16, ∀ q < 12,
         let k := 12 * d + q
         let c := s.cluster k
         let v := u.cluster k
         let t := s.target k
         let b := if c.busy then c.bal else if c.half then min 64 (c.bal + 1) else c.bal
         v.half = (if c.busy then c.half else !c.half) ∧
         let run (x : Nat) : Nat := max x (lowestLevel c.pfloor)
         (c.fall = true → v.nextLevel = run (min t 4) ∧ v.fall = false ∧ v.bal = b) ∧
         (c.fall = false → t = 6 → b < 2 → c.nextLevel = 6 → v.nextLevel = run 5 ∧ v.fall = true ∧ v.b2g = false ∧ v.bal = b) ∧
         (c.fall = false → t = 6 → 2 ≤ b → c.b2g = true → v.nextLevel = 6 ∧ v.b2g = true ∧ v.bal = b - 2) ∧
         (c.fall = false → t = 6 → 2 ≤ b → c.b2g = false → v.nextLevel = 6 ∧ v.b2g = true ∧ v.bal = b - 2 ∨
           v.nextLevel = run 5 ∧ v.b2g = false ∧ v.bal = b - 1) ∧
         (c.fall = false → (t = 5 ∨ t = 6 ∧ c.nextLevel ≠ 6 ∧ b < 2) → 1 ≤ b → v.nextLevel = run 5 ∧ v.b2g = false ∧ v.bal = b - 1) ∧
         (c.fall = false → (t ≤ 4 ∨ t = 5 ∧ b = 0 ∨ t = 6 ∧ c.nextLevel ≠ 6 ∧ b = 0) →
           v.nextLevel = run (min t 4) ∧ v.b2g = false ∧ v.bal = b)) ∧
       (∀ d < 16, ((List.range 12).countP fun q => (s.cluster (12 * d + q)).b2g) ≤ 2 →
         ((List.range 12).countP fun q => (u.cluster (12 * d + q)).b2g) ≤ 2) ∧
       ∀ l k g tm, NoChains s → s.powerBoundary.wantingStages = [(l, k, g)] →
         let n := s.powerBoundary.nextNeed l k g
         s.powerBoundary.accepting l k g n = [] → s.powerBoundary.claimable l k g n = [tm] →
         s.powerBoundary.team? tm.key = some tm →
         ∃ x, u.team? tm.key = some x ∧ x.preempt = .decided s.time 0 0 (0, 0, 0)) ∧
     (s.time % 20000 ≠ 0 ∨ s.lastBoundary = some s.time → exec .intervalBoundary s = .next s) ∧
     (s.time % 100000 = 0 → s.lastRotation ≠ some s.time → ∃ u : State, exec .quotaRotation s = .next u ∧
       u.lastRotation = some s.time ∧
       ∀ k, s.clusters.has k = true → u.cluster k = { s.cluster k with rotate := (s.cluster k).rotate + (s.cluster k).quota }) ∧
     (s.time % 100000 ≠ 0 ∨ s.lastRotation = some s.time → exec .quotaRotation s = .next s)) ∧
  (∀ (s : State) (k : Nat),
     let c := s.cluster k
     (let go : Prop := c.level ≠ c.nextLevel ∧
         (levelVolts c.nextLevel ≤ c.rail ∨ s.lastBoundary.getD 0 + moveTime c.rail (levelVolts c.nextLevel) ≤ s.time)
      (go → ∃ u, exec (.levelClockSwitch k) s = .next u ∧
         u.cluster k = { c with level := c.nextLevel, rail := levelVolts c.nextLevel }) ∧
      (¬ go → exec (.levelClockSwitch k) s = .next s)) ∧
     (let go : Prop := c.amoveAt + moveTime c.afrom (gradeVolts c.atarget) ≤ s.time
      (go → ∃ u : State, exec (.gradeReached k) s = .next u ∧ (u.cluster k).agrade = c.atarget ∧
         (∀ t tm, s.team? t = some tm → tm.key = t → tm.core / 8 = k → tm.waitsRail = true → c.atarget ≤ tm.railNeed →
           (∃ x, u.team? t = some x ∧ x.waitsRail = false ∧ x.since = s.time) ∧
           ∀ w, tm.railAnswer = some w → ∀ q ∈ (s.sheafAt w.1 w.2.1).pend, q.seq = w.2.2 →
             { q with ready := true } ∈ (u.sheafAt w.1 w.2.1).pend) ∧
         ∀ t tm r j q, s.team? t = some tm → tm.key = t → tm.core / 8 = k → tm.gradeReq = [(r, j, q)] → c.atarget ≤ r →
           ∃ x, u.team? t = some x ∧ x.grade = r ∧ x.gradeReq = [] ∧
             (x.sheaf j).pend = (tm.sheaf j).pend.map fun p => if p.seq = q then { p with ready := true } else p) ∧
      (¬ go → exec (.gradeReached k) s = .next s)) ∧
     (c.injecting = none →
       ∀ inj, (c.injectedIn s.time < 125 → ∃ u, exec (.droop k inj) s = .next u ∧
           u.cluster k = { c with injecting := some (s.time, true) } ∧ u.dies = s.dies) ∧
         (125 ≤ c.injectedIn s.time → ∃ u, exec (.droop k inj) s = .next u ∧
           u.cluster k = { c with injecting := some (s.time, false), droops := min (c.droops + 1) 4294967295 } ∧
           Logged s u (k / 12) 0x0305)) ∧
     (∀ inj, c.injecting ≠ none → exec (.droop k inj) s = .next s) ∧
     (∃ u : State, exec (.droopClears k) s = .next u ∧ (u.cluster k).injecting = none ∧
       (∀ t, c.injecting = some (t, true) →
         (u.cluster k).injected = ((t, s.time) :: c.injected).filter fun e => e.2 + 2000 > s.time) ∧
       (u.cluster k).level = c.level ∧ (u.cluster k).droops = c.droops) ∧
     ∀ n < 8,
       let core := 8 * k + n
       (∀ reading, ∃ u : State, exec (.thermalTrip core reading) s = .next u ∧
         (u.core core).sensor = reading ∧
         (u.core core).hotSince = (if 360 ≤ reading then some ((s.core core).hotSince.getD s.time) else none) ∧
         (400 ≤ reading → (u.cluster k).hot = true) ∧
         (reading < 360 → (∀ m < 8, m ≠ n → (s.core (8 * k + m)).sensor < 360) → (u.cluster k).hot = false) ∧
         (reading < 400 → (360 ≤ reading ∨ ∃ m < 8, m ≠ n ∧ 360 ≤ (s.core (8 * k + m)).sensor) → (u.cluster k).hot = c.hot)) ∧
       (∀ tm, tm ∈ s.teamsOn core → (∀ x ∈ s.teamsOn core, x ≠ tm → tm.since < x.since) → s.team? tm.key = some tm →
         NoChains s →
         let go : Prop := (∃ t, (s.core core).hotSince = some t ∧ t + 200000 ≤ s.time) ∧
           (∀ t, (s.core core).migratedAt = some t → t + 2000000 ≤ s.time) ∧ tm.since + 2000000 ≤ s.time ∧ tm.preempt = .none ∧
           (s.core core).retryAt ≤ s.time
         (go → ∃ (u : State) (x : Team), exec (.thermalMigration core) s = .next u ∧ u.team? tm.key = some x ∧
           x.preempt = .decided s.time 1 0 (0, 0, 0)) ∧
         (¬ go → exec (.thermalMigration core) s = .next s)))

/-! ### Memory reliability -/

/-- R310, R311, R313: a burst of a stack in service is charged and delivered, with each corrected error logged, and each of its
uncorrectable sectors poisoned; a parity failure is retried three times, then its lane is swapped for a spare, and with none
left the burst has failed and all its sectors are poisoned. R312, R320, R272: a requested retraining waits for the saves that
stream, for 200 µs at most, and a mandatory one sends the rest of each save to the partner stack's reserve area; the end of a save
writes what is left of its record, answers its SAVECTX and lets the stacks' waiting retrainings begin. The 4,096th activation of a row, by its event with the address of the row's last
access (the model's choice, log entry 31), is charged and logged; the window's end, at each 32 ms, forgets the counts, the
interval's end what was charged. A halted service sheaf serves nothing until it is restarted, which is logged. Where the
redirected part of a save begins and lies is the model's choice (log entry 30). -/
def Obligations.MemoryReliability : Prop :=
  (∀ (s : State) (d : Nat),
     (∀ b, b.pa < 2 ^ 44 → ownerDie b.pa = some d →
       let side := b.pa / 4096 % 2
       let k := (s.die d).stack side
       let row := b.pa / 128 % 32 * 64 + b.bank % 64
       let waits : Prop := k.out ≠ none ∨ k.spent b.vdev = true ∨ k.testing b.pa s.ids = true
       (waits → exec (.burstComplete d b) s = .next s) ∧
       (¬ waits → rowCount b.row (k.tracker.val row []) < 4095 →
         ∃ u : State, exec (.burstComplete d b) s = .next u ∧
           (((u.die d).stack side).charged.val b.vdev 0 = k.charged.val b.vdev 0 + 128) ∧
           (failedParity b ≠ none → u.ids = s.ids + 1 ∧ (u.die d).poison = (s.die d).poison ∧
             ((u.die d).stack side).retries = k.retries ++ [{ id := s.ids, burst := b, first := s.time, since := s.time }]) ∧
           (failedParity b = none → ((u.die d).stack side).retries = k.retries ∧
             (b.write = true ∨ (∀ n < 4, s.damaged b n = []) →
               (u.die d).poison = (s.die d).poison ∧ (u.die d).events = (s.die d).events) ∧
             (b.write = false → (∀ n < 4, ∀ o, s.damaged b n = [o] →
                 ∃ r ∈ (u.die d).events, r.kind = 0x0101 ∧ r.detail = n + 4 * o ∧ r.addr = lineOf b.pa ∧ r.time = s.time) ∧
               ∀ n < 4, 2 ≤ (s.damaged b n).length → (u.die d).poison.has (lineOf b.pa + 32 * n) = true ∧
                 ∃ r ∈ (u.die d).events, r.kind = 0x0102 ∧ r.detail.testBit n = true ∧ r.addr = lineOf b.pa ∧ r.time = s.time)))) ∧
     (∀ id r, retryOf s d id = some r → ownerOf r.burst.pa = d → (∀ n < 4, s.damaged r.burst n = []) →
       let side := r.burst.pa / 4096 % 2
       let group := r.burst.pa / 128 % 32 / 4
       let runs : Prop := (s.die d).canRun r = true
       let spares (x : State) : Nat := ((x.die d).stack side).spares.val group 0
       let poisoned (u : State) : Prop := ∀ n < 4, (u.die d).poison.has (lineOf r.burst.pa + 32 * n) = true
       (r.attempt < 3 → r.since + 8 ≤ s.time → runs →
         (∃ u, exec (.burstRetry d id true) s = .next u ∧
           retryOf u d id = some { r with attempt := r.attempt + 1, since := s.time }) ∧
         ∃ u q, exec (.burstRetry d id false) s = .next u ∧ retryOf u d id = none ∧ (u.die d).poison = (s.die d).poison ∧
           (u.die d).events = (s.die d).events ++ [q] ∧ q.kind = 0x0201 ∧ q.time = r.first) ∧
       (∀ f, 3 ≤ r.attempt ∨ s.time < r.since + 8 ∨ ¬ runs → exec (.burstRetry d id f) s = .next s) ∧
       (3 ≤ r.attempt → r.since + 1000 ≤ s.time → runs →
         (spares s < 4 → (∃ u, exec (.laneSwap d id false) s = .next u ∧ retryOf u d id = none ∧ spares u = spares s + 1 ∧
             Logged s u d 0x0202 ∧ (u.die d).poison = (s.die d).poison) ∧
           ∃ u, exec (.laneSwap d id true) s = .next u ∧ retryOf u d id = none ∧ spares u = spares s + 1 ∧ poisoned u) ∧
         (∀ f, 4 ≤ spares s → ∃ u, exec (.laneSwap d id f) s = .next u ∧ retryOf u d id = none ∧ Logged s u d 0x0203 ∧
           poisoned u)) ∧
       (∀ f, r.attempt < 3 ∨ s.time < r.since + 1000 ∨ ¬ runs → exec (.laneSwap d id f) s = .next s))) ∧
  ((∀ (s : State) (d side : Nat), side < 2 →
     let n := 2 * d + side
     let k := (s.die d).stack side
     let at_ (u : State) (x : Nat) : Stack := (u.die d).stack x
     let saves := (s.die d).savesOn side
     let sent (u : State) : Prop := (∀ sv ∈ (u.die d).savesOn side, sv.moved = true) ∧ ∀ sv ∈ saves, sv.moved = false →
       (∃ r ∈ (u.die d).events, r.kind = 0x0205 ∧ r.time = s.time) ∧
       ∃ y ∈ (u.die d).saves, y.moved = true ∧ y.bytes = sv.bytes ∧ y.team = sv.team ∧ y.ask = sv.ask ∧ y.done < sv.bytes.length ∧
         ((s.die d).saves = [sv] → d < 16 → sv.bytes.length < 2 ^ 30 → (sv.blocks.map Prod.snd).sum = sv.bytes.length →
           ∀ b ∈ (splitBlocks y.done y.blocks).2, ∃ q, b.1 = some q ∧ q / 4096 % 2 = 1 - side ∧
             d * 2 ^ 40 + Config.reserveBase ≤ q ∧ q < d * 2 ^ 40 + Config.reserveBase + 2 ^ 31)
     (∀ m, k.out ≠ none → exec (.retrain n m) s = .next s) ∧
     (k.out = none → saves = [] → ∃ u, exec (.retrain n false) s = .next u ∧ (at_ u side).out = some s.time ∧
       Logged s u d 0x0204) ∧
     (k.out = none → saves ≠ [] → ∃ u, exec (.retrain n false) s = .next u ∧
       at_ u side = { k with wantRetrain := some (k.wantRetrain.getD s.time) }) ∧
     (k.out = none → (∀ sv ∈ saves, 384 ≤ sv.bytes.length) → ∃ u, exec (.retrain n true) s = .next u ∧
       (at_ u side).out = some s.time ∧ sent u) ∧
     (∀ t, k.wantRetrain = some t → t + 400000 ≤ s.time → (∀ sv ∈ saves, 384 ≤ sv.bytes.length) →
       ∃ u, exec (.retrainSaveTimeout n) s = .next u ∧ (at_ u side).out = some s.time ∧ (at_ u side).wantRetrain = none ∧ sent u) ∧
     ((∀ t, k.wantRetrain = some t → s.time < t + 400000) → exec (.retrainSaveTimeout n) s = .next s) ∧
     (∃ u, exec (.retrainingComplete n) s = .next u ∧ at_ u side = { k with out := none }) ∧
     (∀ sv, (s.die d).saves.find? (fun v => v.on side) = some sv → ∃ u : State, exec (.preEmptionSaveEnd n) s = .next u ∧
       (u.die d).saves = (s.die d).saves.erase sv ∧
       (∀ x < 2, ((s.die d).stack x).wantRetrain ≠ none → (∀ v ∈ (s.die d).saves.erase sv, v.on x = false) →
         (at_ u x).out = some s.time) ∧
       (∀ p, sv.blocks = [(some p, sv.bytes.length)] → sv.done = 0 → 256 ≤ sv.bytes.length → (s.die (ownerOf p)).inbox = [] →
         ∀ n < sv.bytes.length, (u.die (ownerOf p)).view.get (p + n) = sv.image.getD n 0) ∧
       ∀ a q dst m g, sv.ask = some a → q ∈ (s.sheafAt a.t a.j).pend → q.seq = a.seq → q.writes = [Wr.u dst m 0 g] →
         { q with ready := true } ∈ (u.sheafAt a.t a.j).pend) ∧
     ((∀ v ∈ (s.die d).saves, v.on side = false) → exec (.preEmptionSaveEnd n) s = .next s) ∧
     (∀ bank row vdev,
       (rowCount row (k.tracker.val bank []) = 4095 → ∃ u, exec (.rowDisturbance n bank row vdev) s = .next u ∧
         rowCount row ((at_ u side).tracker.val bank []) = 0 ∧
         (at_ u side).charged.val vdev 0 = k.charged.val vdev 0 + 8192 ∧ Logged s u d 0x030A ∧
         ∃ r ∈ (u.die d).events, r.kind = 0x030A ∧ r.addr = k.rowPa.val (2048 * row + bank) 0 ∧ r.vdev = vdev ∧ r.aux = row) ∧
       (rowCount row (k.tracker.val bank []) ≠ 4095 → exec (.rowDisturbance n bank row vdev) s = .next s)) ∧
     (let ends : Prop := s.time % 64000000 = 0 ∧ k.window < s.time
      ∃ u, exec (.activationWindowEnd n) s = .next u ∧
        (ends → at_ u side = { k with tracker := [], window := s.time }) ∧ (¬ ends → at_ u side = k)) ∧
     (let ends : Prop := s.time % 20000 = 0 ∧ k.interval < s.time
      ∃ u, exec (.bandwidthInterval n) s = .next u ∧
        (ends → at_ u side = { k with charged := [], interval := s.time }) ∧ (¬ ends → at_ u side = k))) ∧
   (∀ (s : State) (k : Nat),
     (∃ u : State, exec (.serviceSheafHalt k) s = .next u ∧ u.cluster k = { s.cluster k with halted := true } ∧
       exec (.stagedRequest k) u = .next u ∧ exec (.atomicServe k) u = .next u ∧ exec (.engineArrival k) u = .next u) ∧
     ((s.cluster k).halted = true → ∃ u, exec (.serviceSheafRestart k) s = .next u ∧
       u.cluster k = { s.cluster k with halted := false } ∧ Logged s u (k / 12) 0x0304) ∧
     ((s.cluster k).halted = false → exec (.serviceSheafRestart k) s = .next s)))

/-! ### Fabric -/

/-- R369, R374, R375, R377, R378: a packet to the package itself is delivered when its key is accepted and its header is one
that the package knows; one with a wrong key is dropped, one with a wrong header is logged. Another goes on with one hop
more, by its entry's port; with no entry, no port up, no pod index, or 16 hops it is dropped. R376, R378, R379: a port that
comes up or goes down is reported by a notice with the next sequence number, into every subscriber's ring and over every up
port; a notice of another package is delivered and forwarded once, and not at all while the pod index is unassigned; before the ports
are enabled nothing arrives and no port comes up (R383); the key of a package's own notices is the model's choice (log
entry 18). A swap of the banks takes the inactive bank and the pod
index that waits for it. -/
def Obligations.RoutingPortsAndNotices : Prop :=
  (∀ (s : State) (port : Nat) (p : Packet),
     (s.portsOn = false → exec (.packetArrival port p) s = .next s) ∧
     (s.portsOn = true →
     let drop : Prop := exec (.packetArrival port p) s =
       .next { s with fabric := { s.fabric with dropped := s.fabric.dropped + 1 } }
     let here : Prop := s.fabric.pod = none ∧ p.hops = 0 ∨ s.fabric.pod = some p.dest
     let known (op : Nat) : Prop := 1 ≤ op ∧ op ≤ 0x0D ∨ 0x10 ≤ op ∧ op ≤ 0x13 ∨ op = 0x18
     let clean : Prop := known p.msg.op ∧ p.msg.version = 1 ∧ p.msg.zero = 0
     (here → ¬ keyPasses s.fabric.keyTable p.msg.key → drop) ∧
     (here → keyPasses s.fabric.keyTable p.msg.key → ¬ clean → ∃ u, exec (.packetArrival port p) s = .next u ∧
       Logged s u (if p.msg.dstDie < 16 then p.msg.dstDie else 0) 0x030B ∧ u.fabric = s.fabric) ∧
     (here → keyPasses s.fabric.keyTable p.msg.key → clean → p.msg.op ≠ 10 → exec (.packetArrival port p) s =
       .next { s with fabric := { s.fabric with delivered := s.fabric.delivered ++ [p] } }) ∧
     (s.fabric.pod = none → p.hops ≠ 0 → drop) ∧
     (∀ k, s.fabric.pod = some k → k ≠ p.dest →
       let bank := if s.fabric.useB then s.fabric.bankB else s.fabric.bankA
       let e := (bank.val p.dest 0).toNat
       let primary := e / 2 ^ 51 % 32
       let spread : Prop := p.rod = false ∧ e.testBit 62 = true
       let candidate (q : Nat) : Prop := q < 32 ∧ e.testBit q = true ∧ (s.port q).up = true
       let leaves (q : Nat) : Prop := ∃ u, exec (.packetArrival port p) s = .next u ∧ u.fabric.dropped = s.fabric.dropped ∧
         (u.port q).sent = (s.port q).sent ++ [{ p with hops := p.hops + 1 }] ∧
         (u.port q).queued = (s.port q).queued + 64 + p.msg.data.length ∧
         ∀ x < 32, x ≠ q → u.port x = s.port x
       (15 ≤ p.hops ∨ e.testBit 63 = false → drop) ∧
       (p.hops < 15 → e.testBit 63 = true →
         (¬ spread → (s.port primary).up = true → leaves primary) ∧
         (¬ spread → (s.port primary).up = false → ∀ q, candidate q → (∀ x < q, ¬ candidate x) → leaves q) ∧
         (spread → ∀ q, candidate q → (∀ x, candidate x → x ≠ q → (s.port q).queued < (s.port x).queued ∨
           (s.port q).queued = (s.port x).queued ∧ q < x) → leaves q) ∧
         ((spread ∨ (s.port primary).up = false) → (∀ q, ¬ candidate q) → drop))))) ∧
  (∀ s : State,
     (s.portsOn = false → ∀ port peer reason,
       exec (.portUp port peer) s = .next s ∧ exec (.portDown port reason) s = .next s) ∧
     (s.portsOn = true → ∀ port < 32,
       let told (u : State) (peer kind : Nat) : Prop :=
         let n : Notice := {
           time := s.time, seq := s.fabric.noticeSeq + 1, origin := s.ownPod, peer := peer, port := port, kind := kind }
         u.fabric.noticeSeq = s.fabric.noticeSeq + 1 ∧ u.fabric.rings = s.fabric.rings.map (fun r => r.append n) ∧
         ∀ q < 32, (u.port q).sent = (s.port q).sent ++
           if (u.port q).up then [{ dest := (u.port q).peer, rod := false, msg := noticeMsg noticeKey n }] else []
       (∀ peer, (s.port port).up = false → ∃ u, exec (.portUp port peer) s = .next u ∧ (u.port port).up = true ∧
         (u.port port).peer = peer ∧ told u peer 1) ∧
       (∀ peer, (s.port port).up = true → exec (.portUp port peer) s = .next s) ∧
       (∀ reason, (s.port port).up = true → ∃ u, exec (.portDown port reason) s = .next u ∧ (u.port port).up = false ∧
         told u (s.port port).peer (if reason = 2 then 2 else 0)) ∧
       (∀ reason, (s.port port).up = false → exec (.portDown port reason) s = .next s)) ∧
     (∀ m, Arrived s 0x18 m →
       let n := msgNotice m
       ((n.origin, n.seq) ∈ s.fabric.seen → exec (.linkNotice m) s = .next { s with fabric := { s.fabric with delivered := [] } }) ∧
       ((n.origin, n.seq) ∉ s.fabric.seen → ∃ u, exec (.linkNotice m) s = .next u ∧ u.fabric.delivered = [] ∧
         u.fabric.seen = (n.origin, n.seq) :: s.fabric.seen ∧ u.fabric.rings = s.fabric.rings.map (fun r => r.append n) ∧
         ∀ q < 32, (u.port q).sent = (s.port q).sent ++
           if (s.port q).up = true ∧ s.fabric.pod ≠ none then [{ dest := (s.port q).peer, rod := false, msg := noticeMsg m.key n }] else [])) ∧
     (s.fabric.swapDue = true → ∃ u, exec .bankSwap s = .next u ∧ u.fabric.useB = !s.fabric.useB ∧ u.fabric.bankA = s.fabric.bankA ∧
       u.fabric.bankB = s.fabric.bankB ∧ u.fabric.swapDue = false ∧ u.fabric.podNext = none ∧
       u.fabric.pod = match s.fabric.podNext with
         | some k => some k
         | none => s.fabric.pod) ∧
     (s.fabric.swapDue = false → exec .bankSwap s = .next s))

/-- R369, R371 to R373, R382: at the target package a remote access is checked there and performed at its line's home as a local one
would be, in its place in the home's queue, and answered with its value or its cause and the clock of the die that answers; copies read and write bytes, contributions queue at their contexts, a
remote settle is answered once every die has applied what it covers, and a journal query once, with the records of the sessions that the asking one sees (which are a tenant's own is the model's choice,
log entry 34). A message not yet delivered starts nothing. That a remote access takes its place in the home's queue, and which die
stamps its data, is read from the rules (log entry 33). -/
def Obligations.RemoteTargets : Prop :=
  (∀ ins op m (s : State), fabricRow ins = some (op, m) → s.portsOn = false ∨ (∀ p ∈ s.fabric.delivered, p.msg ≠ m) →
    exec ins s = .next s) ∧
  ∀ (s : State) (m : Msg),
    (∀ pa, s.sending = [] → Arrived s 1 m → Reaches s m (m.ty.width / 8) true true pa →
      ∃ u, exec (.remoteAtomicRequest m) s = .next u ∧ QueuedFor s u (remoteReq .atomic m pa)) ∧
    (Arrived s 1 m → m.va % (m.ty.width / 8) ≠ 0 → ∃ u, exec (.remoteAtomicRequest m) s = .next u ∧ u.dies = s.dies ∧
      Answered s u m 2 0x701 (fun q => q.clock = (s.die 0).clock)) ∧
    (∀ pa id, let r : Req := { remoteReq .atomic m pa with id := id }
      AtHead s r → s.judge r = .plain → m.fn ≤ 7 → m.ty.float = false → 32 ≤ m.ty.width →
      s.poisonAt pa (m.ty.width / 8) = false →
      let b := m.ty.width / 8
      let old := (s.die (ownerOf pa)).view.getNat pa b
      ∃ u, exec (.atomicServe (homeOf pa)) s = .next u ∧
        Answered s u m 2 0 (fun q => q.value = BitVec.ofInt 64 (toInt m.ty.signed m.ty.width old) ∧
          q.clock = (u.die (ownerOf pa)).clock) ∧
        ∀ a, (u.die (ownerOf pa)).view.get a = if pa ≤ a ∧ a < pa + b then
          BitVec.ofNat 8 (integerAtomic m.fn m.ty old (elem m.ty.width 0 m.e) (elem m.ty.width 0 m.g) / 256 ^ (a - pa))
          else (s.die (ownerOf pa)).view.get a) ∧
    (∀ kind pa, (m.fn = 0 ∧ kind = .ldt ∨ m.fn = 1 ∧ kind = .stt ∨ m.fn = 2 ∧ kind = .xtr) →
      (s.sending = [] → Arrived s 3 m → Reaches s m (if kind = .xtr then 128 else m.ty.width / 8) (kind != .stt) (kind != .ldt) pa →
        ∃ u, exec (.remoteStagedRequest m) s = .next u ∧ QueuedFor s u (remoteReq kind m pa)) ∧
      ∀ id, let r : Req := { remoteReq kind m pa with id := id }
        AtHead s r →
        (∀ e, s.judge r = .done e → s.lineBad pa = false → ∃ u, exec (.stagedRequest (homeOf pa)) s = .next u ∧
          u.metaOf pa = (s.metaOf pa).after r e ∧
          Answered s u m 4 0 (fun q => q.lo = (if eAcq e then 1 else 0) ∧ q.clock = (u.die (ownerOf pa)).clock)) ∧
        (s.judge r = .park → s.parkedCount (homeOf pa) < 4096 → ∃ u, exec (.stagedRequest (homeOf pa)) s = .next u ∧
          u.parked (lineOf pa) = [r] ∧ u.fabric.outbox = s.fabric.outbox ∧ u.metaOf pa = s.metaOf pa) ∧
        (s.judge r = .fault → ∃ u, exec (.stagedRequest (homeOf pa)) s = .next u ∧ u.metaOf pa = s.metaOf pa ∧
          Answered s u m 4 0x801 (fun q => q.clock = (u.die (ownerOf pa)).clock))) ∧
    (∀ pa, Arrived s 5 m → Reaches s m 1 true false pa →
      (s.preciseCellar pa = true → s.sending = [] → ∃ u, exec (.copyReadRequest m) s = .next u ∧
        QueuedFor s u (copyReq .load m pa)) ∧
      (s.preciseCellar pa = false → m.clock = [] → (s.die (ownerOf pa)).inbox = [] → s.poisonAt pa m.lo = false →
        ∃ u, exec (.copyReadRequest m) s = .next u ∧ Answered s u m 6 0 (fun q =>
          q.data = (s.die (ownerOf pa)).view.getN pa m.lo ∧ q.clock = (u.die (ownerOf pa)).clock))) ∧
    (∀ pa, Arrived s 7 m → Reaches s m 1 false true pa →
      (s.preciseCellar pa = true → s.sending = [] → ∃ u, exec (.copyWrite m) s = .next u ∧ QueuedFor s u (copyReq .store m pa)) ∧
      (s.preciseCellar pa = false → m.clock = [] → (s.die (ownerOf pa)).inbox = [] →
        ∃ u, exec (.copyWrite m) s = .next u ∧ Answered s u m 8 0 (fun q => q.clock = (u.die (ownerOf pa)).clock) ∧
          ∀ a, (u.die (ownerOf pa)).view.get a =
            if pa ≤ a ∧ a < pa + m.data.length then m.data.getD (a - pa) 0 else (s.die (ownerOf pa)).view.get a)) ∧
    (∀ pa id, m.lo = 8 → s.poisonAt pa 8 = false →
      (AtHead s { copyReq .load m pa with id := id } → s.judge { copyReq .load m pa with id := id } = .plain →
        ∃ u, exec (.stagedRequest (homeOf pa)) s = .next u ∧ Answered s u m 6 0 (fun q =>
          q.data = (s.die (ownerOf pa)).view.getN pa 8 ∧ q.clock = (u.die (ownerOf pa)).clock)) ∧
      (AtHead s { copyReq .store m pa with id := id } → s.judge { copyReq .store m pa with id := id } = .plain → m.data.length = 8 →
        s.storesClear { copyReq .store m pa with id := id } = true →
        ∃ u, exec (.stagedRequest (homeOf pa)) s = .next u ∧ Answered s u m 8 0 (fun q => q.clock = (u.die (ownerOf pa)).clock) ∧
          ∀ a, (u.die (ownerOf pa)).view.get a =
            if pa ≤ a ∧ a < pa + 8 then m.data.getD (a - pa) 0 else (s.die (ownerOf pa)).view.get a) ∧
      ∀ kind, kind = .load ∨ kind = .store → AtHead s { copyReq kind m pa with id := id } →
        s.judge { copyReq kind m pa with id := id } = .fault → (kind = .store → s.storesClear { copyReq kind m pa with id := id } = true) →
        ∃ u, exec (.stagedRequest (homeOf pa)) s = .next u ∧
          Answered s u m (if kind = .load then 6 else 8) 0x801 (fun q => q.clock = (u.die (ownerOf pa)).clock)) ∧
    (Arrived s 9 m → m.fn ≠ 3 → ∃ u, exec (.contributionRequest m) s = .next u ∧
      (u.die (hDie m.handle)).poolQ =
        (s.die (hDie m.handle)).poolQ ++ [{ handle := m.handle, pos := m.pos, src := .remote m.srcPod m.tag m.key }]) ∧
    (∀ c, Arrived s 11 m → (s.die (hDie m.handle)).granted = [c] → c.src = .remote m.srcPod m.tag m.key →
      ∃ u, exec (.contributionData m) s = .next u ∧ (u.die (hDie m.handle)).granted = [] ∧
        (u.die (hDie m.handle)).input = (s.die (hDie m.handle)).input ++ [{ c with data := m.data, pos := m.pos }]) ∧
    (Arrived s 12 m → (∀ d < 16, ∀ q < 16, m.clock.getD q 0 ≤ ((s.die d).vc).getD q 0) →
      ∃ u, exec (.remoteSettleRequest m) s = .next u ∧ Answered s u m 13 0 (fun q => q.clock = (s.die 0).clock)) ∧
    ((∃ d < 16, ∃ q < 16, ((s.die d).vc).getD q 0 < m.clock.getD q 0) → exec (.remoteSettleRequest m) s = .next s) ∧
    (Arrived s 0x12 m →
      let asker := m.value.toNat
      let sees (id : Nat) : Prop := ∃ a x, s.service.sessions.find? (fun y => y.id == asker) = some a ∧
        s.service.sessions.find? (fun y => y.id == id) = some x ∧ (a.role ≠ 0 ∨ x.role = 0 ∧ x.vdev = a.vdev)
      ∃ u a, exec (.journalQuery m) s = .next u ∧ u.service.responses = s.service.responses ++ [a] ∧ a.session = asker ∧
        Answered s u m 0x13 0 (fun _ => True) ∧ ∀ r, r ∈ a.jrecs ↔ r ∈ s.service.journal ∧
          sees r.session ∧
          if m.word.toNat = 0 then m.lo ≤ r.jseq ∧ r.jseq ≤ m.hi else r.session = m.word.toNat)

/-- R368, R372, R373: an answer merges the target's clock into the source die's cover, gives its lane the value or the cause, its
job the bytes or a write-pointer further on, its settle one package less to wait for; an answer's clock also joins the cover of the
lane's own strand; an operation that is unreachable, contribution data with the rest, gives the lane or the job that started it unmapped, 2 ms after it was handed to the transport and not before. -/
def Obligations.RemoteSources : Prop :=
  ∀ (s : State) (m : Msg) (tm : Team),
    let unacknowledged (tag : Nat) : Prop := ∃ t, s.fabric.sentAt.find tag = some t ∧ t + 4000000 ≤ s.time
    (∀ tag, ¬ unacknowledged tag → exec (.operationUnreachable tag) s = .next s) ∧
    (∀ op (r : Req) (t j l n : Nat), Arrived s op m → s.fabric.waits.find? (fun w => w.1 == m.tag) = some (m.tag, r) →
      r.src = .lane t j l n → s.fabric.held = [] → m.cause = 0 → s.team? t = some tm → tm.key = t → j < tm.sheaves.length →
      let sh (u : State) : Sheaf := u.sheafAt t j
      let merged (u : State) : Prop := (∀ w ∈ u.fabric.waits, w.1 ≠ m.tag) ∧ ∀ q < 16,
        ((u.die r.die).covers.val m.srcPod []).getD q 0 = max (((s.die r.die).covers.val m.srcPod []).getD q 0) (m.clock.getD q 0)
      (op = 2 → r.kind = .atomic → r.seq = n → r.dst = .v 0 → m.hi ≠ 1 → (tm.sheaf j).hold = .none →
        ∀ p, (tm.sheaf j).pend = [p] → p.seq = n → p.slotOf.getLsbD l = true →
          ∃ u, exec (.remoteAtomicAnswer m) s = .next (State.settled u t) ∧ merged u ∧
            (sh u).pend = [{ p with
              waits := p.waits - 1
              writes := p.writes ++ [Wr.v l 0 allOnes (extend r.ty m.value.toNat) (some r.tag)] }]) ∧
      (op = 4 → r.kind = .ldt → ((tm.sheaf j).strand l).run = .parked 0 → ((tm.sheaf j).strand l).park = .request r.id →
        l < (tm.sheaf j).strands.length → l < 32 →
        let st0 := (tm.sheaf j).strand l
        let st : Strand := { st0 with covers := st0.covers.put m.srcPod (clockMax (st0.covers.val m.srcPod []) m.clock) }
        (m.hi ≠ 1 → ∃ u, exec (.remoteStagedAnswer m) s = .next (State.settled u t) ∧ merged u ∧
          (sh u).strand l = { st with pc := st.pc + 8, run := .active, park := .nothing } ∧
          (r.dst = .v 0 → (sh u).entryVal l 0 = { bits := extend r.ty m.value.toNat, tag := r.tag })) ∧
        (m.hi = 1 → ∃ u, exec (.remoteStagedAnswer m) s = .next u ∧ merged u ∧
          (sh u).strand l = { st with run := .active, park := .nothing }))) ∧
    (∀ t seq which q, copyOf s m.tag t seq which q →
      let job (u : State) : Option Job := (u.team? t).bind fun x => x.job? seq
      (which = 0 → Arrived s 6 m → m.cause = 0 → ∃ u, exec (.copyReadData m) s = .next u ∧
        job u = some { q with waiting := false, source := some m.data }) ∧
      (which = 1 → Arrived s 6 m → m.cause = 0 → ∃ u, exec (.copyReadData m) s = .next u ∧
        job u = some { q with waiting := false, target := some m.data }) ∧
      (which = 0 → Arrived s 6 m → m.cause ≠ 0 → ∃ u, exec (.copyReadData m) s = .next u ∧
        job u = some { q with waiting := false, fail := some (m.cause, q.remoteVa) }) ∧
      (which = 2 → Arrived s 8 m → m.cause = 0 → ∃ u, exec (.writeAcknowledgement m) s = .next (State.settled u t) ∧
        job u = some { q with waiting := false, wp := q.wp + q.unitBytes, source := none, target := none, acked := false }) ∧
      (s.fabric.waits.find? (fun w => w.1 == m.tag) = none → which = 2 → unacknowledged m.tag → ∃ u,
        exec (.operationUnreachable m.tag) s = .next u ∧
        job u = some { q with waiting := false, fail := some (0x702, q.remoteVa) })) ∧
    (Arrived s 13 m → ∃ u, exec (.remoteSettleAnswer m) s = .next u ∧
      (u.settles = s.settles.map fun x => { x with remote := x.remote.filter fun y => y != m.tag }) ∧
      ∀ x y, s.settles.find? (fun x => x.remote.contains m.tag) = some x → s.team? x.t = some y → ∀ q < 16,
        ((u.die y.die).covers.val m.srcPod []).getD q 0 = max (((s.die y.die).covers.val m.srcPod []).getD q 0) (m.clock.getD q 0)) ∧
    (∀ tag t j l n off, unacknowledged tag → (∀ w ∈ s.fabric.waits, w.1 ≠ tag) → (∀ c ∈ s.fabric.copies, c.1 ≠ tag) →
      (∀ e ∈ s.fabric.contribs, e.1 ≠ tag) → s.fabric.dataOut.find? (fun e => e.1 == tag) = some (tag, .lane t j l n, off) →
      s.team? t = some tm → tm.key = t → j < tm.sheaves.length → (tm.sheaf j).vacant l = false →
      ∃ u, exec (.operationUnreachable tag) s = .next u ∧ (∀ e ∈ u.fabric.dataOut, e.1 ≠ tag) ∧
        ∃ q ∈ (u.sheafAt t j).traps, (l, 0x702, off) ∈ q.causes) ∧
    (∀ tag (r : Req) (t j l n : Nat), unacknowledged tag → s.fabric.waits.find? (fun w => w.1 == tag) = some (tag, r) →
      r.src = .lane t j l n → s.fabric.held = [] → r.kind = .ldt → s.team? t = some tm → tm.key = t → j < tm.sheaves.length →
      l < (tm.sheaf j).strands.length →
      ((tm.sheaf j).strand l).run = .parked 0 → ((tm.sheaf j).strand l).park = .request r.id →
      ∃ u, exec (.operationUnreachable tag) s = .next (State.settled u t) ∧ (∀ w ∈ u.fabric.waits, w.1 ≠ tag) ∧
        (u.sheafAt t j).strand l = { (tm.sheaf j).strand l with run := .active, park := .nothing } ∧
        ∃ q ∈ (u.sheafAt t j).traps, (l, 0x702, r.va) ∈ q.causes) ∧
    ∀ tag, (∀ w ∈ s.fabric.waits, w.1 ≠ tag) → (∀ c ∈ s.fabric.copies, c.1 ≠ tag) → (∀ e ∈ s.fabric.contribs, e.1 ≠ tag) →
      (∀ e ∈ s.fabric.dataOut, e.1 ≠ tag) → (∀ x ∈ s.settles, tag ∉ x.remote) → exec (.operationUnreachable tag) s = .next s

/-! ### Host -/

/-- R380 to R382, R377: a command of a session is performed once, in order of SEQ, by a session whose role the table names, and
journalled; one ahead of its turn is answered OUT-OF-ORDER and not recorded, a repeated one with its recorded outcome, or
EXPIRED, and DUP; while every record of a full journal is still being performed, a command waits. Status numbers, and what becomes of
a header that is not laid out as R380 says, are the model's choice (log entry 20). -/
def Obligations.CommandProtocol : Prop :=
  ∀ (ins : Instr) (code : Nat) (roles : List Nat) (m : Cmd) (s : State), commandRow ins = some (code, roles, m) → s.power = true →
    s.boot = 5 →
    let replies (status : Nat) (result : Word) (dup : Bool) : Prop := exec ins s = .next { s with service := { s.service with
      responses := s.service.responses ++ [{ session := m.session, seq := m.seq, status := status, result := result, dup := dup }] } }
    (¬ keyPasses s.fabric.keyTable m.key → exec ins s =
      .next { s with fabric := { s.fabric with dropped := s.fabric.dropped + 1 } }) ∧
    (keyPasses s.fabric.keyTable m.key →
      (s.service.sessions.find? (fun y => y.id == m.session) = none → replies 2 0 false) ∧
      ∀ x, s.service.sessions.find? (fun y => y.id == m.session) = some x →
        (m.zero ≠ 0 ∨ m.length ≠ m.body.length → replies 4 0 false) ∧
        (m.zero = 0 → m.length = m.body.length →
          (x.high + 1 < m.seq → replies 0xFFFE 0 false) ∧
          (m.seq ≤ x.high →
            (∀ r, s.service.journal.find? (fun r => r.session == m.session && r.seq == m.seq) = some r → replies r.status r.result true) ∧
            ((∀ r ∈ s.service.journal, ¬ (r.session = m.session ∧ r.seq = m.seq)) → replies 0xFFFD 0 true)) ∧
          (m.seq = x.high + 1 →
            let full : Prop := 65536 ≤ s.service.journal.length ∧ ∀ r ∈ s.service.journal, r.status = 0xFFFF
            (full → exec ins s = .next s) ∧
            (¬ full → x.isOpen = true → x.role ∈ roles → ∃ u st res, exec ins s = .next u ∧ (st = 0 ∨ st = 3) ∧
              Performed s u m code st res anyBody) ∧
            (¬ full → x.isOpen = true → x.role ∉ roles → ∃ u, exec ins s = .next u ∧ Performed s u m code 1 0 anyBody ∧
              u.launches = s.launches ∧ u.pages = s.pages ∧ u.fabric = s.fabric ∧ u.clusters = s.clusters ∧ u.dies = s.dies) ∧
            (¬ full → x.isOpen = false → ∃ u, exec ins s = .next u ∧ Performed s u m code 2 0 anyBody ∧
              u.launches = s.launches ∧ u.pages = s.pages ∧ u.fabric = s.fabric ∧ u.clusters = s.clusters ∧ u.dies = s.dies))))

/-- R380, R382: OPEN begins a session of a role, 1 and 2 under the management key alone, and is its first command; CLOSE ends it.
R383 to R386: a nonce of 64 bytes is answered with a report that opens with it, and by a package whose boot has failed too; SNAP
takes a snapshot or counts it as missed, SNAPREAD answers the held one and ends its hold. The report
is signed over its SHA-512 digest (key, nonce and the fused digests are free, log entry 2). -/
def Obligations.SessionAndServiceCommands : Prop :=
  (∀ (s : State) (m : Cmd) (role vdev : Nat), s.power = true → s.boot = 5 → keyPasses s.fabric.keyTable m.key →
    (∀ y ∈ s.service.sessions, y.id ≠ m.session) → m.zero = 0 → m.length = m.body.length →
    let may : Prop := role ≤ 2 ∧ vdev < 64 ∧ (role ≠ 0 → m.key % 2 ^ 15 = 0x7FFF)
    (m.seq ≠ 1 → ∃ u, exec (.openCmd m role vdev) s = .next u ∧ u.service.sessions = s.service.sessions ∧
      u.service.journal = s.service.journal ∧ ∃ a, u.service.responses = s.service.responses ++ [a] ∧ a.session = m.session ∧
        a.seq = m.seq ∧ a.status = if m.seq = 0 then 0xFFFD else 0xFFFE) ∧
    (m.seq = 1 → journalFull s.service.journal = true → exec (.openCmd m role vdev) s = .next s) ∧
    (m.seq = 1 → journalFull s.service.journal = false →
    (may → ∃ u, exec (.openCmd m role vdev) s = .next u ∧ Performed s u m 1 0 0 anyBody ∧
      u.service.sessions = s.service.sessions ++ [{ id := m.session, role := role, vdev := vdev, high := 1 }]) ∧
    (¬ may → ∃ u, exec (.openCmd m role vdev) s = .next u ∧ u.service.sessions = s.service.sessions))) ∧
  (∀ (s : State) (m : Cmd) (x : Session), Accepts s m x →
    (x.role ≤ 2 → ∃ u, exec (.closeCmd m) s = .next u ∧ Performed s u m 1 0 0 anyBody ∧
      ∀ y ∈ u.service.sessions, y.id = m.session → y.isOpen = false) ∧
    (∀ nonce, x.role ≤ 2 → nonce.length = 64 → ∃ u, exec (.attest m nonce) s = .next u ∧
      Performed s u m 12 0 0 fun b =>
        let digest (k : Nat) : List Byte := natBytes 64 (Config.fusedDigest k).toNat
        let report := nonce ++ natBytes 2 s.ownPod ++ digest 0 ++ digest 1 ++ digest 2 ++ digest 3 ++ [5, 0]
        let g := packageSignature (sha512 report) s.free
        s.bootFail = none → b = report ++ (natBytes 66 g.1).reverse ++ (natBytes 66 g.2).reverse) ∧
    (∀ code, x.role = 1 → ∃ u, exec (.snapCommand m code) s = .next u ∧ Performed s u m 13 0 0 anyBody ∧
      u.snapshot = if s.snapshot.held then { s.snapshot with missed := min 255 (s.snapshot.missed + 1) }
        else { held := true, code := code % 256, core := 0, source := 1, time := s.time, blocks := s.blocks }) ∧
    (x.role = 1 → s.snapshot.held = true → ∃ u, exec (.snapread m) s = .next u ∧ u.snapshot = {} ∧
      Performed s u m 13 0 (BitVec.ofNat 64 s.snapshot.missed) fun b => b =
        natBytes 1 s.snapshot.code ++ natBytes 2 s.snapshot.core ++ natBytes 1 s.snapshot.source ++ natBytes 8 s.snapshot.time ++
        Config.snapshotImage s.snapshot.blocks) ∧
    (x.role = 1 → s.snapshot.held = false → ∃ u, exec (.snapread m) s = .next u ∧ Performed s u m 13 3 0 anyBody) ∧
    (∀ (d log : Nat), x.role = 1 → d < 16 → log < 3 →
      let pa := Config.logPa d log
      let q := (s.die d).log log
      let r := s.numAt (pa + 8) 8
      ∃ u, exec (.logread m d log) s = .next u ∧ u.numAt (pa + 8) 8 = q.write % 2 ^ 64 ∧ Performed s u m 11 0 0 fun b => b =
        (List.range (min 4096 (q.write - r))).flatMap fun k => (List.range 32).map fun n =>
          (s.die (ownerOf pa)).view.get (pa + 128 + 32 * ((r + k) % 4096) + n)) ∧
    (∀ t j tm, x.role = 0 → HeldFor s x t j tm →
      let sh := tm.sheaf j
      let pc (l : Nat) : Nat := field sh.record (0x80 + 8 * l) 8
      (∃ u, exec (.debugRead m t j []) s = .next u ∧ Performed s u m 14 0 0 fun b => b = sh.record) ∧
      ((∀ l < 32, (field sh.record 0 4).testBit l = true → pc l % 8 = 0 ∧ pc l < 2 ^ 48) → sh.strands.length = 32 →
        ∃ u, exec (.debugResume m t j) s = .next u ∧ Performed s u m 14 0 0 anyBody ∧ (u.sheafAt t j).hold = .none ∧
          ∀ l < 32, (u.sheafAt t j).strand l = if (field sh.record 0 4).testBit l then
            { sh.strand l with pc := BitVec.ofNat 48 (pc l), run := .active, park := .nothing } else sh.strand l) ∧
      (tm.killed = false → (∀ v ∈ s.saved, v.team.key ≠ t) → ∃ u, exec (.debugEnd m t j) s = .next u ∧
        Performed s u m 14 0 0 anyBody ∧ (∀ y, u.team? t = some y → y.killed = true) ∧
        ∀ l, s.launch? tm.launch = some l → ∃ y, u.launch? tm.launch = some y ∧ y.killed = l.killed + 1 ∧
          (l.cause = 0 → y.cause = 0xA02)))) ∧
  (∀ (s : State) (m : Cmd) (nonce : List Byte), s.power = true → s.boot ≠ 5 → nonce.length = 64 → ∃ u a,
    exec (.attest m nonce) s = .next u ∧ u.service.responses = s.service.responses ++ [a] ∧ a.status = 0 ∧ a.body.take 64 = nonce)

/-- R382, R383, R385: power-on begins from nothing but what the fuses hold, and a step that fails is kept with its number; a
package that has booted does not boot again. Power-off leaves nothing. A trigger takes a snapshot unless one is held. The values
that power-on gives where the spec gives none are the model's choice (log entries 5 and 6). -/
def Obligations.PowerAndSnapshots : Prop :=
  ∀ s : State,
    let blank (u : State) : Prop := u.time = 0 ∧ u.teams = [] ∧ u.launches = [] ∧ u.saved = [] ∧ u.cores = [] ∧ u.dies = [] ∧
      u.pages = [] ∧ u.stores = [] ∧ u.service = {} ∧ u.fabric = { keyTable := [0xFFFF] } ∧ u.snapshot = {} ∧
      (SMap.sorted s.clusters = true → ∀ k, u.cluster k = { fused := (s.cluster k).fused })
    (s.power = false ∨ s.boot = 0 ∧ s.bootFail = none →
      (∃ u, exec (.powerOn none) s = .next u ∧ u.power = true ∧ u.boot = 5 ∧ u.bootFail = none ∧ blank u) ∧
      ∀ k, ∃ u, exec (.powerOn (some k)) s = .next u ∧ u.power = true ∧ u.boot = k - 1 ∧ u.bootFail = some k ∧ blank u) ∧
    (∀ f, s.power = true → s.boot ≠ 0 ∨ s.bootFail ≠ none → exec (.powerOn f) s = .next s) ∧
    (∃ u, exec .powerOff s = .next u ∧ u.power = false ∧ blank u) ∧
    ∀ source code,
      (s.snapshot.held = false → ∃ u, exec (.snapshotTrigger source code) s = .next u ∧
        u.snapshot = { held := true, code := code % 256, core := 0, source := source, time := s.time, blocks := s.blocks }) ∧
      (s.snapshot.held = true → exec (.snapshotTrigger source code) s =
        .next { s with snapshot := { s.snapshot with missed := min 255 (s.snapshot.missed + 1) } })

/-- R262, R343 to R345, R365, R366, R387, R394, R395: ALLOC answers the address of a region apart from every other, a cellar one
zeroed; FREE takes a region and its pages away, but none that a running launch owns; LOAD takes a code object of R73 to R75
and R342 and drops fetched words; LAUNCH takes a record as LNCH does; KILL ends every team of a launch. Where regions lie and what
their report holds is the model's choice (log entry 36); what a launch's record must be is read from the rules (log entry 26). -/
def Obligations.MemoryAndLaunchCommands : Prop :=
  ∀ (s : State) (m : Cmd) (x : Session), Accepts s m x → x.role = 0 →
    (∀ a, a.bytes ≠ 0 → a.grade ≤ 8 → a.image = [] →
      (a.cellar = false → a.die = none → (s.partDies (s.partOf x.vdev)).headD 0 < 16 → s.freshVa a.bytes ≠ none → ∃ u g, exec (.allocCmd m a) s = .next u ∧
        Performed s u m 3 0 (BitVec.ofNat 64 g.va) (fun b => b.take 8 = natBytes 8 g.va) ∧ u.service.regions = s.service.regions ++ [g] ∧ g.vdev = x.vdev ∧
        g.bytes = a.bytes ∧ g.grade = a.grade ∧ g.asked = true ∧
        (∀ q ∈ s.service.regions, q.bytes ≠ 0 → q.va + q.bytes ≤ g.va ∨ g.va + a.bytes ≤ q.va) ∧
        ∀ q ∈ s.pages, q.size ≠ 0 → q.va + q.size ≤ g.va ∨ g.va + a.bytes ≤ q.va) ∧
      (∀ d n, a.cellar = true → a.die = some d → d < 16 → (s.die d).findRun ((a.bytes + 1048575) / 1048576) = some n →
        s.freshVa ((a.bytes + 1048575) / 1048576 * 1048576) ≠ none →
        let pa := cellarPa d (n * 1048576)
        ∃ u r, exec (.allocCmd m a) s = .next u ∧ Performed s u m 3 0 (BitVec.ofNat 64 r.va) (fun b => b.take 8 = natBytes 8 r.va ∧
            ((∀ e, ∀ q ∈ (s.die e).regions, q.vdev = x.vdev → q.va ≠ r.va) → b.drop 8 = natBytes 8 (n * 1048576))) ∧ r ∈ (u.die d).regions ∧
          r.pa = pa ∧ r.bytes = a.bytes ∧ r.vdev = x.vdev ∧ r.grade = a.grade ∧ r.launch = none ∧
          ∀ k < a.bytes, (u.die d).view.get (pa + k) = 0)) ∧
    (∀ va,
      (∀ g, s.regionAt x.vdev va = none → s.service.regions.find? (fun g => g.asked && g.vdev == x.vdev && g.va == va) = some g →
        ∃ u, exec (.freeCmd m va) s = .next u ∧ Performed s u m 3 0 0 anyBody ∧
          u.service.regions = s.service.regions.filter (fun q => !(q.vdev == x.vdev && q.va == va)) ∧
          ∀ q ∈ u.pages, ¬ (q.vdev = x.vdev ∧ va ≤ q.va ∧ q.va < va + g.bytes)) ∧
      (∀ r n l, s.regionAt x.vdev va = some r → r.launch = some n → s.launch? n = some l → l.state ≠ 2 →
        ∃ u, exec (.freeCmd m va) s = .next u ∧ Performed s u m 3 3 0 anyBody ∧ u.dies = s.dies ∧ u.pages = s.pages) ∧
      (∀ r, s.regionAt x.vdev va = some r → r.launch = none → r.ctx = none →
        (∀ e ∈ (s.die (ownerOf r.pa)).metas, ¬ (r.pa ≤ e.1 ∧ e.1 < r.pa + r.bytes)) →
        ∃ u, exec (.freeCmd m va) s = .next u ∧ Performed s u m 3 0 0 anyBody ∧
          (u.die (ownerOf r.pa)).regions = (s.die (ownerOf r.pa)).regions.filter (fun q => q.pa != r.pa) ∧
          ∀ q ∈ u.pages, ¬ (q.vdev = r.vdev ∧ r.va ≤ q.va ∧ q.va < r.va + r.bytes)) ∧
      (s.regionAt x.vdev va = none → (∀ g ∈ s.service.regions, ¬ (g.asked = true ∧ g.vdev = x.vdev ∧ g.va = va)) →
        ∃ u, exec (.freeCmd m va) s = .next u ∧ Performed s u m 3 3 0 anyBody ∧ u.dies = s.dies ∧ u.pages = s.pages)) ∧
    (∀ obj, (objectOk obj = false → ∃ u, exec (.loadCmd m obj []) s = .next u ∧ Performed s u m 2 3 0 anyBody ∧
        u.service.codes = s.service.codes) ∧
      (objectOk obj = true → s.placeObject x.vdev obj ≠ none → ∃ u va, exec (.loadCmd m obj []) s = .next u ∧ Performed s u m 2 0 (BitVec.ofNat 64 va) anyBody ∧
        u.service.codes = s.service.codes ++ [objectAt obj va x.vdev []] ∧ ∀ k, (u.core k).ibuf = [])) ∧
    (∀ record, record % 128 ≠ 0 → ∃ u, exec (.launchCmd m record) s = .next u ∧ Performed s u m 4 3 (refusalWord 1) anyBody ∧
      u.launches = s.launches) ∧
    (∀ record bs co (pg : Nat → Mapping), record % 128 = 0 → bs.length = 640 → GoodLaunch s bs co → field bs 9 1 = x.vdev →
      (∀ k < 5, s.pageOf x.vdev (record + 128 * k) = some (pg k) ∧ isFabric ((pg k).paOf (record + 128 * k)) = false ∧
        (pg k).grade = 8 ∧ ∀ q < 128, bs.getD (128 * k + q) 0 = (s.die 0).view.get ((pg k).paOf (record + 128 * k) + q)) →
      s.service.nextLaunch < 2 ^ 32 →
      ∃ u l, exec (.launchCmd m record) s = .next u ∧ Performed s u m 4 0 (BitVec.ofNat 64 s.service.nextLaunch) anyBody ∧
        Launched s u bs co l) ∧
    (∀ n l, s.launch? n = some l →
      (l.vdev ≠ x.vdev → ∃ u, exec (.killCmd m n) s = .next u ∧ Performed s u m 5 3 0 anyBody ∧ u.launches = s.launches ∧
        u.teams = s.teams) ∧
      (l.vdev = x.vdev → l.state = 2 → ∃ u, exec (.killCmd m n) s = .next u ∧ Performed s u m 5 0 0 anyBody ∧
        u.launches = s.launches ∧ u.teams = s.teams) ∧
      (l.vdev = x.vdev → l.state = 1 → SMap.sorted s.teams = true → ∃ u, exec (.killCmd m n) s = .next u ∧
        Performed s u m 5 0 0 anyBody ∧ (∀ t y, u.team? t = some y → y.launch = n → y.killed = true) ∧
        ∀ v ∈ u.saved, v.team.launch ≠ n) ∧
      (l.vdev = x.vdev → l.state = 0 → s.ctxsOf n = [] → (∀ q ∈ s.outstanding, q.launch ≠ n) → (∀ e ∈ s.teams, e.2.launch ≠ n) → (∀ v ∈ s.saved, v.team.launch ≠ n) →
        (∀ g ∈ l.stages, g.nextLid = 0 ∧ g.ended = []) → (∀ k, ∀ q ∈ (s.cluster k).reorder, q.bad = false) →
        ∃ u y, exec (.killCmd m n) s = .next u ∧ Performed s u m 5 0 0 anyBody ∧ u.launch? n = some y ∧ y.state = 2 ∧
          y.killed = l.killed + (l.stages.map fun g => g.teams).sum))

/-- R249, R259, R360, R361, R349, R320: PART makes a partition of free clusters, resizes it within its dies, drops it with its classes
and changes its settings; a team on a cluster that a resize takes away is pre-empted. A budget is kept for its stack. R370,
R374, R376 to R379: WINDOW, ROUTE, ROUTESWAP, KEYS and SUBSCRIBE write the window, the inactive bank, the swap, the key table
and a subscriber's ring, which a second SUBSCRIBE reads (the model's choice, log entry 34). The default share of class tables, and
what of a setting out of range is refused, is the model's choice (log entries 37 and 38). -/
def Obligations.PartitionAndFabricCommands : Prop :=
  ∀ (s : State) (m : Cmd) (x : Session), Accepts s m x →
    (x.role = 1 →
      (∀ part vdev clusters share, part ≤ 191 → vdev ≤ 63 → clusters ≠ [] → (∀ p ∈ s.service.parts, p.part ≠ part) →
        let done (u : State) (st : Nat) : Prop := exec (.partMake m part vdev clusters (some share)) s = .next u ∧
          Performed s u m 6 st 0 anyBody
        ((∀ k ∈ clusters, k < 192 ∧ (s.cluster k).fused = false ∧ (s.cluster k).part = none ∧ s.residents k = []) →
          (∀ k ∈ clusters, share ≤ s.unshared (k / 12)) → ∃ u p, done u 0 ∧ u.service.parts = s.service.parts ++ [p] ∧
            p.part = part ∧ p.vdev = vdev ∧ p.clusters = clusters ∧ p.quantum = 2000000 ∧
            (∀ k ∈ clusters, (u.cluster k).part = some part ∧ (u.cluster k).cap = 6 ∧ (u.cluster k).quota = 16) ∧
            ∀ k, k ∉ clusters → u.cluster k = s.cluster k) ∧
        ((∃ k ∈ clusters, (s.cluster k).part ≠ none) → ∃ u, done u 3 ∧ u.clusters = s.clusters)) ∧
      (∀ part p clusters, s.service.parts.find? (fun q => q.part == part) = some p → clusters ≠ [] → NoChains s →
        let had := s.partClusters part
        (∀ k ∈ clusters, k ∈ had ∨ k < 192 ∧ (s.cluster k).fused = false ∧ (s.cluster k).part = none ∧ s.residents k = []) →
        (∀ d, (∃ k ∈ clusters, k / 12 = d) ↔ ∃ k ∈ had, k / 12 = d) → ∃ u, exec (.partResize m part clusters) s = .next u ∧
          Performed s u m 6 0 0 anyBody ∧
          (∀ k ∈ clusters, (u.cluster k).part = some part ∧ (k ∉ had → (u.cluster k).fresh = true)) ∧
          (∀ k ∈ had, k ∉ clusters → (u.cluster k).part = none) ∧
          ∀ t tm, s.team? t = some tm → tm.key = t → tm.core / 8 ∈ had → tm.core / 8 ∉ clusters → tm.preempt = .none →
            ∃ y, u.team? t = some y ∧ y.preempt = .decided s.time 2 0 (0, 0, 0)) ∧
      (∀ part, (∃ p ∈ s.service.parts, p.part = part) →
        ((∀ l ∈ s.launches, l.part = part → l.state = 2) → ∃ u, exec (.partDrop m part) s = .next u ∧
          Performed s u m 6 0 0 anyBody ∧ u.service.parts = s.service.parts.filter (fun p => p.part != part) ∧
          (∀ k ∈ s.partClusters part, (u.cluster k).part = none) ∧ ∀ d < 16, ∀ y ∈ (u.die d).tables, y.1 ≠ part) ∧
        ((∃ l ∈ s.launches, l.part = part ∧ l.state ≠ 2) → ∃ u, exec (.partDrop m part) s = .next u ∧
          Performed s u m 6 3 0 anyBody ∧ u.service.parts = s.service.parts)) ∧
      (∀ part cap quota, (∃ p ∈ s.service.parts, p.part = part) → s.partClusters part ≠ [] → 4 ≤ cap → 1 ≤ quota →
        let v : Settings := { cap := some cap, quota := some quota }
        (cap ≤ 6 → quota ≤ 16 → ∃ u, exec (.partSettings m part none v) s = .next u ∧ Performed s u m 6 0 0 anyBody ∧
          ∀ k ∈ s.partClusters part, (u.cluster k).cap = cap ∧ (u.cluster k).quota = quota ∧
            (u.cluster k).pfloor = (s.cluster k).pfloor ∧ (u.cluster k).afloor = (s.cluster k).afloor) ∧
        (6 < cap ∨ 16 < quota → ∃ u, exec (.partSettings m part none v) s = .next u ∧ Performed s u m 6 3 0 anyBody ∧
          u.clusters = s.clusters)) ∧
      (∀ d side vdev bytes, d < 16 → side < 2 → vdev < 64 → ∃ u, exec (.budget m (2 * d + side) vdev bytes) s = .next u ∧
        Performed s u m 11 0 0 anyBody ∧ ((u.die d).stack side).budget.find vdev = some bytes) ∧
      (∀ idx (w0 w1 : Word), idx < 4096 → w1.toNat < 2 ^ 52 → w1.toNat % 2 ^ 30 = 0 → w0.toNat / 2 ^ 48 % 2 ^ 15 = 0 →
        w0.toNat / 2 ^ 30 % 4 = 0 → w0.toNat / 2 ^ 14 % 2 ^ 10 = 0 → ∃ u, exec (.window m idx w0 w1) s = .next u ∧
          Performed s u m 7 0 0 anyBody ∧ ∀ k, u.fabric.windows.find k = if k = idx then some (w0, w1) else s.fabric.windows.find k)) ∧
    (x.role = 2 →
      (∀ dest (e : Word), dest < 16384 → e.toNat / 2 ^ 56 % 64 = 0 → e.toNat / 2 ^ 32 % 2 ^ 19 = 0 →
        (e.toNat.testBit 63 = true → e.toNat.testBit (e.toNat / 2 ^ 51 % 32) = true) → ∃ u,
          exec (.route m [(dest, e)] none) s = .next u ∧ Performed s u m 8 0 0 anyBody ∧ u.fabric.active = s.fabric.active ∧
          (if s.fabric.useB then u.fabric.bankA else u.fabric.bankB).find dest = some e ∧ u.fabric.pod = s.fabric.pod) ∧
      (∃ u, exec (.routeswap m) s = .next u ∧ Performed s u m 8 0 0 anyBody ∧ u.fabric = { s.fabric with swapDue := true }) ∧
      ∀ table, table.length ≤ 64 → ∃ u, exec (.keys m table) s = .next u ∧ Performed s u m 9 0 0 anyBody ∧
        u.fabric = { s.fabric with keyTable := table }) ∧
    (x.role = 1 ∨ x.role = 2 → (∀ r ∈ s.fabric.rings, r.session ≠ x.id) → ∃ u, exec (.subscribe m) s = .next u ∧
      Performed s u m 10 0 0 anyBody ∧ u.fabric.rings = s.fabric.rings ++ [{ session := x.id }]) ∧
    (∀ r, x.role = 1 ∨ x.role = 2 → s.fabric.rings.find? (fun r => r.session == x.id) = some r → ∃ u, exec (.subscribe m) s = .next u ∧
      Performed s u m 10 0 0 (fun b => b = natBytes 8 r.write ++ natBytes 8 r.read ++ natBytes 8 r.dropped ++ List.replicate 104 0 ++
        r.unread.flatMap Notice.image) ∧
      u.fabric.rings = s.fabric.rings.map fun q => if q.session = x.id then { q with read := q.write } else q)

/-! ### The whole machine -/

/-- R56, R64 to R66, R70, R72: the word of every well-formed instruction decodes to it, and a word that decodes is that of the
instruction it decodes to, which is well formed. -/
def Obligations.DecodeEncode : Prop :=
  (∀ (i : Instr) (w : BitVec 64), i.wellFormed = true → encode i = some w → decode w = .ok i) ∧
  (∀ (i : Instr) (w : BitVec 64), decode w = .ok i → i.wellFormed = true ∧ encode i = some w)

/-- R56, R64 to R66: words that the spec writes out decode to the instructions it gives them. R184, R324, R378, R383: after
reset the package has booted nothing and holds nothing; time and every clock read 0, the key table holds the boot key alone,
no port is up, and every die's memory is in canonical form and reads as 0, which is the model's choice where the spec gives
no contents (log entries 5 and 6). -/
def Obligations.DecodedWordsAndReset : Prop :=
  (decode 0x2061E18300009004 = .ok (.iadd { sw := true } { d := 6, a := 6, bc := .imm 1, ty := .s32 }) ∧
   decode 0x48A9E08344801000 = .ok (.icmp { ver1 := true, hold := 2 } .lt {
     d := 2, a := 6, bc := .regs { uni := true, idx := 9 } {}, ty := .s32 }) ∧
   decode 0x0159E00000002820 = .ok (.fenceRel {} { scope := .die }) ∧
   decode 0x0169E00042800000 = .ok (.barx {} { b := { uni := true, idx := 5 } }) ∧
   decode 0x01E1E609151700C0 = .ok (.aadd {} { d := 24, base := some 9, index := some 21, e := 23, ty := .n32 }) ∧
   decode 0x01E9E102010004E0 = .ok (.ldt {} { d := 4, base := some 2, index := some 1, g := 2, ty := .n64 }) ∧
   decode 0x01FDE08044018020 = .ok (.mapctlMigrate {} { d := 2, b := { uni := true, idx := 8 }, sel := 3 })) ∧
  (let s := State.reset
   s.boot = 0 ∧ s.time = 0 ∧ s.teams = [] ∧ s.launches = [] ∧ s.pages = [] ∧ s.service.sessions = [] ∧ s.service.journal = [] ∧
   s.fabric.keyTable = [0xFFFF] ∧ s.fabric.pod = none ∧ (∀ p, (s.port p).up = false) ∧ (∀ d k, ((s.die d).vc).getD k 0 = 0) ∧
   s.memWf ∧ ∀ d a, (s.die d).view.get a = 0)

/-- The teams of lower lid.team whose draws from the item counter fall in the same cycle as this port's issue go first (R347). -/
def drawnFirst (s : State) (core : Nat) (mem : Bool) : State :=
  (s.drawsBefore core mem).foldl (fun x c => let y := outState (x.issueOn c false) x; outState (y.issueOn c true) y) s

/-- R97, R98, R174: an issue turn of a port runs the instruction that the bytes at the chosen batch's address decode to, in a state
in which its core keeps the fetched word; where the word has issued, the port's account follows, and the account of the sheaf's
shadow where it has one (R180). A word that does not issue, refused or held for a commit (R72, R178), leaves the account as it is.
The memory port waits for the vector port's choice. A word refused by R72, a line tagged A and an address without a word are the
illegal-instruction and fetch traps. Draws of teams of lower lid.team in the same cycle go before (R347). An event turn is its
event. That the machine moves by turns of an agenda, that a turn may leave an issue's loads to be performed later, and that a
shadow follows its leader's stream is the model's choice (log entries 4, 13 and 14). -/
def Obligations.StepRunsDecoded : Prop :=
  (∀ (s : State) (core : Nat) (mem late : Bool) (rest : List Turn) (tm : Team) (j : Nat) (k : Nat × Nat),
    s.turns = (if late then .issueLate core mem else .issue core mem) :: rest →
    let s1 : State := { s with turns := rest }
    let s0 := (drawnFirst s1 core mem).markCore core
    (if mem then (s0.core core).usedM else (s0.core core).usedV) = false → s0.pick core mem = some (tm, j) →
    (mem = true → (s0.core core).usedV = true ∨ s0.pick core false = none) → (tm.sheaf j).front = some k →
    let runs (i : Instr) : Prop := ∀ t, exec i { (s0.issuing tm j) with late := late } = .next t →
      let v : State := { t with late := false }
      let went : Prop := ∀ x, v.team? tm.key = some x → (x.sheaf j).iss ≠ (tm.sheaf j).iss
      (went → ∃ u, step s = .next (State.issued u core mem tm.key j) ∧ u = s0.toShadow v tm.key j i mem (s0.nextApx tm k.2) ∧
        ((∀ a, s0.team? tm.key = some a → a.shadow? j = none) → u = v)) ∧
      (¬ went → step s = .next (v.markSafe tm.key))
    (s1.drawsBefore core mem = [] → s0 = s1.markCore core) ∧
    (∀ pa w, s0.fetchAt tm.core tm.vdev k.2 = .word pa w →
      (∀ i, decode w = .ok i → runs i) ∧ (∀ r, decode w = .error r → runs (.illegal (some r))) ∧
      ((s0.core tm.core).ibuf.find pa = none → w.toNat = (s0.die (dieOfCore tm.core)).view.getNat pa 8)) ∧
    (s0.fetchAt tm.core tm.vdev k.2 = .approx → runs (.illegal none)) ∧
    (s0.fetchAt tm.core tm.vdev k.2 = .unmapped ∨ s0.fetchAt tm.core tm.vdev k.2 = .notExecutable → runs .fetchTrap)) ∧
  ∀ (s : State) (i : Instr) (rest : List Turn), s.turns = .event i :: rest → step s = exec i { s with turns := rest }

/-- Every step answers a next state: no instruction, event or state stops the machine. That the machine moves by turns of an
agenda, and moves in every state, is the model's choice (log entry 4). -/
def Obligations.EveryStepAnswers : Prop := ∀ s : State, ∃ t, step s = .next t

/-- Every step keeps every die's memory in its canonical form, which is the model's own (log entry 6). -/
def Obligations.StepKeepsMemoryCanonical : Prop := ∀ s t : State, s.memWf → step s = .next t → t.memWf
end

