-- ==== Sys2Proof/Laws/Maps.lean ====
section
/-! SUPPORT. Laws of sparse maps and of byte memory: reading after writing, and the canonical form. -/

namespace Sys2Proof

variable {α : Type}

/-! ### Sparse maps -/

@[simp] theorem SMap.find_put_same (m : SMap α) (k : Nat) (v : α) : (SMap.put m k v).find k = some v := by
  induction m with
  | nil => simp [SMap.put, SMap.find]
  | cons e r ih =>
    obtain ⟨j, u⟩ := e
    by_cases h : k < j
    · simp [SMap.put, h, SMap.find]
    · by_cases h' : j = k
      · subst h'; simp [SMap.put, SMap.find]
      · simp [SMap.put, h, h', SMap.find, ih]

theorem SMap.find_put_ne (m : SMap α) (k k' : Nat) (v : α) (h : k' ≠ k) : (SMap.put m k v).find k' = m.find k' := by
  induction m with
  | nil => simp only [SMap.put, SMap.find, if_neg (Ne.symm h)]
  | cons e r ih =>
    obtain ⟨j, u⟩ := e
    by_cases hk : k < j
    · simp only [SMap.put, if_pos hk, SMap.find, if_neg (Ne.symm h)]
    · by_cases hj : j = k
      · subst hj; simp [SMap.put, SMap.find, Ne.symm h]
      · simp only [SMap.put, if_neg hk, if_neg hj, SMap.find, ih]

theorem SMap.put_put (m : SMap α) (k : Nat) (v w : α) : SMap.put (SMap.put m k v) k w = SMap.put m k w := by
  induction m with
  | nil => simp [SMap.put]
  | cons e r ih =>
    obtain ⟨j, u⟩ := e
    by_cases hk : k < j
    · simp [SMap.put, hk]
    · by_cases hj : j = k
      · subst hj; simp [SMap.put]
      · simp [SMap.put, hk, hj, ih]

@[simp] theorem SMap.val_put_same (m : SMap α) (k : Nat) (v d : α) : (SMap.put m k v).val k d = v := by
  simp [SMap.val]

theorem SMap.val_put_ne (m : SMap α) (k k' : Nat) (v d : α) (h : k' ≠ k) : (SMap.put m k v).val k' d = m.val k' d := by
  simp [SMap.val, SMap.find_put_ne m k k' v h]

@[simp] theorem SMap.val_upd_same (m : SMap α) (k : Nat) (d : α) (f : α → α) : (SMap.upd m k d f).val k d = f (m.val k d) := by
  simp [SMap.upd]

theorem SMap.val_upd_ne (m : SMap α) (k k' : Nat) (d : α) (f : α → α) (h : k' ≠ k) :
    (SMap.upd m k d f).val k' d = m.val k' d := by
  simp [SMap.upd, SMap.val_put_ne _ _ _ _ _ h]

theorem SMap.upd_upd (m : SMap α) (k : Nat) (d : α) (f g : α → α) :
    SMap.upd (SMap.upd m k d f) k d g = SMap.upd m k d fun x => g (f x) := by
  simp [SMap.upd, SMap.put_put]

theorem SMap.find_filter (m : SMap α) (p : Nat → Bool) (k : Nat) :
    SMap.find (m.filter fun e => p e.1) k = if p k then m.find k else none := by
  induction m with
  | nil => simp [SMap.find]
  | cons e r ih =>
    obtain ⟨j, u⟩ := e
    by_cases hj : j = k
    · subst hj
      by_cases hp : p j = true
      · simp [hp, SMap.find]
      · rw [List.filter_cons_of_neg (by simpa using hp), ih]; simp [hp]
    · by_cases hp : p j = true
      · simp only [List.filter_cons, hp, if_true, SMap.find, if_neg hj, ih]
      · simp only [List.filter_cons, hp, SMap.find, if_neg hj]; exact ih

theorem SMap.find_del_same (m : SMap α) (k : Nat) : (SMap.del m k).find k = none := by
  rw [SMap.del, SMap.find_filter m (fun j => j != k)]; simp

theorem SMap.find_del_ne (m : SMap α) {k k' : Nat} (h : k' ≠ k) : (SMap.del m k).find k' = m.find k' := by
  rw [SMap.del, SMap.find_filter m (fun j => j != k)]; simp [h]

@[simp] theorem SMap.val_store_same [DecidableEq α] (m : SMap α) (k : Nat) (d v : α) : (SMap.store m d k v).val k d = v := by
  unfold SMap.store
  split
  · simp [SMap.val, SMap.find_del_same, ‹v = d›]
  · simp

theorem SMap.val_store_ne [DecidableEq α] (m : SMap α) {k k' : Nat} (d v : α) (h : k' ≠ k) :
    (SMap.store m d k v).val k' d = m.val k' d := by
  unfold SMap.store
  split
  · simp [SMap.val, SMap.find_del_ne m h]
  · exact SMap.val_put_ne _ _ _ _ _ h

/-- Every entry of an updated map is an old one or the written one. -/
theorem SMap.mem_put {m : SMap α} {k : Nat} {v : α} {e : Nat × α} (h : e ∈ SMap.put m k v) : e = (k, v) ∨ e ∈ m := by
  induction m with
  | nil => exact .inl (by simpa [SMap.put] using h)
  | cons x r ih =>
    obtain ⟨j, u⟩ := x
    by_cases hk : k < j
    · simpa [SMap.put, hk] using h
    · by_cases hj : j = k
      · subst hj
        simp only [SMap.put, if_neg hk, if_true] at h
        rcases List.mem_cons.1 h with h | h
        · exact .inl h
        · exact .inr (List.mem_cons_of_mem _ h)
      · simp only [SMap.put, if_neg hk, if_neg hj] at h
        rcases List.mem_cons.1 h with h | h
        · exact .inr (h ▸ List.mem_cons_self)
        · exact (ih h).imp id (List.mem_cons_of_mem _)

/-- A listed value is found or is the default. -/
theorem SMap.val_eq_or_mem (m : SMap α) (k : Nat) (d : α) : m.val k d = d ∨ (k, m.val k d) ∈ m := by
  induction m with
  | nil => exact .inl rfl
  | cons x r ih =>
    obtain ⟨j, u⟩ := x
    by_cases hj : j = k
    · subst hj; exact .inr (by simp [SMap.val, SMap.find])
    · have : SMap.val ((j, u) :: r) k d = SMap.val r k d := by simp [SMap.val, SMap.find, hj]
      rw [this]
      exact ih.imp id (List.mem_cons_of_mem _)

/-- A property of every listed value and of the default is one of the value read. -/
theorem SMap.val_all {m : SMap α} {d : α} (P : α → Prop) (hd : P d) (h : ∀ e ∈ m, P e.2) (k : Nat) : P (m.val k d) := by
  rcases SMap.val_eq_or_mem m k d with e | e
  · rw [e]; exact hd
  · exact h _ e

/-- An update keeps a property of every listed value. -/
theorem SMap.upd_all {m : SMap α} {k : Nat} {d : α} {f : α → α} (P : α → Prop) (hd : P d) (h : ∀ e ∈ m, P e.2)
    (hf : ∀ x, P x → P (f x)) : ∀ e ∈ SMap.upd m k d f, P e.2 := by
  intro e he
  rcases SMap.mem_put he with rfl | he
  · exact hf _ (SMap.val_all P hd h k)
  · exact h e he

namespace Machine

/-! ### Byte memory -/

theorem Mem.wfFrom_mono {lo lo' : Nat} {m : Mem} (hl : lo' ≤ lo) (h : Mem.wfFrom lo m = true) : Mem.wfFrom lo' m = true := by
  cases m with
  | nil => rfl
  | cons c r =>
    obtain ⟨j, v⟩ := c
    simp only [Mem.wfFrom, Bool.and_eq_true, decide_eq_true_eq] at h ⊢
    exact ⟨⟨by omega, h.1.2⟩, h.2⟩

theorem Mem.filter_wfFrom {lo : Nat} {m : Mem} (h : Mem.wfFrom lo m = true) (p : Host.Cell → Bool) :
    Mem.wfFrom lo (m.filter p) = true := by
  induction m generalizing lo with
  | nil => rfl
  | cons c r ih =>
    obtain ⟨j, v⟩ := c
    simp only [Mem.wfFrom, Bool.and_eq_true, decide_eq_true_eq] at h
    by_cases hp : p (j, v) = true
    · simp only [List.filter_cons, hp, if_true, Mem.wfFrom, Bool.and_eq_true, decide_eq_true_eq]
      exact ⟨h.1, ih h.2⟩
    · simp only [List.filter_cons, hp]
      exact Mem.wfFrom_mono (by omega) (ih h.2)

theorem Mem.put_wfFrom {lo : Nat} {m : Mem} (h : Mem.wfFrom lo m = true) {a : Nat} (ha : lo ≤ a) {b : Byte} (hb : b ≠ 0) :
    Mem.wfFrom lo (SMap.put m a b) = true := by
  induction m generalizing lo with
  | nil => simp only [SMap.put, Mem.wfFrom, Bool.and_eq_true, decide_eq_true_eq, bne_iff_ne]; exact ⟨⟨ha, hb⟩, trivial⟩
  | cons c r ih =>
    obtain ⟨j, v⟩ := c
    simp only [Mem.wfFrom, Bool.and_eq_true, decide_eq_true_eq] at h
    obtain ⟨⟨hj, hv⟩, hr⟩ := h
    by_cases h1 : a < j
    · simp only [SMap.put, if_pos h1, Mem.wfFrom, Bool.and_eq_true, decide_eq_true_eq, bne_iff_ne] at hv ⊢
      exact ⟨⟨ha, hb⟩, ⟨h1, hv⟩, hr⟩
    · by_cases h2 : j = a
      · subst h2
        simp only [SMap.put, lt_irrefl, if_false, if_true, Mem.wfFrom, Bool.and_eq_true, decide_eq_true_eq, bne_iff_ne]
        exact ⟨⟨hj, hb⟩, hr⟩
      · simp only [SMap.put, if_neg h1, if_neg h2, Mem.wfFrom, Bool.and_eq_true, decide_eq_true_eq]
        exact ⟨⟨hj, hv⟩, ih hr (by omega)⟩

theorem Mem.set_wfFrom {lo : Nat} {m : Mem} (h : Mem.wfFrom lo m = true) {a : Nat} (ha : lo ≤ a) (b : Byte) :
    Mem.wfFrom lo (m.set a b) = true := by
  unfold Mem.set SMap.store
  split
  · exact Mem.filter_wfFrom h _
  · exact Mem.put_wfFrom h ha ‹_›

/-- A write keeps the canonical form. -/
theorem Mem.set_wf {m : Mem} (h : m.wf = true) (a : Nat) (b : Byte) : (m.set a b).wf = true :=
  Mem.set_wfFrom h (Nat.zero_le a) b

theorem Mem.setN_wf {m : Mem} (h : m.wf = true) (a : Nat) (bs : List Byte) : (m.setN a bs).wf = true := by
  induction bs generalizing m a with
  | nil => exact h
  | cons b r ih => exact ih (Mem.set_wf h a b) (a + 1)

/-- Zeroing a range keeps the canonical form. -/
theorem Mem.zero_wf {m : Mem} (h : m.wf = true) (a n : Nat) : (m.zero a n).wf = true := Mem.filter_wfFrom h _

/-- A read of the byte just written gives it. -/
theorem Mem.get_set_same (m : Mem) (a : Nat) (b : Byte) : (m.set a b).get a = b := SMap.val_store_same m a 0 b

/-- A write leaves every other byte alone. -/
theorem Mem.get_set_ne (m : Mem) {a a' : Nat} (h : a' ≠ a) (b : Byte) : (m.set a b).get a' = m.get a' :=
  SMap.val_store_ne m 0 b h

theorem Mem.get_zero (m : Mem) (a n k : Nat) : (m.zero a n).get k = if a ≤ k ∧ k < a + n then 0 else m.get k := by
  have h := SMap.find_filter (α := Byte) m (fun k => decide (k < a) || decide (a + n ≤ k)) k
  simp only [Mem.get, Mem.zero, SMap.val] at *
  rw [h]
  by_cases h1 : a ≤ k ∧ k < a + n
  · have : (decide (k < a) || decide (a + n ≤ k)) = false := by simp; omega
    simp [this, h1]
  · have : (decide (k < a) || decide (a + n ≤ k)) = true := by simp; omega
    simp [this, h1]

/-- A read after a run of bytes is written. -/
theorem Mem.get_setN (m : Mem) (a : Nat) (bs : List Byte) (k : Nat) :
    (m.setN a bs).get k = if a ≤ k ∧ k < a + bs.length then bs.getD (k - a) 0 else m.get k := by
  induction bs generalizing m a with
  | nil => simp [Mem.setN]
  | cons b r ih =>
    rw [Mem.setN, ih]
    by_cases h0 : k = a
    · subst h0; simp [Mem.get_set_same]
    · rw [Mem.get_set_ne m h0]
      by_cases h1 : a + 1 ≤ k ∧ k < a + 1 + r.length
      · have h2 : a ≤ k ∧ k < a + (b :: r).length := by simp; omega
        have h3 : k - a = (k - (a + 1)) + 1 := by omega
        rw [if_pos h1, if_pos h2, h3]; simp
      · have h2 : ¬ (a ≤ k ∧ k < a + (b :: r).length) := by simp; omega
        rw [if_neg h1, if_neg h2]

end Machine
end Sys2Proof
end

