-- ==== Sys2Proof/Laws/State.lean ====
section
/-! SUPPORT. The named updates of the state: each leaves every field but its own as it was, and what a read of the updated
part gives. -/

namespace Sys2Proof.Machine

variable (s : State)

@[simp] theorem State.modCore_power (c : Nat) (f : Core → Core) : (s.modCore c f).power = s.power := rfl
@[simp] theorem State.modCore_boot (c : Nat) (f : Core → Core) : (s.modCore c f).boot = s.boot := rfl
@[simp] theorem State.modCore_bootFail (c : Nat) (f : Core → Core) : (s.modCore c f).bootFail = s.bootFail := rfl
@[simp] theorem State.modCore_time (c : Nat) (f : Core → Core) : (s.modCore c f).time = s.time := rfl
@[simp] theorem State.modCore_turns (c : Nat) (f : Core → Core) : (s.modCore c f).turns = s.turns := rfl
@[simp] theorem State.modCore_lastBoundary (c : Nat) (f : Core → Core) : (s.modCore c f).lastBoundary = s.lastBoundary := rfl
@[simp] theorem State.modCore_lastRotation (c : Nat) (f : Core → Core) : (s.modCore c f).lastRotation = s.lastRotation := rfl
@[simp] theorem State.modCore_cycled (c : Nat) (f : Core → Core) : (s.modCore c f).cycled = s.cycled := rfl
@[simp] theorem State.modCore_free (c : Nat) (f : Core → Core) : (s.modCore c f).free = s.free := rfl
@[simp] theorem State.modCore_ids (c : Nat) (f : Core → Core) : (s.modCore c f).ids = s.ids := rfl
@[simp] theorem State.modCore_cur (c : Nat) (f : Core → Core) : (s.modCore c f).cur = s.cur := rfl
@[simp] theorem State.modCore_teams (c : Nat) (f : Core → Core) : (s.modCore c f).teams = s.teams := rfl
@[simp] theorem State.modCore_saved (c : Nat) (f : Core → Core) : (s.modCore c f).saved = s.saved := rfl
@[simp] theorem State.modCore_launches (c : Nat) (f : Core → Core) : (s.modCore c f).launches = s.launches := rfl
@[simp] theorem State.modCore_clusters (c : Nat) (f : Core → Core) : (s.modCore c f).clusters = s.clusters := rfl
@[simp] theorem State.modCore_dies (c : Nat) (f : Core → Core) : (s.modCore c f).dies = s.dies := rfl
@[simp] theorem State.modCore_stores (c : Nat) (f : Core → Core) : (s.modCore c f).stores = s.stores := rfl
@[simp] theorem State.modCore_sending (c : Nat) (f : Core → Core) : (s.modCore c f).sending = s.sending := rfl
@[simp] theorem State.modCore_pages (c : Nat) (f : Core → Core) : (s.modCore c f).pages = s.pages := rfl
@[simp] theorem State.modCore_service (c : Nat) (f : Core → Core) : (s.modCore c f).service = s.service := rfl
@[simp] theorem State.modCore_fabric (c : Nat) (f : Core → Core) : (s.modCore c f).fabric = s.fabric := rfl
@[simp] theorem State.modCore_settles (c : Nat) (f : Core → Core) : (s.modCore c f).settles = s.settles := rfl
@[simp] theorem State.modCore_settleN (c : Nat) (f : Core → Core) : (s.modCore c f).settleN = s.settleN := rfl
@[simp] theorem State.modCore_settleCover (c : Nat) (f : Core → Core) : (s.modCore c f).settleCover = s.settleCover := rfl
@[simp] theorem State.modCore_finishes (c : Nat) (f : Core → Core) : (s.modCore c f).finishes = s.finishes := rfl
@[simp] theorem State.modCore_snapshot (c : Nat) (f : Core → Core) : (s.modCore c f).snapshot = s.snapshot := rfl
@[simp] theorem State.modCore_loads (c : Nat) (f : Core → Core) : (s.modCore c f).loads = s.loads := rfl
@[simp] theorem State.modCore_late (c : Nat) (f : Core → Core) : (s.modCore c f).late = s.late := rfl

@[simp] theorem State.modCluster_power (k : Nat) (f : Cluster → Cluster) : (s.modCluster k f).power = s.power := rfl
@[simp] theorem State.modCluster_boot (k : Nat) (f : Cluster → Cluster) : (s.modCluster k f).boot = s.boot := rfl
@[simp] theorem State.modCluster_bootFail (k : Nat) (f : Cluster → Cluster) : (s.modCluster k f).bootFail = s.bootFail := rfl
@[simp] theorem State.modCluster_time (k : Nat) (f : Cluster → Cluster) : (s.modCluster k f).time = s.time := rfl
@[simp] theorem State.modCluster_turns (k : Nat) (f : Cluster → Cluster) : (s.modCluster k f).turns = s.turns := rfl
@[simp] theorem State.modCluster_lastBoundary (k : Nat) (f : Cluster → Cluster) : (s.modCluster k f).lastBoundary = s.lastBoundary := rfl
@[simp] theorem State.modCluster_lastRotation (k : Nat) (f : Cluster → Cluster) : (s.modCluster k f).lastRotation = s.lastRotation := rfl
@[simp] theorem State.modCluster_cycled (k : Nat) (f : Cluster → Cluster) : (s.modCluster k f).cycled = s.cycled := rfl
@[simp] theorem State.modCluster_free (k : Nat) (f : Cluster → Cluster) : (s.modCluster k f).free = s.free := rfl
@[simp] theorem State.modCluster_ids (k : Nat) (f : Cluster → Cluster) : (s.modCluster k f).ids = s.ids := rfl
@[simp] theorem State.modCluster_cur (k : Nat) (f : Cluster → Cluster) : (s.modCluster k f).cur = s.cur := rfl
@[simp] theorem State.modCluster_teams (k : Nat) (f : Cluster → Cluster) : (s.modCluster k f).teams = s.teams := rfl
@[simp] theorem State.modCluster_saved (k : Nat) (f : Cluster → Cluster) : (s.modCluster k f).saved = s.saved := rfl
@[simp] theorem State.modCluster_launches (k : Nat) (f : Cluster → Cluster) : (s.modCluster k f).launches = s.launches := rfl
@[simp] theorem State.modCluster_cores (k : Nat) (f : Cluster → Cluster) : (s.modCluster k f).cores = s.cores := rfl
@[simp] theorem State.modCluster_dies (k : Nat) (f : Cluster → Cluster) : (s.modCluster k f).dies = s.dies := rfl
@[simp] theorem State.modCluster_stores (k : Nat) (f : Cluster → Cluster) : (s.modCluster k f).stores = s.stores := rfl
@[simp] theorem State.modCluster_sending (k : Nat) (f : Cluster → Cluster) : (s.modCluster k f).sending = s.sending := rfl
@[simp] theorem State.modCluster_pages (k : Nat) (f : Cluster → Cluster) : (s.modCluster k f).pages = s.pages := rfl
@[simp] theorem State.modCluster_service (k : Nat) (f : Cluster → Cluster) : (s.modCluster k f).service = s.service := rfl
@[simp] theorem State.modCluster_fabric (k : Nat) (f : Cluster → Cluster) : (s.modCluster k f).fabric = s.fabric := rfl
@[simp] theorem State.modCluster_settles (k : Nat) (f : Cluster → Cluster) : (s.modCluster k f).settles = s.settles := rfl
@[simp] theorem State.modCluster_settleN (k : Nat) (f : Cluster → Cluster) : (s.modCluster k f).settleN = s.settleN := rfl
@[simp] theorem State.modCluster_settleCover (k : Nat) (f : Cluster → Cluster) : (s.modCluster k f).settleCover = s.settleCover := rfl
@[simp] theorem State.modCluster_finishes (k : Nat) (f : Cluster → Cluster) : (s.modCluster k f).finishes = s.finishes := rfl
@[simp] theorem State.modCluster_snapshot (k : Nat) (f : Cluster → Cluster) : (s.modCluster k f).snapshot = s.snapshot := rfl
@[simp] theorem State.modCluster_loads (k : Nat) (f : Cluster → Cluster) : (s.modCluster k f).loads = s.loads := rfl
@[simp] theorem State.modCluster_late (k : Nat) (f : Cluster → Cluster) : (s.modCluster k f).late = s.late := rfl

@[simp] theorem State.modDie_power (d : Nat) (f : Die → Die) : (s.modDie d f).power = s.power := rfl
@[simp] theorem State.modDie_boot (d : Nat) (f : Die → Die) : (s.modDie d f).boot = s.boot := rfl
@[simp] theorem State.modDie_bootFail (d : Nat) (f : Die → Die) : (s.modDie d f).bootFail = s.bootFail := rfl
@[simp] theorem State.modDie_time (d : Nat) (f : Die → Die) : (s.modDie d f).time = s.time := rfl
@[simp] theorem State.modDie_turns (d : Nat) (f : Die → Die) : (s.modDie d f).turns = s.turns := rfl
@[simp] theorem State.modDie_lastBoundary (d : Nat) (f : Die → Die) : (s.modDie d f).lastBoundary = s.lastBoundary := rfl
@[simp] theorem State.modDie_lastRotation (d : Nat) (f : Die → Die) : (s.modDie d f).lastRotation = s.lastRotation := rfl
@[simp] theorem State.modDie_cycled (d : Nat) (f : Die → Die) : (s.modDie d f).cycled = s.cycled := rfl
@[simp] theorem State.modDie_free (d : Nat) (f : Die → Die) : (s.modDie d f).free = s.free := rfl
@[simp] theorem State.modDie_ids (d : Nat) (f : Die → Die) : (s.modDie d f).ids = s.ids := rfl
@[simp] theorem State.modDie_cur (d : Nat) (f : Die → Die) : (s.modDie d f).cur = s.cur := rfl
@[simp] theorem State.modDie_teams (d : Nat) (f : Die → Die) : (s.modDie d f).teams = s.teams := rfl
@[simp] theorem State.modDie_saved (d : Nat) (f : Die → Die) : (s.modDie d f).saved = s.saved := rfl
@[simp] theorem State.modDie_launches (d : Nat) (f : Die → Die) : (s.modDie d f).launches = s.launches := rfl
@[simp] theorem State.modDie_cores (d : Nat) (f : Die → Die) : (s.modDie d f).cores = s.cores := rfl
@[simp] theorem State.modDie_clusters (d : Nat) (f : Die → Die) : (s.modDie d f).clusters = s.clusters := rfl
@[simp] theorem State.modDie_stores (d : Nat) (f : Die → Die) : (s.modDie d f).stores = s.stores := rfl
@[simp] theorem State.modDie_sending (d : Nat) (f : Die → Die) : (s.modDie d f).sending = s.sending := rfl
@[simp] theorem State.modDie_pages (d : Nat) (f : Die → Die) : (s.modDie d f).pages = s.pages := rfl
@[simp] theorem State.modDie_service (d : Nat) (f : Die → Die) : (s.modDie d f).service = s.service := rfl
@[simp] theorem State.modDie_fabric (d : Nat) (f : Die → Die) : (s.modDie d f).fabric = s.fabric := rfl
@[simp] theorem State.modDie_settles (d : Nat) (f : Die → Die) : (s.modDie d f).settles = s.settles := rfl
@[simp] theorem State.modDie_settleN (d : Nat) (f : Die → Die) : (s.modDie d f).settleN = s.settleN := rfl
@[simp] theorem State.modDie_settleCover (d : Nat) (f : Die → Die) : (s.modDie d f).settleCover = s.settleCover := rfl
@[simp] theorem State.modDie_finishes (d : Nat) (f : Die → Die) : (s.modDie d f).finishes = s.finishes := rfl
@[simp] theorem State.modDie_snapshot (d : Nat) (f : Die → Die) : (s.modDie d f).snapshot = s.snapshot := rfl
@[simp] theorem State.modDie_loads (d : Nat) (f : Die → Die) : (s.modDie d f).loads = s.loads := rfl
@[simp] theorem State.modDie_late (d : Nat) (f : Die → Die) : (s.modDie d f).late = s.late := rfl

@[simp] theorem State.modLaunch_power (n : Nat) (f : Launch → Launch) : (s.modLaunch n f).power = s.power := rfl
@[simp] theorem State.modLaunch_boot (n : Nat) (f : Launch → Launch) : (s.modLaunch n f).boot = s.boot := rfl
@[simp] theorem State.modLaunch_bootFail (n : Nat) (f : Launch → Launch) : (s.modLaunch n f).bootFail = s.bootFail := rfl
@[simp] theorem State.modLaunch_time (n : Nat) (f : Launch → Launch) : (s.modLaunch n f).time = s.time := rfl
@[simp] theorem State.modLaunch_turns (n : Nat) (f : Launch → Launch) : (s.modLaunch n f).turns = s.turns := rfl
@[simp] theorem State.modLaunch_lastBoundary (n : Nat) (f : Launch → Launch) : (s.modLaunch n f).lastBoundary = s.lastBoundary := rfl
@[simp] theorem State.modLaunch_lastRotation (n : Nat) (f : Launch → Launch) : (s.modLaunch n f).lastRotation = s.lastRotation := rfl
@[simp] theorem State.modLaunch_cycled (n : Nat) (f : Launch → Launch) : (s.modLaunch n f).cycled = s.cycled := rfl
@[simp] theorem State.modLaunch_free (n : Nat) (f : Launch → Launch) : (s.modLaunch n f).free = s.free := rfl
@[simp] theorem State.modLaunch_ids (n : Nat) (f : Launch → Launch) : (s.modLaunch n f).ids = s.ids := rfl
@[simp] theorem State.modLaunch_cur (n : Nat) (f : Launch → Launch) : (s.modLaunch n f).cur = s.cur := rfl
@[simp] theorem State.modLaunch_teams (n : Nat) (f : Launch → Launch) : (s.modLaunch n f).teams = s.teams := rfl
@[simp] theorem State.modLaunch_saved (n : Nat) (f : Launch → Launch) : (s.modLaunch n f).saved = s.saved := rfl
@[simp] theorem State.modLaunch_cores (n : Nat) (f : Launch → Launch) : (s.modLaunch n f).cores = s.cores := rfl
@[simp] theorem State.modLaunch_clusters (n : Nat) (f : Launch → Launch) : (s.modLaunch n f).clusters = s.clusters := rfl
@[simp] theorem State.modLaunch_dies (n : Nat) (f : Launch → Launch) : (s.modLaunch n f).dies = s.dies := rfl
@[simp] theorem State.modLaunch_stores (n : Nat) (f : Launch → Launch) : (s.modLaunch n f).stores = s.stores := rfl
@[simp] theorem State.modLaunch_sending (n : Nat) (f : Launch → Launch) : (s.modLaunch n f).sending = s.sending := rfl
@[simp] theorem State.modLaunch_pages (n : Nat) (f : Launch → Launch) : (s.modLaunch n f).pages = s.pages := rfl
@[simp] theorem State.modLaunch_service (n : Nat) (f : Launch → Launch) : (s.modLaunch n f).service = s.service := rfl
@[simp] theorem State.modLaunch_fabric (n : Nat) (f : Launch → Launch) : (s.modLaunch n f).fabric = s.fabric := rfl
@[simp] theorem State.modLaunch_settles (n : Nat) (f : Launch → Launch) : (s.modLaunch n f).settles = s.settles := rfl
@[simp] theorem State.modLaunch_settleN (n : Nat) (f : Launch → Launch) : (s.modLaunch n f).settleN = s.settleN := rfl
@[simp] theorem State.modLaunch_settleCover (n : Nat) (f : Launch → Launch) : (s.modLaunch n f).settleCover = s.settleCover := rfl
@[simp] theorem State.modLaunch_finishes (n : Nat) (f : Launch → Launch) : (s.modLaunch n f).finishes = s.finishes := rfl
@[simp] theorem State.modLaunch_snapshot (n : Nat) (f : Launch → Launch) : (s.modLaunch n f).snapshot = s.snapshot := rfl
@[simp] theorem State.modLaunch_loads (n : Nat) (f : Launch → Launch) : (s.modLaunch n f).loads = s.loads := rfl
@[simp] theorem State.modLaunch_late (n : Nat) (f : Launch → Launch) : (s.modLaunch n f).late = s.late := rfl

@[simp] theorem State.setTeam_power (tm : Team) : (s.setTeam tm).power = s.power := rfl
@[simp] theorem State.setTeam_boot (tm : Team) : (s.setTeam tm).boot = s.boot := rfl
@[simp] theorem State.setTeam_bootFail (tm : Team) : (s.setTeam tm).bootFail = s.bootFail := rfl
@[simp] theorem State.setTeam_time (tm : Team) : (s.setTeam tm).time = s.time := rfl
@[simp] theorem State.setTeam_turns (tm : Team) : (s.setTeam tm).turns = s.turns := rfl
@[simp] theorem State.setTeam_lastBoundary (tm : Team) : (s.setTeam tm).lastBoundary = s.lastBoundary := rfl
@[simp] theorem State.setTeam_lastRotation (tm : Team) : (s.setTeam tm).lastRotation = s.lastRotation := rfl
@[simp] theorem State.setTeam_cycled (tm : Team) : (s.setTeam tm).cycled = s.cycled := rfl
@[simp] theorem State.setTeam_free (tm : Team) : (s.setTeam tm).free = s.free := rfl
@[simp] theorem State.setTeam_ids (tm : Team) : (s.setTeam tm).ids = s.ids := rfl
@[simp] theorem State.setTeam_cur (tm : Team) : (s.setTeam tm).cur = s.cur := rfl
@[simp] theorem State.setTeam_saved (tm : Team) : (s.setTeam tm).saved = s.saved := rfl
@[simp] theorem State.setTeam_launches (tm : Team) : (s.setTeam tm).launches = s.launches := rfl
@[simp] theorem State.setTeam_cores (tm : Team) : (s.setTeam tm).cores = s.cores := rfl
@[simp] theorem State.setTeam_clusters (tm : Team) : (s.setTeam tm).clusters = s.clusters := rfl
@[simp] theorem State.setTeam_dies (tm : Team) : (s.setTeam tm).dies = s.dies := rfl
@[simp] theorem State.setTeam_stores (tm : Team) : (s.setTeam tm).stores = s.stores := rfl
@[simp] theorem State.setTeam_sending (tm : Team) : (s.setTeam tm).sending = s.sending := rfl
@[simp] theorem State.setTeam_pages (tm : Team) : (s.setTeam tm).pages = s.pages := rfl
@[simp] theorem State.setTeam_service (tm : Team) : (s.setTeam tm).service = s.service := rfl
@[simp] theorem State.setTeam_fabric (tm : Team) : (s.setTeam tm).fabric = s.fabric := rfl
@[simp] theorem State.setTeam_settles (tm : Team) : (s.setTeam tm).settles = s.settles := rfl
@[simp] theorem State.setTeam_settleN (tm : Team) : (s.setTeam tm).settleN = s.settleN := rfl
@[simp] theorem State.setTeam_settleCover (tm : Team) : (s.setTeam tm).settleCover = s.settleCover := rfl
@[simp] theorem State.setTeam_finishes (tm : Team) : (s.setTeam tm).finishes = s.finishes := rfl
@[simp] theorem State.setTeam_snapshot (tm : Team) : (s.setTeam tm).snapshot = s.snapshot := rfl
@[simp] theorem State.setTeam_loads (tm : Team) : (s.setTeam tm).loads = s.loads := rfl
@[simp] theorem State.setTeam_late (tm : Team) : (s.setTeam tm).late = s.late := rfl

theorem State.modTeam_eq (t : Nat) (f : Team → Team) : ∃ ts, s.modTeam t f = { s with teams := ts } := by
  unfold State.modTeam; split <;> exact ⟨_, rfl⟩

@[simp] theorem State.modTeam_power (t : Nat) (f : Team → Team) : (s.modTeam t f).power = s.power := by
  obtain ⟨_, h⟩ := s.modTeam_eq t f; rw [h]
@[simp] theorem State.modTeam_boot (t : Nat) (f : Team → Team) : (s.modTeam t f).boot = s.boot := by
  obtain ⟨_, h⟩ := s.modTeam_eq t f; rw [h]
@[simp] theorem State.modTeam_bootFail (t : Nat) (f : Team → Team) : (s.modTeam t f).bootFail = s.bootFail := by
  obtain ⟨_, h⟩ := s.modTeam_eq t f; rw [h]
@[simp] theorem State.modTeam_time (t : Nat) (f : Team → Team) : (s.modTeam t f).time = s.time := by
  obtain ⟨_, h⟩ := s.modTeam_eq t f; rw [h]
@[simp] theorem State.modTeam_turns (t : Nat) (f : Team → Team) : (s.modTeam t f).turns = s.turns := by
  obtain ⟨_, h⟩ := s.modTeam_eq t f; rw [h]
@[simp] theorem State.modTeam_lastBoundary (t : Nat) (f : Team → Team) : (s.modTeam t f).lastBoundary = s.lastBoundary := by
  obtain ⟨_, h⟩ := s.modTeam_eq t f; rw [h]
@[simp] theorem State.modTeam_lastRotation (t : Nat) (f : Team → Team) : (s.modTeam t f).lastRotation = s.lastRotation := by
  obtain ⟨_, h⟩ := s.modTeam_eq t f; rw [h]
@[simp] theorem State.modTeam_cycled (t : Nat) (f : Team → Team) : (s.modTeam t f).cycled = s.cycled := by
  obtain ⟨_, h⟩ := s.modTeam_eq t f; rw [h]
@[simp] theorem State.modTeam_free (t : Nat) (f : Team → Team) : (s.modTeam t f).free = s.free := by
  obtain ⟨_, h⟩ := s.modTeam_eq t f; rw [h]
@[simp] theorem State.modTeam_ids (t : Nat) (f : Team → Team) : (s.modTeam t f).ids = s.ids := by
  obtain ⟨_, h⟩ := s.modTeam_eq t f; rw [h]
@[simp] theorem State.modTeam_cur (t : Nat) (f : Team → Team) : (s.modTeam t f).cur = s.cur := by
  obtain ⟨_, h⟩ := s.modTeam_eq t f; rw [h]
@[simp] theorem State.modTeam_saved (t : Nat) (f : Team → Team) : (s.modTeam t f).saved = s.saved := by
  obtain ⟨_, h⟩ := s.modTeam_eq t f; rw [h]
@[simp] theorem State.modTeam_launches (t : Nat) (f : Team → Team) : (s.modTeam t f).launches = s.launches := by
  obtain ⟨_, h⟩ := s.modTeam_eq t f; rw [h]
@[simp] theorem State.modTeam_cores (t : Nat) (f : Team → Team) : (s.modTeam t f).cores = s.cores := by
  obtain ⟨_, h⟩ := s.modTeam_eq t f; rw [h]
@[simp] theorem State.modTeam_clusters (t : Nat) (f : Team → Team) : (s.modTeam t f).clusters = s.clusters := by
  obtain ⟨_, h⟩ := s.modTeam_eq t f; rw [h]
@[simp] theorem State.modTeam_dies (t : Nat) (f : Team → Team) : (s.modTeam t f).dies = s.dies := by
  obtain ⟨_, h⟩ := s.modTeam_eq t f; rw [h]
@[simp] theorem State.modTeam_stores (t : Nat) (f : Team → Team) : (s.modTeam t f).stores = s.stores := by
  obtain ⟨_, h⟩ := s.modTeam_eq t f; rw [h]
@[simp] theorem State.modTeam_sending (t : Nat) (f : Team → Team) : (s.modTeam t f).sending = s.sending := by
  obtain ⟨_, h⟩ := s.modTeam_eq t f; rw [h]
@[simp] theorem State.modTeam_pages (t : Nat) (f : Team → Team) : (s.modTeam t f).pages = s.pages := by
  obtain ⟨_, h⟩ := s.modTeam_eq t f; rw [h]
@[simp] theorem State.modTeam_service (t : Nat) (f : Team → Team) : (s.modTeam t f).service = s.service := by
  obtain ⟨_, h⟩ := s.modTeam_eq t f; rw [h]
@[simp] theorem State.modTeam_fabric (t : Nat) (f : Team → Team) : (s.modTeam t f).fabric = s.fabric := by
  obtain ⟨_, h⟩ := s.modTeam_eq t f; rw [h]
@[simp] theorem State.modTeam_settles (t : Nat) (f : Team → Team) : (s.modTeam t f).settles = s.settles := by
  obtain ⟨_, h⟩ := s.modTeam_eq t f; rw [h]
@[simp] theorem State.modTeam_settleN (t : Nat) (f : Team → Team) : (s.modTeam t f).settleN = s.settleN := by
  obtain ⟨_, h⟩ := s.modTeam_eq t f; rw [h]
@[simp] theorem State.modTeam_settleCover (t : Nat) (f : Team → Team) : (s.modTeam t f).settleCover = s.settleCover := by
  obtain ⟨_, h⟩ := s.modTeam_eq t f; rw [h]
@[simp] theorem State.modTeam_finishes (t : Nat) (f : Team → Team) : (s.modTeam t f).finishes = s.finishes := by
  obtain ⟨_, h⟩ := s.modTeam_eq t f; rw [h]
@[simp] theorem State.modTeam_snapshot (t : Nat) (f : Team → Team) : (s.modTeam t f).snapshot = s.snapshot := by
  obtain ⟨_, h⟩ := s.modTeam_eq t f; rw [h]
@[simp] theorem State.modTeam_loads (t : Nat) (f : Team → Team) : (s.modTeam t f).loads = s.loads := by
  obtain ⟨_, h⟩ := s.modTeam_eq t f; rw [h]
@[simp] theorem State.modTeam_late (t : Nat) (f : Team → Team) : (s.modTeam t f).late = s.late := by
  obtain ⟨_, h⟩ := s.modTeam_eq t f; rw [h]

@[simp] theorem State.modSheaf_power (t j : Nat) (f : Sheaf → Sheaf) : (s.modSheaf t j f).power = s.power :=
  s.modTeam_power t _
@[simp] theorem State.modSheaf_boot (t j : Nat) (f : Sheaf → Sheaf) : (s.modSheaf t j f).boot = s.boot :=
  s.modTeam_boot t _
@[simp] theorem State.modSheaf_bootFail (t j : Nat) (f : Sheaf → Sheaf) : (s.modSheaf t j f).bootFail = s.bootFail :=
  s.modTeam_bootFail t _
@[simp] theorem State.modSheaf_time (t j : Nat) (f : Sheaf → Sheaf) : (s.modSheaf t j f).time = s.time :=
  s.modTeam_time t _
@[simp] theorem State.modSheaf_turns (t j : Nat) (f : Sheaf → Sheaf) : (s.modSheaf t j f).turns = s.turns :=
  s.modTeam_turns t _
@[simp] theorem State.modSheaf_lastBoundary (t j : Nat) (f : Sheaf → Sheaf) : (s.modSheaf t j f).lastBoundary = s.lastBoundary :=
  s.modTeam_lastBoundary t _
@[simp] theorem State.modSheaf_lastRotation (t j : Nat) (f : Sheaf → Sheaf) : (s.modSheaf t j f).lastRotation = s.lastRotation :=
  s.modTeam_lastRotation t _
@[simp] theorem State.modSheaf_cycled (t j : Nat) (f : Sheaf → Sheaf) : (s.modSheaf t j f).cycled = s.cycled :=
  s.modTeam_cycled t _
@[simp] theorem State.modSheaf_free (t j : Nat) (f : Sheaf → Sheaf) : (s.modSheaf t j f).free = s.free :=
  s.modTeam_free t _
@[simp] theorem State.modSheaf_ids (t j : Nat) (f : Sheaf → Sheaf) : (s.modSheaf t j f).ids = s.ids :=
  s.modTeam_ids t _
@[simp] theorem State.modSheaf_cur (t j : Nat) (f : Sheaf → Sheaf) : (s.modSheaf t j f).cur = s.cur :=
  s.modTeam_cur t _
@[simp] theorem State.modSheaf_saved (t j : Nat) (f : Sheaf → Sheaf) : (s.modSheaf t j f).saved = s.saved :=
  s.modTeam_saved t _
@[simp] theorem State.modSheaf_launches (t j : Nat) (f : Sheaf → Sheaf) : (s.modSheaf t j f).launches = s.launches :=
  s.modTeam_launches t _
@[simp] theorem State.modSheaf_cores (t j : Nat) (f : Sheaf → Sheaf) : (s.modSheaf t j f).cores = s.cores :=
  s.modTeam_cores t _
@[simp] theorem State.modSheaf_clusters (t j : Nat) (f : Sheaf → Sheaf) : (s.modSheaf t j f).clusters = s.clusters :=
  s.modTeam_clusters t _
@[simp] theorem State.modSheaf_dies (t j : Nat) (f : Sheaf → Sheaf) : (s.modSheaf t j f).dies = s.dies :=
  s.modTeam_dies t _
@[simp] theorem State.modSheaf_stores (t j : Nat) (f : Sheaf → Sheaf) : (s.modSheaf t j f).stores = s.stores :=
  s.modTeam_stores t _
@[simp] theorem State.modSheaf_sending (t j : Nat) (f : Sheaf → Sheaf) : (s.modSheaf t j f).sending = s.sending :=
  s.modTeam_sending t _
@[simp] theorem State.modSheaf_pages (t j : Nat) (f : Sheaf → Sheaf) : (s.modSheaf t j f).pages = s.pages :=
  s.modTeam_pages t _
@[simp] theorem State.modSheaf_service (t j : Nat) (f : Sheaf → Sheaf) : (s.modSheaf t j f).service = s.service :=
  s.modTeam_service t _
@[simp] theorem State.modSheaf_fabric (t j : Nat) (f : Sheaf → Sheaf) : (s.modSheaf t j f).fabric = s.fabric :=
  s.modTeam_fabric t _
@[simp] theorem State.modSheaf_settles (t j : Nat) (f : Sheaf → Sheaf) : (s.modSheaf t j f).settles = s.settles :=
  s.modTeam_settles t _
@[simp] theorem State.modSheaf_settleN (t j : Nat) (f : Sheaf → Sheaf) : (s.modSheaf t j f).settleN = s.settleN :=
  s.modTeam_settleN t _
@[simp] theorem State.modSheaf_settleCover (t j : Nat) (f : Sheaf → Sheaf) : (s.modSheaf t j f).settleCover = s.settleCover :=
  s.modTeam_settleCover t _
@[simp] theorem State.modSheaf_finishes (t j : Nat) (f : Sheaf → Sheaf) : (s.modSheaf t j f).finishes = s.finishes :=
  s.modTeam_finishes t _
@[simp] theorem State.modSheaf_snapshot (t j : Nat) (f : Sheaf → Sheaf) : (s.modSheaf t j f).snapshot = s.snapshot :=
  s.modTeam_snapshot t _
@[simp] theorem State.modSheaf_loads (t j : Nat) (f : Sheaf → Sheaf) : (s.modSheaf t j f).loads = s.loads :=
  s.modTeam_loads t _
@[simp] theorem State.modSheaf_late (t j : Nat) (f : Sheaf → Sheaf) : (s.modSheaf t j f).late = s.late :=
  s.modTeam_late t _

/-! ### Reading an updated part -/

@[simp] theorem State.core_modCore_same (c : Nat) (f : Core → Core) : (s.modCore c f).core c = f (s.core c) := by
  simp [State.core, State.modCore]

theorem State.core_modCore_ne {c c' : Nat} (h : c' ≠ c) (f : Core → Core) : (s.modCore c f).core c' = s.core c' := by
  simp [State.core, State.modCore, SMap.val_upd_ne _ _ _ _ _ h]

@[simp] theorem State.cluster_modCluster_same (k : Nat) (f : Cluster → Cluster) :
    (s.modCluster k f).cluster k = f (s.cluster k) := by simp [State.cluster, State.modCluster]

theorem State.cluster_modCluster_ne {k k' : Nat} (h : k' ≠ k) (f : Cluster → Cluster) :
    (s.modCluster k f).cluster k' = s.cluster k' := by simp [State.cluster, State.modCluster, SMap.val_upd_ne _ _ _ _ _ h]

@[simp] theorem State.die_modDie_same (d : Nat) (f : Die → Die) : (s.modDie d f).die d = f (s.die d) := by
  simp [State.die, State.modDie]

theorem State.die_modDie_ne {d d' : Nat} (h : d' ≠ d) (f : Die → Die) : (s.modDie d f).die d' = s.die d' := by
  simp [State.die, State.modDie, SMap.val_upd_ne _ _ _ _ _ h]

@[simp] theorem State.core_modCluster (k c : Nat) (f : Cluster → Cluster) : (s.modCluster k f).core c = s.core c := rfl
@[simp] theorem State.core_modDie (d c : Nat) (f : Die → Die) : (s.modDie d f).core c = s.core c := rfl
@[simp] theorem State.cluster_modCore (k c : Nat) (f : Core → Core) : (s.modCore c f).cluster k = s.cluster k := rfl
@[simp] theorem State.cluster_modDie (d k : Nat) (f : Die → Die) : (s.modDie d f).cluster k = s.cluster k := rfl
@[simp] theorem State.die_modCore (d c : Nat) (f : Core → Core) : (s.modCore c f).die d = s.die d := rfl
@[simp] theorem State.die_modCluster (d k : Nat) (f : Cluster → Cluster) : (s.modCluster k f).die d = s.die d := rfl
@[simp] theorem State.team?_modCore (t c : Nat) (f : Core → Core) : (s.modCore c f).team? t = s.team? t := rfl
@[simp] theorem State.team?_modCluster (t k : Nat) (f : Cluster → Cluster) : (s.modCluster k f).team? t = s.team? t := rfl
@[simp] theorem State.team?_modDie (t d : Nat) (f : Die → Die) : (s.modDie d f).team? t = s.team? t := rfl

@[simp] theorem State.core_modTeam (t c : Nat) (f : Team → Team) : (s.modTeam t f).core c = s.core c := by
  simp [State.core]
@[simp] theorem State.cluster_modTeam (t k : Nat) (f : Team → Team) : (s.modTeam t f).cluster k = s.cluster k := by
  simp [State.cluster]
@[simp] theorem State.die_modTeam (t d : Nat) (f : Team → Team) : (s.modTeam t f).die d = s.die d := by
  simp [State.die]
@[simp] theorem State.core_modSheaf (t j c : Nat) (f : Sheaf → Sheaf) : (s.modSheaf t j f).core c = s.core c :=
  s.core_modTeam t c _
@[simp] theorem State.cluster_modSheaf (t j k : Nat) (f : Sheaf → Sheaf) : (s.modSheaf t j f).cluster k = s.cluster k :=
  s.cluster_modTeam t k _
@[simp] theorem State.die_modSheaf (t j d : Nat) (f : Sheaf → Sheaf) : (s.modSheaf t j f).die d = s.die d :=
  s.die_modTeam t d _

theorem State.modTeam_some {t : Nat} {tm : Team} (h : s.team? t = some tm) (f : Team → Team) :
    s.modTeam t f = { s with teams := s.teams.put t (f tm) } := by
  simp [State.modTeam, h]

theorem State.modTeam_none {t : Nat} (h : s.team? t = none) (f : Team → Team) : s.modTeam t f = s := by
  simp [State.modTeam, h]

theorem State.team?_modTeam_same (t : Nat) (f : Team → Team) : (s.modTeam t f).team? t = (s.team? t).map f := by
  cases h : s.team? t with
  | none => rw [s.modTeam_none h]; exact h
  | some tm => rw [s.modTeam_some h]; simp [State.team?]

theorem State.team?_modTeam_ne {t t' : Nat} (h : t' ≠ t) (f : Team → Team) : (s.modTeam t f).team? t' = s.team? t' := by
  cases ht : s.team? t with
  | none => rw [s.modTeam_none ht]
  | some tm => rw [s.modTeam_some ht]; exact SMap.find_put_ne _ _ _ _ h

/-- Two updates of one team are one. -/
theorem State.modTeam_modTeam (t : Nat) (f g : Team → Team) : (s.modTeam t f).modTeam t g = s.modTeam t fun x => g (f x) := by
  cases h : s.team? t with
  | none => rw [s.modTeam_none h, s.modTeam_none h, s.modTeam_none h]
  | some tm =>
    have h' : (s.modTeam t f).team? t = some (f tm) := by rw [s.team?_modTeam_same, h]; rfl
    rw [State.modTeam_some _ h', s.modTeam_some h, s.modTeam_some h]
    simp [SMap.put_put]

/-- Two updates of one sheaf are one. -/
theorem State.modSheaf_modSheaf (t j : Nat) (f g : Sheaf → Sheaf) :
    (s.modSheaf t j f).modSheaf t j g = s.modSheaf t j fun x => g (f x) := by
  simp only [State.modSheaf, State.modTeam_modTeam, Team.modSheaf, List.modify_modify_eq, Function.comp_def]

theorem State.modSheaf_modCluster (t j k : Nat) (f : Sheaf → Sheaf) (g : Cluster → Cluster) :
    (s.modCluster k g).modSheaf t j f = (s.modSheaf t j f).modCluster k g := by
  simp only [State.modSheaf, State.modTeam, State.team?_modCluster]
  split <;> rfl

theorem State.modSheaf_setFree (n t j : Nat) (f : Sheaf → Sheaf) :
    ({ s with free := n } : State).modSheaf t j f = { s.modSheaf t j f with free := n } := by
  simp only [State.modSheaf, State.modTeam, State.team?]
  split <;> rfl

end Sys2Proof.Machine
end

