-- ==== Sys2Proof/Laws/Issue.lean ====
section
/-! SUPPORT. What an issue knows of its state, what `finish` and the writes of a column do, and the frame of an
element-wise instruction. -/

namespace Sys2Proof.Machine

variable {s : State} {c : Ctl} {i : Iss}

/-! ### The issue -/

/-- Everything an issue states of the state it is taken from. -/
theorem State.iss?_some (h : s.iss? c = some i) :
    s.team? i.t = some i.tm ∧ i.sh = i.tm.sheaf i.j ∧ i.batch = i.sh.batch ∧ i.batch ≠ [] ∧ i.c = c ∧
    i.on = i.batch.filter (fun l => guardOf c (i.sh.strand l)) ∧ i.aG = i.batch.filter (fun l => (i.sh.strand l).ptag c.gp) ∧
    i.seq = i.sh.iss ∧ i.cycle = (s.core i.tm.core).cycle ∧ i.draw = s.free := by
  unfold State.iss? at h
  split at h
  · cases h
  · split at h
    · cases h
    · rename_i tm htm
      dsimp only at h
      split at h
      · cases h
      · rename_i l0 r hb
        cases h
        exact ⟨htm, rfl, hb.symm, by simp, rfl, rfl, rfl, rfl, rfl, rfl⟩

theorem Iss.mem_batch_of_on (h : s.iss? c = some i) {l : Nat} (hl : l ∈ i.on) : l ∈ i.batch := by
  obtain ⟨_, _, _, _, _, hon, _⟩ := State.iss?_some h
  rw [hon] at hl; exact (List.mem_filter.1 hl).1

/-- A lane of a batch has a strand. -/
theorem Sheaf.lt_of_mem_batch {sh : Sheaf} {l : Nat} (h : l ∈ sh.batch) : l < sh.strands.length := by
  by_contra hl
  have hd : sh.strand l = {} := by
    simp only [Sheaf.strand]
    exact List.getD_eq_default _ _ (by omega)
  unfold Sheaf.batch at h
  split at h
  · cases h
  · obtain ⟨_, h2⟩ := List.mem_filter.1 h
    simp [Sheaf.eligible, hd] at h2

theorem Iss.lane_lt (h : s.iss? c = some i) {l : Nat} (hl : l ∈ i.batch) : l < i.sh.strands.length := by
  obtain ⟨_, _, hb, _⟩ := State.iss?_some h
  exact Sheaf.lt_of_mem_batch (hb ▸ hl)

/-- The sheaf of an issue is one of its team's. -/
theorem Iss.sheaf_lt (h : s.iss? c = some i) : i.j < i.tm.sheaves.length := by
  obtain ⟨_, hs, hb, hne, _⟩ := State.iss?_some h
  by_contra hj
  have : i.sh = {} := by rw [hs, Team.sheaf]; exact List.getD_eq_default _ _ (by omega)
  obtain ⟨l, hl⟩ := List.exists_mem_of_ne_nil _ hne
  have hlt := Iss.lane_lt h hl
  rw [this] at hlt
  exact absurd hlt (Nat.not_lt_zero l)

/-! ### Lanes -/

@[simp] theorem Sheaf.modStrand_strands (sh : Sheaf) (l : Nat) (f : Strand → Strand) :
    (sh.modStrand l f).strands = sh.strands.modify l f := rfl

/-- What `modLanes` changes: the strands. -/
theorem Sheaf.modLanes_eq (sh : Sheaf) (ls : List Nat) (f : Strand → Strand) :
    sh.modLanes ls f = { sh with strands := ls.foldl (fun x l => x.modify l f) sh.strands } := by
  induction ls generalizing sh with
  | nil => rfl
  | cons l r ih =>
    simp only [Sheaf.modLanes, List.foldl_cons] at ih ⊢
    rw [ih]; rfl

@[simp] theorem modify_length_fold (ls : List Nat) (f : Strand → Strand) (xs : List Strand) :
    (ls.foldl (fun x l => x.modify l f) xs).length = xs.length := by
  induction ls generalizing xs with
  | nil => rfl
  | cons l r ih => rw [List.foldl_cons, ih]; simp

/-- A strand after an update of distinct lanes. -/
theorem getD_modify_fold (ls : List Nat) (f : Strand → Strand) (xs : List Strand) (hn : ls.Nodup)
    (hl : ∀ l ∈ ls, l < xs.length) (k : Nat) :
    (ls.foldl (fun x l => x.modify l f) xs).getD k {} = if k ∈ ls then f (xs.getD k {}) else xs.getD k {} := by
  induction ls generalizing xs with
  | nil => simp
  | cons l r ih =>
    have h1 : l < xs.length := hl l (by simp)
    have hlr : l ∉ r := (List.nodup_cons.1 hn).1
    rw [List.foldl_cons, ih _ (List.nodup_cons.1 hn).2 (fun x hx => by simpa using hl x (by simp [hx]))]
    by_cases hk : k = l
    · subst hk
      simp [hlr, List.getD_eq_getElem?_getD, h1]
    · simp [hk, List.getD_eq_getElem?_getD, Ne.symm hk]

/-- The lanes of a batch are distinct. -/
theorem Sheaf.batch_nodup (sh : Sheaf) : sh.batch.Nodup := by
  unfold Sheaf.batch
  split
  · exact List.nodup_nil
  · exact (List.nodup_range).filter _

theorem Iss.batch_nodup (h : s.iss? c = some i) : i.batch.Nodup := by
  obtain ⟨_, _, hb, _⟩ := State.iss?_some h
  exact hb ▸ i.sh.batch_nodup

/-! ### `mark` and `finish` -/

/-- Where no lane faults, what the lanes' registers hold of errors matters nothing. -/
theorem Iss.reads_finish (i : Iss) (ks : List Nat) (p : Option Pending) (s : State) :
    (i.reads ks).finish p [] s = i.finish p [] s := rfl

/-- An issue that ends without a fault: its outstanding result, and its batch past the instruction (R51, R59). -/
theorem Iss.finish_issued (h : s.iss? c = some i) (p : Option Pending) (n : Nat) :
    Issued s (i.finish p [] { i.mark s with free := n }) i p.toList past := by
  obtain ⟨htm, hsh, _, _, _, _⟩ := State.iss?_some h
  have hlt : ∀ l ∈ i.batch, l < i.sh.strands.length := fun l hl => Iss.lane_lt h hl
  have hnd := Iss.batch_nodup h
  have hj := Iss.sheaf_lt h
  refine ⟨i.batch.foldl (fun x l => x.modify l fun st => { st with pc := st.pc + 8, refused := none })
      (i.batch.foldl (fun x l => x.modify l fun st => { st with run := .active }) i.sh.strands), n, ?_, by simp, ?_⟩
  · simp only [Iss.finish, Iss.logErrors, List.foldl_nil, Iss.mark, State.modSheaf_setFree, State.modSheaf_modCluster,
      State.modSheaf_modSheaf, List.any_nil, Bool.not_false, List.filter_true, Sheaf.raise, List.isEmpty_nil, if_true,
      Sheaf.modLanes_eq]
    simp only [State.modSheaf, State.modTeam_some _ htm, State.modCluster]
    have : i.tm.sheaves[i.j]? = some i.sh := by
      rw [hsh, Team.sheaf, List.getD_eq_getElem?_getD, List.getElem?_eq_getElem hj]; rfl
    have key : ∀ f g : Sheaf → Sheaf, f i.sh = g i.sh → i.tm.modSheaf i.j f = i.tm.modSheaf i.j g := by
      intro f g hfg
      simp only [Team.modSheaf]
      congr 1
      apply List.ext_getElem?
      intro k
      by_cases hk : i.j = k
      · subst hk; simp [this, hfg]
      · simp [hk]
    have hn := key (fun x =>
        match p with
        | some q => Sheaf.push { x with
            strands := i.batch.foldl (fun x l => x.modify l fun st => { st with pc := st.pc + 8, refused := none })
              (i.batch.foldl (fun x l => x.modify l fun st => { st with run := .active }) x.strands)
            iss := x.iss + 1
            marked := i.c.sw
            cleared := false
            nextAt := if i.c.ver1 then i.cycle + 1 + i.c.hold else i.cycle + 1 } q
        | none => { x with
            strands := i.batch.foldl (fun x l => x.modify l fun st => { st with pc := st.pc + 8, refused := none })
              (i.batch.foldl (fun x l => x.modify l fun st => { st with run := .active }) x.strands)
            iss := x.iss + 1
            marked := i.c.sw
            cleared := false
            nextAt := if i.c.ver1 then i.cycle + 1 + i.c.hold else i.cycle + 1 })
      (fun sh => { sh with
        strands := i.batch.foldl (fun x l => x.modify l fun st => { st with pc := st.pc + 8, refused := none })
          (i.batch.foldl (fun x l => x.modify l fun st => { st with run := .active }) i.sh.strands)
        iss := sh.iss + 1
        marked := i.c.sw
        cleared := false
        nextAt := if i.c.ver1 then i.cycle + 1 + i.c.hold else i.cycle + 1
        pend := sh.pend ++ p.toList }) (by cases p <;> simp [Sheaf.push])
    rewrite [← hn]
    cases p <;> rfl
  · intro l
    rw [getD_modify_fold _ _ _ hnd (by simpa using hlt), getD_modify_fold _ _ _ hnd hlt]
    by_cases hl : l ∈ i.batch <;> simp [hl, Sheaf.strand, past]

/-! ### Writes -/

theorem Iss.mem_wrF (lanes : List Nat) (res : Nat → Flags × Bool) (w : Wr) :
    w ∈ i.wrF lanes res ↔ ∃ l ∈ lanes, w = Wr.f l (res l).1 0 ∧ (res l).1 ≠ 0 ∧ i.c.apx = false ∧ (res l).2 = false ∧
      l ∉ i.aG := by
  simp only [Iss.wrF, List.mem_filterMap]
  constructor
  · rintro ⟨l, hl, h⟩
    split at h
    · cases h
    · rename_i hc
      simp only [Bool.or_eq_true, decide_eq_true_eq, not_or, Bool.not_eq_true, List.contains_eq_mem] at hc
      cases h
      exact ⟨l, hl, rfl, hc.2, hc.1.1.1, hc.1.1.2, hc.1.2⟩
  · rintro ⟨l, hl, rfl, h0, ha, ht, hg⟩
    refine ⟨l, hl, if_neg ?_⟩
    simp only [ha, ht, List.contains_eq_mem, hg, decide_false, Bool.or_self, Bool.false_or, decide_eq_true_eq]
    exact h0

/-- The writes of a column with its flags are those the claims speak of. -/
theorem Iss.column_writes (u : Bool) (d : Nat) (val : Nat → Word) (tag : Nat → Bool)
    (fl : Nat → Flags × Bool) :
    WritesColumn i u d val tag
      ((if u then i.wrU d (val 0, tag 0) else i.wrV d i.on fun l => (val l, tag l)) ++ i.wrF i.on fl) := by
  have hf : ∀ w ∈ i.wrF i.on fl, ∃ l x, w = Wr.f l x 0 ∧ l ∈ i.on := by
    intro w hw
    obtain ⟨l, hl, rfl, _⟩ := (Iss.mem_wrF _ _ _).1 hw
    exact ⟨l, _, rfl, hl⟩
  refine ⟨?_, ?_, ?_, ?_, ?_⟩
  · intro hu l hl
    subst hu
    simp only [Iss.wrV]
    exact List.mem_append_left _ (List.mem_append_left _ (List.mem_map.2 ⟨l, hl, rfl⟩))
  · intro hu hne
    subst hu
    have : i.on.isEmpty = false := by simpa using hne
    simp [Iss.wrU, this]
  · intro hu l hl hg
    subst hu
    simp only [Iss.wrV]
    exact List.mem_append_left _ (List.mem_append_right _ (List.mem_map.2 ⟨l, List.mem_filter.2 ⟨hl, by simpa using hg⟩, rfl⟩))
  · intro hu hon hg
    subst hu
    have : i.aG.isEmpty = false := by simpa using hg
    simp [Iss.wrU, hon, this]
  · intro w hw
    rcases List.mem_append.1 hw with h | h
    · cases u with
      | true =>
        simp only [if_true, Iss.wrU] at h
        split at h
        · rename_i hon
          split at h
          · cases h
          · obtain rfl := List.mem_singleton.1 h
            exact ⟨rfl, rfl, .inr ⟨by simpa using hon, by simpa using ‹¬i.aG.isEmpty = true›, rfl, rfl⟩⟩
        · rename_i hon
          obtain rfl := List.mem_singleton.1 h
          exact ⟨rfl, rfl, .inl ⟨by simpa using hon, rfl, rfl, rfl⟩⟩
      | false =>
        simp only [Iss.wrV] at h
        rcases List.mem_append.1 h with h | h
        · obtain ⟨l, hl, rfl⟩ := List.mem_map.1 h
          exact ⟨rfl, rfl, .inl ⟨hl, rfl, rfl, rfl⟩⟩
        · obtain ⟨l, hl, rfl⟩ := List.mem_map.1 h
          obtain ⟨h1, h2⟩ := List.mem_filter.1 hl
          exact ⟨rfl, rfl, .inr ⟨h1, by simpa using h2, rfl, rfl⟩⟩
    · obtain ⟨l, x, rfl, hl⟩ := hf w h
      exact ⟨hl, rfl⟩

theorem Iss.column_flags (u : Bool) (d : Nat) (val : Nat → Word) (tag : Nat → Bool) (fl : Nat → Flags × Bool) :
    WritesFlags i (fun l => (fl l).1) (fun l => (fl l).2)
      ((if u then i.wrU d (val 0, tag 0) else i.wrV d i.on fun l => (val l, tag l)) ++ i.wrF i.on fl) := by
  intro l x
  rw [List.mem_append]
  have hno : ¬ Wr.f l x 0 ∈ (if u then i.wrU d (val 0, tag 0) else i.wrV d i.on fun l => (val l, tag l)) := by
    intro h
    cases u with
    | true =>
      simp only [if_true, Iss.wrU] at h
      split at h
      · split at h <;> simp at h
      · simp at h
    | false => simp [Iss.wrV] at h
  rw [Iss.mem_wrF]
  constructor
  · rintro (h | ⟨k, hk, he, h0, ha, ht, hg⟩)
    · exact absurd h hno
    · cases he
      exact ⟨hk, rfl, h0, ha, ht, hg⟩
  · rintro ⟨hl, rfl, h0, ha, ht, hg⟩
    exact .inr ⟨l, hl, rfl, h0, ha, ht, hg⟩

/-! ### The frame of a column -/

theorem Iss.outstanding_eq (n : Option Nat) (ws : List Wr) :
    (if ws.isEmpty then none else some (match n with | some k => i.fixed k ws | none => i.variable ws)).toList =
      i.outstanding n ws := by
  cases ws with
  | nil => simp [Iss.outstanding]
  | cons w r => cases n <;> simp [Iss.outstanding, Iss.fixed, Iss.variable]

/-- A column run in which no lane faults. -/
theorem Iss.colRun_issued (h : s.iss? c = some i) {reads : List Nat} {o : OpR} {res : Nat → Word × Bool × Flags}
    {n : Option Nat} {bad : Nat → Option Nat} (hp : ∀ l ∈ i.on, i.poisoned l reads = false)
    (hb : ∀ l ∈ i.on, bad l = none) :
    ∃ ws, Issued s (i.colRun reads o res n bad (i.mark s)) i (i.outstanding n ws) past ∧
      WritesColumn i o.u o.d (fun l => (res l).1) (fun l => (res l).2.1) ws ∧
      WritesFlags i (fun l => (res (if o.u then 0 else l)).2.2) (fun l => (res (if o.u then 0 else l)).2.1) ws := by
  have hbad : ∀ l ∈ i.on, (if i.poisoned l reads then some Cause.uncorrectable else bad l) = none := by
    intro l hl; simp [hp l hl, hb l hl]
  have hgood : (i.on.filter fun l => (if i.poisoned l reads then some Cause.uncorrectable else bad l).isNone) = i.on :=
    List.filter_eq_self.2 fun l hl => by rw [hbad l hl]; rfl
  have hfault : (i.on.filterMap fun l =>
      (if i.poisoned l reads then some Cause.uncorrectable else bad l).map fun c => (l, c, 0)) = [] :=
    List.filterMap_eq_nil_iff.2 fun l hl => by rw [hbad l hl]; rfl
  have hsel : (if (i.on.isEmpty && !i.on.isEmpty) = true then [] else i.wrU o.d ((res 0).1, (res 0).2.1)) =
      i.wrU o.d ((res 0).1, (res 0).2.1) := by simp
  refine ⟨_, ?_, Iss.column_writes o.u o.d _ _ fun l => ((res (if o.u then 0 else l)).2.2, (res (if o.u then 0 else l)).2.1),
    Iss.column_flags o.u o.d _ _ fun l => ((res (if o.u then 0 else l)).2.2, (res (if o.u then 0 else l)).2.1)⟩
  rw [← Iss.outstanding_eq]
  unfold Iss.colRun
  simp only [hgood, hfault, hsel]
  by_cases hm : i.met.isEmpty = true
  · rw [if_pos hm, Iss.reads_finish]
    exact Iss.finish_issued h _ _
  · rw [if_neg hm]
    exact Iss.finish_issued h _ _

/-! ### An element-wise instruction -/

/-- With its checks passed, an issue runs on the marked state. -/
theorem issue_run (h : s.iss? c = some i) {check : Iss → Option Nat} (hc : check i = none) (run : Iss → State → State) :
    issue c s check run = .next (run i (i.mark s)) := by
  simp [issue, h, hc]

/-- With a check failed, every lane of the batch takes its cause and nothing of the instruction is performed (R107). -/
theorem issue_trap (h : s.iss? c = some i) {check : Iss → Option Nat} {cause : Nat} (hc : check i = some cause)
    (run : Iss → State → State) : issue c s check run = .next (i.trapAll cause (i.mark s)) := by
  simp [issue, h, hc]

/-! ### The turn of a port -/

/-- What the turn of a port that has chosen a sheaf does where its next instruction answers a next state. -/
theorem State.issueOn_chosen (x : State) (core : Nat) (mem late : Bool) (tm : Team) (j : Nat) (k : Nat × Nat) (t : State)
    (hu : (if mem then ((x.markCore core).core core).usedM else ((x.markCore core).core core).usedV) = false)
    (hp : (x.markCore core).pick core mem = some (tm, j))
    (hv : mem = true → ((x.markCore core).core core).usedV = true ∨ (x.markCore core).pick core false = none)
    (hf : (tm.sheaf j).front = some k)
    (hx : exec ((x.markCore core).chosenInstr tm j) { ((x.markCore core).issuing tm j) with late := late } = .next t) :
    x.issueOn core mem late =
      if (({ t with late := false } : State).team? tm.key).elim true fun y => (y.sheaf j).iss != (tm.sheaf j).iss then
        .next (((x.markCore core).toShadow { t with late := false } tm.key j ((x.markCore core).chosenInstr tm j) mem
          ((x.markCore core).nextApx tm k.2)).issued core mem tm.key j)
      else .next (({ t with late := false } : State).markSafe tm.key) := by
  unfold State.issueOn
  generalize x.markCore core = s0 at *
  dsimp only
  rw [if_neg (by rw [hu]; simp), if_neg (by
    intro hc
    simp only [Bool.and_eq_true, Bool.not_eq_true'] at hc
    rcases hv hc.1.1 with h | h <;> simp [h] at hc), hp]
  dsimp only
  rw [hx, hf]
  rfl

end Sys2Proof.Machine
end

