-- ==== Sys2Proof/Laws/Elements.lean ====
section
/-! SUPPORT. Sub-elements of a column: what reading a joined column gives, and what exposure keeps. -/

namespace Sys2Proof.Machine

/-- The number a list of w-bit digits stands for, the first lowest. -/
theorem foldr_digits_lt (w : Nat) (es : List Nat) :
    es.foldr (fun e acc => e % 2 ^ w + 2 ^ w * acc) 0 < 2 ^ (w * es.length) := by
  induction es with
  | nil => simp
  | cons e r ih =>
    have h1 : e % 2 ^ w < 2 ^ w := Nat.mod_lt _ (by positivity)
    have h2 : 2 ^ (w * (e :: r).length) = 2 ^ w * 2 ^ (w * r.length) := by
      rw [List.length_cons, Nat.mul_succ, Nat.add_comm, Nat.pow_add]
    rw [List.foldr_cons, h2]
    have h3 : 2 ^ w * (r.foldr (fun e acc => e % 2 ^ w + 2 ^ w * acc) 0 + 1) ≤ 2 ^ w * 2 ^ (w * r.length) :=
      Nat.mul_le_mul_left _ ih
    rw [Nat.mul_add] at h3
    omega

theorem foldr_digits_get (w : Nat) (es : List Nat) (k : Nat) (hk : k < es.length) :
    es.foldr (fun e acc => e % 2 ^ w + 2 ^ w * acc) 0 / 2 ^ (w * k) % 2 ^ w = es[k] % 2 ^ w := by
  induction es generalizing k with
  | nil => simp at hk
  | cons e r ih =>
    cases k with
    | zero => simp [Nat.add_mul_mod_self_left]
    | succ n =>
      have hn : n < r.length := by simpa using hk
      have h1 : (e % 2 ^ w + 2 ^ w * r.foldr (fun e acc => e % 2 ^ w + 2 ^ w * acc) 0) / 2 ^ w =
          r.foldr (fun e acc => e % 2 ^ w + 2 ^ w * acc) 0 := by
        rw [Nat.add_mul_div_left _ _ (by positivity), Nat.div_eq_of_lt (Nat.mod_lt _ (by positivity)), Nat.zero_add]
      rw [List.foldr_cons, Nat.mul_succ, Nat.add_comm (w * n), Nat.pow_add, ← Nat.div_div_eq_div_mul, h1, ih n hn]
      simp

/-- Reading sub-element k of a joined column gives the k-th pattern (R24). -/
theorem elem_joinElems (w : Nat) (es : List Nat) (k : Nat) (hk : k < es.length) (hw : w * es.length ≤ 64) :
    elem w k (joinElems w es) = es[k] % 2 ^ w := by
  have hlt : es.foldr (fun e acc => e % 2 ^ w + 2 ^ w * acc) 0 < 2 ^ 64 :=
    lt_of_lt_of_le (foldr_digits_lt w es) (Nat.pow_le_pow_right (by norm_num) hw)
  rw [elem, joinElems, BitVec.toNat_ofNat, Nat.mod_eq_of_lt hlt, foldr_digits_get w es k hk]

/-- A sub-element is below 2^w. -/
theorem elem_lt (w k : Nat) (v : Word) : elem w k v < 2 ^ w := Nat.mod_lt _ (by positivity)

/-- Exposure of the low bits keeps the bits above them (R45). -/
theorem exposeL_div (l : Nat) (ty : Option FFmt) (draw idx v : Nat) : exposeL l ty draw idx v / 2 ^ l = v / 2 ^ l := by
  have h : ∀ keep : Bool,
      (if keep then v else v / 2 ^ l * 2 ^ l + Config.unspecified draw idx % 2 ^ l) / 2 ^ l = v / 2 ^ l := by
    intro keep
    cases keep
    · simp only [Bool.false_eq_true, if_false]
      rw [Nat.mul_comm, Nat.mul_add_div (by positivity), Nat.div_eq_of_lt (Nat.mod_lt _ (by positivity)), Nat.add_zero]
    · rfl
  exact h _

/-- An exposed w-bit pattern is a w-bit pattern. -/
theorem exposeL_lt {l w : Nat} (hl : l ≤ w) (ty : Option FFmt) (draw idx : Nat) {v : Nat} (hv : v < 2 ^ w) :
    exposeL l ty draw idx v < 2 ^ w := by
  have h := exposeL_div l ty draw idx v
  have hw : 2 ^ w = 2 ^ l * 2 ^ (w - l) := by rw [← Nat.pow_add]; congr 1; omega
  have h2 : v / 2 ^ l < 2 ^ (w - l) := by
    rw [Nat.div_lt_iff_lt_mul (by positivity), Nat.mul_comm, ← hw]; exact hv
  rw [← h, Nat.div_lt_iff_lt_mul (by positivity), Nat.mul_comm, ← hw] at h2
  exact h2

theorem exposureBits_le (w g : Nat) (hw : w = 8 ∨ w = 16 ∨ w = 32 ∨ w = 64) : exposureBits w g ≤ w := by
  have key : ∀ (xs : List Nat) (b : Nat), (∀ x ∈ xs, x ≤ b) → xs.getD g 0 ≤ b := by
    intro xs b h
    rw [List.getD_eq_getElem?_getD]
    cases hg : xs[g]? with
    | none => exact Nat.zero_le b
    | some x => exact h x (List.mem_of_getElem? hg)
  rcases hw with rfl | rfl | rfl | rfl <;> simp only [exposureBits] <;> apply key <;> decide

@[simp] theorem elemIdx_length (w : Nat) : (elemIdx w).length = 64 / w := by simp [elemIdx]

/-- The elements of the column that `mapElems` computes (R123, R130). -/
theorem mapElems_getElem (w : Nat) (f : ElemFn) (a b c : Word) (k : Nat) (hk : k < (mapElems w f a b c).1.length) :
    (mapElems w f a b c).1[k] = (f (elem w k a) (elem w k b) (elem w k c)).1 := by
  simp [mapElems, elemIdx]

@[simp] theorem mapElems_length (w : Nat) (f : ElemFn) (a b c : Word) : (mapElems w f a b c).1.length = 64 / w := by
  simp [mapElems]

/-- A whole-width type of R24. -/
theorem Ty.width_cases (ty : Ty) (h : ty ≠ .tb4) : ty.width = 8 ∨ ty.width = 16 ∨ ty.width = 32 ∨ ty.width = 64 := by
  cases ty <;> simp_all [Ty.width]

/-- The elements of an element-wise result, exact or exposed (R47, R123). -/
theorem Iss.elemLane_elements (i : Iss) (m fn : Nat) (o : OpR) (bx : Option Word) (f : ElemFn) (l : Nat)
    (ht : o.ty ≠ .tb4) (hf : ∀ a b c, (f a b c).1 < 2 ^ o.ty.width) :
    Elements i o.ty (i.elemLane m fn o bx f l).1 fun k =>
      (f (elem o.ty.width k (i.sources m fn o bx l).1) (elem o.ty.width k (i.sources m fn o bx l).2.1)
        (elem o.ty.width k (i.sources m fn o bx l).2.2.1)).1 := by
  have hw := Ty.width_cases o.ty ht
  have h64 : o.ty.width * (64 / o.ty.width) ≤ 64 := Nat.mul_div_le 64 _
  intro k hk
  constructor
  · intro ha
    simp only [Iss.elemLane, ha, Bool.false_eq_true, if_false]
    rw [elem_joinElems _ _ _ (by simpa using hk) (by simpa using h64), mapElems_getElem, Nat.mod_eq_of_lt (hf _ _ _)]
  · intro ha
    simp only [Iss.elemLane, ha, if_true]
    rw [elem_joinElems _ _ _ (by simpa [exposeElems] using hk) (by simpa [exposeElems] using h64)]
    simp only [exposeElems, List.getElem_mapIdx, mapElems_getElem]
    have hb : (o.ty == Ty.tb4) = false := by simpa using ht
    simp only [expose, hb, Bool.false_eq_true, if_false]
    rw [Nat.mod_eq_of_lt (exposeL_lt (exposureBits_le _ _ hw) _ _ _ (hf _ _ _)), exposeL_div]

@[simp] theorem Iss.elemLane_tag (i : Iss) (m fn : Nat) (o : OpR) (bx : Option Word) (f : ElemFn) (l : Nat) :
    (i.elemLane m fn o bx f l).2.1 = ((i.sources m fn o bx l).2.2.2 || i.c.apx) := rfl

/-- A family that raises no flag raises none in a column. -/
theorem Iss.elemLane_flags (i : Iss) (m fn : Nat) (o : OpR) (bx : Option Word) {f : ElemFn} (l : Nat)
    (hf : ∀ a b c, (f a b c).2 = 0) : (i.elemLane m fn o bx f l).2.2 = 0 := by
  simp only [Iss.elemLane, mapElems]
  generalize elemIdx o.ty.width = ks
  suffices H : ∀ x : Flags, x = 0 → (ks.map fun k => f (elem o.ty.width k (i.sources m fn o bx l).1)
      (elem o.ty.width k (i.sources m fn o bx l).2.1)
      (elem o.ty.width k (i.sources m fn o bx l).2.2.1)).foldl (fun x r => x ||| r.2) x = 0 from H 0 rfl
  intro x hx
  induction ks generalizing x with
  | nil => exact hx
  | cons k r ih =>
    simp only [List.map_cons, List.foldl_cons, hf]
    exact ih _ (by rw [hx]; rfl)

/-- An element-wise instruction whose checks pass and in which no lane faults completes with its column. -/
theorem elemInstr_completes {ins : Instr} {s : State} {i : Iss} {m fn : Nat} {c : Ctl} {o : OpR} {bx : Option Word}
    {f : ElemFn} {n : Option Nat} {own : Option Nat} {bad : Iss → Nat → Option Nat}
    (he : exec ins s = elemInstr m fn c o bx f n own bad s) (h : s.iss? c = some i)
    (hc : rChecks m fn o c.apx own i.sh.w = none) (hp : ∀ l ∈ i.on, i.poisoned l (readsOf m fn o) = false)
    (hb : ∀ l ∈ i.on, bad i l = none) :
    CompletesColumn ins s i o.u o.d n (fun l => (i.elemLane m fn o bx f l).1) (fun l => (i.elemLane m fn o bx f l).2.1)
      (fun l => (i.elemLane m fn o bx f l).2.2) := by
  obtain ⟨ws, h1, h2, h3⟩ := Iss.colRun_issued (n := n) (res := i.elemLane m fn o bx f) h hp hb
  exact ⟨_, ws, by rw [he, elemInstr]; exact issue_run h hc _, h1, h2, h3⟩

theorem ofInt_lt (w : Nat) (v : Int) : ofInt w v < 2 ^ w := by
  have hw : (0 : Int) < 2 ^ w := by positivity
  have h := Int.emod_lt_of_pos v hw
  have h0 := Int.emod_nonneg v hw.ne'
  have : ((v % 2 ^ w).toNat : Int) < ((2 ^ w : Nat) : Int) := by push_cast; omega
  unfold ofInt
  exact_mod_cast this

end Sys2Proof.Machine
end

