-- ==== Sys2Proof/Tests/Slice0.lean ====
section
/-! SUPPORT. Tests: words written out from the spec's encodings, ill-formed terms, single steps, and for each statement
concrete states and operands that meet its hypotheses. -/

namespace Sys2Proof.Tests

open Sys2Proof Sys2Proof.Machine

/-! ### Decoding -/

/-- Every word decodes to the instruction beside it. -/
def readsAll (l : List (BitVec 64 × Instr)) : Bool :=
  l.all fun p => match decode p.1 with
    | .ok i => i == p.2
    | .error _ => false

-- Words written out from the fields of R56, R64 to R66 and the opcode map of R70.

theorem test_words_integer : readsAll [
  (0x0061E14344800801, .iadd {} { d := 5, a := 6, bc := .regs { uni := true, idx := 9 } {}, ty := .s16, x := 1 }),
  (0x0065E14344803800, .isub {} { d := 5, a := 6, bc := .regs { uni := true, idx := 9 } {}, ty := .n64 }),
  (0x0069E14344800001, .imul {} { d := 5, a := 6, bc := .regs { uni := true, idx := 9 } {}, ty := .s8, x := 1 }),
  (0x006DE14344803000, .imulh {} { d := 5, a := 6, bc := .regs { uni := true, idx := 9 } {}, ty := .n32 }),
  (0x0075E14344801000, .idiv {} { d := 5, a := 6, bc := .regs { uni := true, idx := 9 } {}, ty := .s32 }),
  (0x0079E14344801800, .irem {} { d := 5, a := 6, bc := .regs { uni := true, idx := 9 } {}, ty := .s64 }),
  (0x007DE14344802000, .imin {} { d := 5, a := 6, bc := .regs { uni := true, idx := 9 } {}, ty := .n8 }),
  (0x0081E14344802800, .imax {} { d := 5, a := 6, bc := .regs { uni := true, idx := 9 } {}, ty := .n16 }),
  (0x0072614344841001, .imad { gn := true, gp := 3 } { d := 5, a := 6, bc := .regs { uni := true, idx := 9 } { idx := 8 }, ty := .s32, x := 1 }),
  (0x0085E14300000801, .iabs {} { d := 5, a := 6, ty := .s16, x := 1 }),
  (0x0089E14300001800, .ineg {} { d := 5, a := 6, ty := .s64 }),
  (0x008DE14303803800, .and {} { d := 5, a := 6, bc := .regs { idx := 7 } {}, ty := .n64 }),
  (0x008DE14303803810, .or {} { d := 5, a := 6, bc := .regs { idx := 7 } {}, ty := .n64 }),
  (0x008DE14303803820, .xor {} { d := 5, a := 6, bc := .regs { idx := 7 } {}, ty := .n64 }),
  (0x008DE14300003030, .not {} { d := 5, a := 6, ty := .n32 }),
  (0x008DE14303802840, .andn {} { d := 5, a := 6, bc := .regs { idx := 7 } {}, ty := .n16 }),
  (0x0091E1430001B004, .shl {} { d := 5, a := 6, bc := .imm 3, ty := .n32 }),
  (0x0091E14300019014, .shr {} { d := 5, a := 6, bc := .imm 3, ty := .s32 }),
  (0x0095E14344802000, .rot {} { d := 5, a := 6, bc := .regs { uni := true, idx := 9 } {}, ty := .n8 }),
  (0x0099E14300003800, .popc {} { d := 5, a := 6, ty := .n64 }),
  (0x0099E14300003810, .clz {} { d := 5, a := 6, ty := .n64 }),
  (0x0099E14300003820, .brev {} { d := 5, a := 6, ty := .n64 })] = true := by decide

theorem test_words_move : readsAll [
  (0x009DE10082041004, .bfx {} { d := 4, a := 1, bc := .imm 1032, ty := .s32 }),
  (0x00A1E14303843800, .bfi {} { d := 5, a := 6, bc := .regs { idx := 7 } { idx := 8 }, ty := .n64 }),
  (0x00A5E14303818000, .sel {} { d := 5, a := 6, bc := .regs { idx := 7 } { idx := 3 } }),
  (0x00A9E08344802842, .icmp {} .ge { d := 2, a := 6, bc := .regs { uni := true, idx := 9 } {}, ty := .n16, x := 2 }),
  (0x00ADE1401FC0500C, .mov {} { d := 5, bc := .imm 16256, ty := .f32, u := true }),
  (0x00B1E17BD5B7DDE0, .movi {} { d := 5, h := true, imm := 0xDEADBEEF }),
  (0x00B5E14042003803, .lea {} { d := 5, a := 0, bc := .regs { uni := true, idx := 4 } {}, ty := .n64, x := 3 })] = true := by decide

theorem test_words_float : readsAll [
  (0x00C1E14303804400, .fadd {} { d := 5, a := 6, bc := .regs { idx := 7 } {}, ty := .f16, rnd := .rup }),
  (0x00C5E14303804400, .fsub {} { d := 5, a := 6, bc := .regs { idx := 7 } {}, ty := .f16, rnd := .rup }),
  (0x00C9E14303804400, .fmul {} { d := 5, a := 6, bc := .regs { idx := 7 } {}, ty := .f16, rnd := .rup }),
  (0x00E5E14303804400, .fdiv {} { d := 5, a := 6, bc := .regs { idx := 7 } {}, ty := .f16, rnd := .rup }),
  (0x00E9E14303804400, .fscale {} { d := 5, a := 6, bc := .regs { idx := 7 } {}, ty := .f16, rnd := .rup }),
  (0x00CDE14303845E00, .ffma {} { d := 5, a := 6, bc := .regs { idx := 7 } { idx := 8 }, ty := .f64, rnd := .rdn }),
  (0x00D1E14303804800, .fmin {} { d := 5, a := 6, bc := .regs { idx := 7 } {}, ty := .bf16 }),
  (0x00D5E14303804800, .fmax {} { d := 5, a := 6, bc := .regs { idx := 7 } {}, ty := .bf16 }),
  (0x00D9E08303805831, .fcmp {} .ne { d := 2, a := 6, bc := .regs { idx := 7 } {}, ty := .f64, x := 1 }),
  (0x00DDE14300005000, .fclass {} { d := 5, a := 6, ty := .f32 }),
  (0x00E1E14300005200, .frcp {} { d := 5, a := 6, ty := .f32, rnd := .rtz }),
  (0x00E1E14300005210, .frsq {} { d := 5, a := 6, ty := .f32, rnd := .rtz }),
  (0x00E1E14300005220, .fsqrt {} { d := 5, a := 6, ty := .f32, rnd := .rtz }),
  (0x02E1E14300005230, .fexp2 { apx := true } { d := 5, a := 6, ty := .f32, rnd := .rtz }),
  (0x00E1E14300005240, .flog2 {} { d := 5, a := 6, ty := .f32, rnd := .rtz }),
  (0x00E1E14300005250, .fsin {} { d := 5, a := 6, ty := .f32, rnd := .rtz }),
  (0x00E1E14300005260, .fcos {} { d := 5, a := 6, ty := .f32, rnd := .rtz }),
  (0x00E1E14300005270, .frnd {} { d := 5, a := 6, ty := .f32, rnd := .rtz })] = true := by decide

theorem test_words_convert : readsAll [
  (0x00EDE14300014201, .cvt {} { d := 5, a := 6, bc := .regs {} { idx := 2 }, ty := .f16, rnd := .rtz, x := 1 }),
  (0x00F1E506428AE000, .cvtb {} { d := 20, a := 12, bc := .regs { uni := true, idx := 5 } { idx := 21 }, ty := .tb8 }),
  (0x00F5E30A0A806000, .cvtx {} { d := 12, a := 20, bc := .regs { idx := 21 } {}, ty := .tb8 }),
  (0x00F9E14303802000, .pack {} { d := 5, a := 6, bc := .regs { idx := 7 } {}, ty := .n8 }),
  (0x00FDE14300005003, .unpk {} { d := 5, a := 6, ty := .f32, x := 3 })] = true := by decide

theorem test_words_cross : readsAll [
  (0x0101E14300081004, .swz {} { d := 5, a := 6, bc := .imm 16, ty := .s32 }),
  (0x0105E14303803000, .shfl {} { d := 5, a := 6, bc := .regs { idx := 7 } {}, ty := .n32 }),
  (0x0109E1430020B804, .shfli {} { d := 5, a := 6, bc := .imm 65, ty := .n64 }),
  (0x010DE0C200000000, .voteAny {} { d := 3, a := 4 }),
  (0x010DE0E100000010, .voteAll {} { d := 3, a := 66 }),
  (0x010DE1E200000028, .voteBallot {} { d := 7, a := 68, u := true }),
  (0x0111E04101800002, .pand {} { d := 1, a := 2, bc := .regs { idx := 3 } {}, x := 2 }),
  (0x0111E04101800012, .por {} { d := 1, a := 2, bc := .regs { idx := 3 } {}, x := 2 }),
  (0x0111E04101800022, .pxor {} { d := 1, a := 2, bc := .regs { idx := 3 } {}, x := 2 }),
  (0x0111E04100000031, .pnot {} { d := 1, a := 2, x := 1 }),
  (0x0111E14000000040, .pget {} { d := 5 }),
  (0x0111E00300000050, .pset {} { a := 6 }),
  (0x0115E14000000000, .flgrd {} { d := 5 }),
  (0x0115E000000F8014, .flgclr {} { bc := .imm 31 }),
  (0x0119E14300000008, .endorse {} { d := 5, a := 6, u := true }),
  (0x011DE04100000000, .endp {} { d := 1, a := 2 }),
  (0x0121E14300000001, .atag {} { d := 5, a := 6, x := 1 })] = true := by decide

theorem test_words_memory : readsAll [
  (0x0141E205047FFC38, .ld {} { t := 8, base := some 5, index := some 4, disp := 65528, ty := .n64 }),
  (0x0145E20501000438, .st {} { t := 8, base := some 5, index := some 1, disp := 8, ty := .n64 }),
  (0x0149E24083008008, .ldl {} { t := 9, index := some 3, disp := 256, ty := .s16 }),
  (0x014DE1C600800054, .stl {} { t := 7, base := some 6, ty := .f32, u := true }),
  (0x0151E10201000020, .lds {} { t := 4, base := some 2, index := some 1, ty := .n8 }),
  (0x0155E00504004000, .pref {} { base := some 5, index := some 4, disp := 128 }),
  (0x0159E00000001000, .fenceAcq {} { scope := .team }),
  (0x0159E00000002820, .fenceRel {} { scope := .die }),
  (0x0159E00000001840, .fenceFull {} { scope := .core })] = true := by decide

theorem test_words_control : readsAll [
  (0x0005E00000000000, .nop {} {}),
  (0x0009F00FFFFFFFFE, .bra {} { y := true, off := 0xffffffffe }),
  (0x000DF00500000000, .brx {} { y := true, target := 5 }),
  (0x0011E00000000000, .land {} {}),
  (0x0015E10000000010, .call {} { frame := 2, off := 0x10 }),
  (0x0019E10500000000, .callx {} { frame := 2, target := 5 }),
  (0x001DE00000000000, .ret {} {}),
  (0x0021E00000018000, .join {} { sel := 3 }),
  (0x0025E00000018000, .leave {} { sel := 3 }),
  (0x0029E00000018000, .waitm {} { sel := 3 }),
  (0x002DE00000000004, .spawn {} { off := 0x4 }),
  (0x0031E00000000000, .exit {} {}),
  (0x0035E00000000004, .refill {} { off := 0x4 }),
  (0x0039E00000000000, .yield {} {}),
  (0x003DE00000001234, .trap {} { code := 0x1234 }),
  (0x0041E00000000007, .bpt {} { code := 7 }),
  (0x0045E00000000000, .tret {} {})] = true := by decide

theorem test_words_core : readsAll [
  (0x0161E00000008000, .role {} { sel := 1 }),
  (0x0165E00000000000, .bar {} {}),
  (0x0169E00042800000, .barx {} { b := { uni := true, idx := 5 } }),
  (0x016DE0C000010000, .sread {} { d := 3, sel := 2 }),
  (0x0171E0C000430000, .plevel {} { d := 3, sel := 134 }),
  (0x0175E08042800000, .setgrade {} { d := 2, b := { uni := true, idx := 5 } }),
  (0x0179E1C000440000, .pread {} { d := 7, sel := 136 })] = true := by decide

theorem test_words_matrix : readsAll [
  (0x0181E0601C020000, .wld {} { sA := 12, latch := 1, ty := .tb8, x := 1 }),
  (0x0185E00000000000, .wswp {} {}),
  (0x0189E66179000000, .mma {} { z := 3, sA := 12, sN := 11, latch := 1, ty := .bf16 }),
  (0x018DE40000000000, .zclr {} { z := 2 }),
  (0x0191E28A0A420000, .zrd {} { z := 1, sA := 17, sN := 16, ty := .f32, rnd := .rtz, x := 1 }),
  (0x0195E2616A020000, .zwr {} { z := 1, sA := 12, sN := 11, ty := .f32, x := 1 }),
  (0x0199E86178000000, .rdc {} { z := 4, sA := 12, sN := 11, latch := 1, ty := .f16 }),
  (0x019DEA616A000000, .scan {} { z := 5, sA := 12, sN := 11, ty := .f32 }),
  (0x01A1E6517C000000, .chain {} { z := 3, sA := 10, sN := 11, latch := 1, ty := .tb8 })] = true := by decide

theorem test_words_engine : readsAll [
  (0x01C1E82848C00000, .cpy {} { sd := 16, st := 20, so := 9, chan := 3 }),
  (0x01C5E82804C54000, .cpyr {} { sd := 16, st := 20, sn := true, chan := 3, x := 2, ty := .f32 }),
  (0x01C9E82807C00000, .cpos {} { sd := 16, st := 20, sn := true, chan := 15 }),
  (0x01CDE2A800000000, .cwait {} { sd := 5, st := 20 }),
  (0x01D1E02800000000, .ewait {} { st := 20 }),
  (0x01D5E2A800000000, .eqry {} { sd := 5, st := 20 }),
  (0x01D9E82804000000, .dtab {} { sd := 16, st := 20, sn := true }),
  (0x01DDE82848018000, .dec {} { sd := 16, st := 20, so := 9, ty := .tb8 })] = true := by decide

theorem test_words_atomic : readsAll [
  (0x01E1E609151700E0, .aadd {} { d := 24, base := some 9, index := some 21, e := 23, ty := .n64 }),
  (0x01E1E609151700C1, .amin {} { d := 24, base := some 9, index := some 21, e := 23, ty := .n32 }),
  (0x01E1E609151700E2, .amax {} { d := 24, base := some 9, index := some 21, e := 23, ty := .n64 }),
  (0x01E1E609151700C3, .aand {} { d := 24, base := some 9, index := some 21, e := 23, ty := .n32 }),
  (0x01E1E609151700E4, .aor {} { d := 24, base := some 9, index := some 21, e := 23, ty := .n64 }),
  (0x01E1E609151700C5, .axor {} { d := 24, base := some 9, index := some 21, e := 23, ty := .n32 }),
  (0x01E1E609151700E6, .axchg {} { d := 24, base := some 9, index := some 21, e := 23, ty := .n64 }),
  (0x01E1E60900972CE7, .acas {} { d := 24, base := some 9, e := 23, g := 22, ty := .n64 }),
  (0x01E1E60095170148, .afadd {} { d := 24, index := some 21, e := 23, ty := .f32 }),
  (0x01E1E00915170169, .afaddO {} { base := some 9, index := some 21, e := 23, ty := .f64 }),
  (0x01E1E0000000000A, .aflush {} { base := some 0, index := some 0 })] = true := by decide

theorem test_words_staged : readsAll [
  (0x01E5E004008C0000, .stbl {} { base := some 4, e := 12 }),
  (0x01E9E102010004E0, .ldt {} { d := 4, base := some 2, index := some 1, g := 2, ty := .n64 }),
  (0x01EDE005008806E0, .stt {} { base := some 5, e := 8, g := 3, ty := .n64 }),
  (0x01F1E18500871C00, .xtr {} { d := 6, base := some 5, e := 7, g := 14 })] = true := by decide

theorem test_words_combine : readsAll [
  (0x01F5E02C00AD0000, .ccfg {} { base := some 44, e := 45 }),
  (0x01F5E14080C10201, .cslot {} { d := 5, e := 65, g := 1 }),
  (0x01F5E00401050002, .cgate {} { base := some 4, index := some 1, e := 5 }),
  (0x01F5E00401050C03, .cput {} { base := some 4, index := some 1, e := 5, g := 6 }),
  (0x01F5E1C080850004, .cstat {} { d := 7, e := 5 }),
  (0x01F5E00080850005, .cfree {} { e := 5 })] = true := by decide

theorem test_words_package : readsAll [
  (0x01F9E00000003000, .settle {} { scope := .package }),
  (0x01F9E00000002020, .codesync {} { scope := .cluster }),
  (0x01FDE00044003000, .tlbinv {} { b := { uni := true, idx := 8 }, scope := .package }),
  (0x01FDE08044000020, .mapctlMap {} { d := 2, b := { uni := true, idx := 8 }, sel := 0 }),
  (0x01FDE08044008020, .mapctlUnmap {} { d := 2, b := { uni := true, idx := 8 }, sel := 1 }),
  (0x01FDE08044010020, .mapctlProtect {} { d := 2, b := { uni := true, idx := 8 }, sel := 2 }),
  (0x01FDE08044018020, .mapctlMigrate {} { d := 2, b := { uni := true, idx := 8 }, sel := 3 }),
  (0x01FDE08044000040, .lnch {} { d := 2, b := { uni := true, idx := 8 } }),
  (0x01FDE08044000060, .savectx {} { d := 2, b := { uni := true, idx := 8 } }),
  (0x01FDE08044000080, .restctx {} { d := 2, b := { uni := true, idx := 8 } }),
  (0x01FDE000000280A0, .snap {} { sel := 5 })] = true := by decide



/-! ### Ill-formed terms -/

/-- Every one of the terms is refused. -/
def allIllFormed (l : List Instr) : Bool := l.all fun i => !i.wellFormed

/-- The control part: hold under version 0, hold and guard out of their fields, the A bit of a precise major. -/
theorem test_illFormed_control : allIllFormed [
  .nop { hold := 1 } {}, .nop { ver1 := true, hold := 8 } {}, .nop { gp := 16 } {}, .nop { apx := true } {}] = true := by decide

/-- Fields wider than their bits (R64 to R66). -/
theorem test_illFormed_widths : allIllFormed [
  .iadd {} { d := 128 }, .iadd {} { a := 128 }, .iadd {} { x := 4 }, .iadd {} { bc := .imm 65536 },
  .iadd {} { bc := .regs { idx := 128 } {} }, .imad {} { bc := .regs {} { idx := 128 } }, .movi {} { d := 128 },
  .movi {} { d := 64, u := true }, .movi {} { imm := 4294967296 }, .ld {} { t := 128 }, .ld {} { base := some 64 },
  .ld {} { index := some 128 }, .ld {} { disp := 65536 }, .ld {} { x := 4 }, .aadd {} { d := 128, ty := .s32 },
  .aadd {} { e := 128, ty := .s32 }, .acas {} { g := 128, ty := .n32 }, .call {} { frame := 32 }, .bra {} { off := 68719476736 },
  .callx {} { frame := 32 }, .brx {} { target := 128 }, .trap {} { code := 65536 }, .role {} { sel := 256 },
  .mma {} { z := 16, ty := .f32 }, .mma {} { sA := 64, ty := .f32 }, .mma {} { sN := 64, ty := .f32 },
  .mma {} { latch := 2, ty := .f32 }, .cpy {} { sd := 64 }, .cpy {} { st := 64 }, .cpy {} { so := 64 }, .cpy {} { chan := 16 }] =
  true := by decide

/-- Fields that an entry does not use (R66), in each format. -/
theorem test_illFormed_reserved : allIllFormed [
  .iabs {} { bc := .regs { idx := 1 } {} }, .iadd {} { rnd := .rtz }, .sel {} { ty := .s16 },
  .sel {} { bc := .regs {} { uni := true } }, .mov {} { ty := .s16 }, .icmp {} .lt { d := 16 }, .iadd {} { u := true, d := 64 },
  .voteAny {} { a := 16 }, .cvt {} { ty := .s8, bc := .regs {} { idx := 1 }, rnd := .rtz }, .pand {} { bc := .regs { idx := 16 } {} },
  .pref {} { t := 1 }, .ld {} { t := 64, u := true }, .aflush {} {}, .afaddO {} { d := 1, ty := .f32 }, .aadd {} { g := 1, ty := .s32 },
  .stbl {} { d := 1 }, .ldt {} { e := 1 }, .stt {} { d := 1 }, .xtr {} { g := 3, e := 1 }, .ccfg {} { d := 1 },
  .cslot {} { e := 1 }, .cgate {} { g := 1 }, .cput {} { d := 1 }, .cstat {} { g := 1 }, .cfree {} { d := 1 },
  .join {} { d := 1 }, .fenceAcq {} { scope := .team, sel := 1 }, .role {} { scope := .team }, .bar {} { sel := 1 },
  .barx {} { b := { uni := true, idx := 64 } }, .sread {} { b := { idx := 1 } }, .plevel {} { sel := 1 }, .settle {} { scope := .package, d := 1 },
  .tlbinv {} { scope := .die, sel := 1 }, .lnch {} { d := 64 }, .snap {} { d := 1 }, .nop {} { code := 1 }, .bra {} { frame := 1 },
  .call {} { y := true }, .spawn {} { frame := 1 }, .brx {} { frame := 1 }, .callx {} { y := true }, .wld {} { z := 1, ty := .f32 },
  .wswp {} { sA := 1 }, .zclr {} { ty := .f32 }, .mma {} { ty := .f32, rnd := .rtz }, .mma {} { ty := .f32, x := 1 },
  .cpy {} { ty := .s16 }, .cwait {} { so := 1 }, .ewait {} { sd := 1 }, .cpy {} { x := 1 }] = true := by decide

/-- Types and scopes that an entry does not list (R67, R69), and a MAPCTL operation in another's constructor. -/
theorem test_illFormed_types : allIllFormed [
  .iadd {} { ty := .f32 }, .fadd {} { ty := .s32 }, .cvt {} { ty := .f32, bc := .regs {} { idx := 12 } }, .ld {} { ty := .tb8 },
  .aadd {} { ty := .s8 }, .aand {} { ty := .s32 }, .afadd {} { ty := .f16 }, .ldt {} { ty := .tb4 }, .fenceAcq {} {},
  .settle {} { scope := .die }, .codesync {} { scope := .team }, .tlbinv {} { scope := .team }, .zrd {} { ty := .tb8 },
  .zwr {} { ty := .f16 }, .scan {} { ty := .tb4 }, .mma {} { ty := .f64 }, .cpyr {} { ty := .tb8 }, .dec {} { ty := .s8 },
  .mapctlMap {} { sel := 1 }, .placement] = true := by decide


/-- R72 rows 1 to 8: a word is refused by the first row that it breaks. -/
theorem test_refused_words : ([
  (0x8000000000000000, Reject.version), (0x0000000000000000, .zero), (0x005DE00000000000, .major), (0x008DE14383804850, .fn),
  (0x0461E18300009004, .reserved), (0x0061E18300009204, .reserved), (0x0205E00000000000, .approx), (0x0061E18300005004, .type)] :
    List (BitVec 64 × Reject)).all (fun p => match decode p.1 with
      | .ok _ => false
      | .error r => r == p.2) = true := by decide

/-! ### Small states -/

def tk : Nat := teamKey 1 0 0

/-- One sheaf of 32 active lanes: V1 of lane l is l + 1, S2 is 0x2_0000, S4 is 1. -/
def sheaf0 : Sheaf where
  allot := 128
  strands := List.replicate 32 { pc := 0x10000, run := .active }
  vreg := (List.range 32).map fun l => (l * 2048 + 1, { bits := BitVec.ofNat 64 (l + 1) })
  ureg := [(2, { bits := 0x20000 }), (3, { bits := 0x30000 }), (4, { bits := 1 })]

def team0 (f : Sheaf → Sheaf) : Team := { fetchTeam with sheaves := [f sheaf0] }

/-- The booted package with one resident team, whose sheaf issues, and two pages: a precise one and one of grade 4. -/
def withTeam (tm : Team) : State :=
  { State.reset with
    power := true
    boot := 5
    cur := some { team := tk }
    teams := [(tk, tm)]
    pages := [{ va := 0x20000, pa := 0x10000 }, { va := 0x30000, pa := 0x20000, grade := 4 }] }

def s0 : State := withTeam (team0 id)

/-- A register operand: V1 and S4. -/
def rr : OpR := { d := 5, a := 1, bc := .regs { uni := true, idx := 4 } {}, ty := .s32 }

/-! ### Witnesses: arithmetic -/

theorem witness_IntegerFamilyResults : ∃ r i, integerRow (.iadd {} rr) = some r ∧ s0.iss? r.c = some i ∧
    rChecks r.m r.fn r.o r.c.apx none i.sh.w = none ∧ r.o.ty ≠ .tb4 ∧ (∀ l ∈ i.on, i.poisoned l (readsOf r.m r.fn r.o) = false) ∧
    (r.divides = true → ∀ l ∈ i.on, zeroDivisor r.m r.o i l = none) :=
  ⟨_, _, rfl, rfl, by decide, by decide, by decide, nofun⟩

/-- A divisor that is nowhere zero: 16-bit sub-elements of an immediate. -/
theorem witness_IntegerFamilyResults_divides : ∃ r i,
    integerRow (.irem {} { rr with bc := .imm 0xFFFF, ty := .s16 }) = some r ∧ s0.iss? r.c = some i ∧
    rChecks r.m r.fn r.o r.c.apx none i.sh.w = none ∧ r.divides = true ∧ ∀ l ∈ i.on, zeroDivisor r.m r.o i l = none :=
  ⟨_, _, rfl, rfl, by decide, by decide, by decide⟩

/-- V1's upper halves are zero, its lower halves are not. -/
theorem witness_DivisionByZeroTraps : ∃ i, s0.iss? {} = some i ∧ rr.ty ≠ .tb4 ∧
    rChecks 0x1D 0 { rr with bc := .regs { idx := 1 } {} } false none i.sh.w = none ∧
    (∀ l ∈ i.on, i.poisoned l (readsOf 0x1D 0 { rr with bc := .regs { idx := 1 } {} }) = false) ∧ 0 ∈ i.on :=
  ⟨_, rfl, by decide, by decide, by decide, by decide⟩

/-- The hypotheses of a row of format R that has no others. -/
def rowMet (m fn : Nat) (o : OpR) (c : Ctl := {}) : Bool :=
  match s0.iss? c with
  | some i => rChecks m fn o c.apx none i.sh.w == none && i.on.all (fun l => !i.poisoned l (readsOf m fn o)) && !i.on.isEmpty
  | none => false

theorem witness_MoveFieldAndPackResults : ([
  (0x27, { rr with bc := .imm 0x0408 }), (0x28, { rr with ty := .n64, bc := .regs { idx := 1 } { idx := 1 } }),
  (0x29, { rr with ty := .s8, bc := .regs { idx := 1 } { idx := 3 } }), (0x2B, { rr with a := 0, bc := .imm 0x8000 }),
  (0x2D, { rr with ty := .n64, x := 3 }), (0x3E, { rr with ty := .s16 }), (0x3F, { rr with ty := .s64, bc := .regs {} {}, x := 1 }),
  (0x3F, { rr with ty := .f32, bc := .regs {} {}, x := 3 })] : List (Nat × OpR)).all (fun p => rowMet p.1 0 p.2) = true := by decide

/-- PACK narrows from twice the width, UNPK widens from half of it. -/
theorem witness_MoveFieldAndPackResults_kinds : SameKind .s16 .s32 (2 * Ty.width .s16) ∧ SameKind .s64 .s32 (Ty.width .s64 / 2) ∧
    SameKind .f32 .bf16 (Ty.width .f32 / 2) := by unfold SameKind; decide

theorem witness_MoveFieldAndPackResults_movi : ∃ i, s0.iss? {} = some i ∧ (5 : Nat) < i.sh.w ∧ i.on ≠ [] :=
  ⟨_, rfl, by decide, by decide⟩

/-- Whole blocks of CVTB (spread in a uniform, exponents in V21) and of CVTX. -/
theorem witness_MoveFieldAndPackResults_blocks : ∃ i, s0.iss? {} = some i ∧
    (∀ l ∈ i.on, ∀ k ∈ (List.range 4).map fun k => l / 4 * 4 + k, k ∈ i.on) ∧
    tbChecks 0x3C { d := 20, a := 12, bc := .regs { uni := true, idx := 5 } { idx := 21 }, ty := .tb8 } false 12 { idx := 21 } i.sh.w = none ∧
    (∀ l ∈ i.on, ∀ r < 4, i.poisoned l [12 + r] = false) ∧
    tbChecks 0x3D { d := 12, a := 20, bc := .regs { idx := 21 } {}, ty := .tb8 } false 12 { idx := 21 } i.sh.w = none ∧
    ∀ l ∈ i.on, i.poisoned l [20] = false ∧ i.poisoned (l / 4 * 4) [21] = false :=
  ⟨_, rfl, by decide, by decide, by decide, by decide, by decide⟩

theorem witness_ComparisonResults : rowMet 0x2A 0 { rr with d := 2, x := 2 } = true ∧
    rowMet 0x36 3 { rr with d := 2, ty := .f64 } = true ∧ Ty.float .s32 = false := by decide

theorem witness_FloatFamilyResults : rowMet 0x30 0 { rr with ty := .f16, rnd := .rup } = true ∧
    rowMet 0x38 3 { rr with ty := .f32, bc := .regs {} {} } { apx := true } = true ∧
    rowMet 0x3A 0 { rr with ty := .f64, bc := .imm 0xFFFF } = true ∧
    rowMet 0x37 0 { rr with ty := .bf16, bc := .regs {} {} } = true := by decide

/-- 1, −1 and 2 in FP32; the sum of the first two is zero. -/
theorem witness_FloatArithmeticIsExactlyRounded :
    (FFmt.f32.value 0x3F800000).rational = some 1 ∧ (FFmt.f32.value 0xBF800000).rational = some (-1) ∧
    (FFmt.f32.value 0x40000000).rational = some 2 ∧ (1 : Rat) + -1 = 0 ∧ (1 : Rat) ≠ 0 := by
  have h1 : FFmt.f32.value 0x3F800000 = .fin false 8388608 (-23) := by decide
  have h2 : FFmt.f32.value 0xBF800000 = .fin true 8388608 (-23) := by decide
  have h3 : FFmt.f32.value 0x40000000 = .fin false 8388608 (-22) := by decide
  rw [h1, h2, h3]
  norm_num [FV.rational]

theorem witness_ConversionResults :
    rowMet 0x3B 0 { rr with ty := .f16, bc := .regs {} { idx := 2 }, rnd := .rtz, x := 1 } = true ∧
    Ty.ofCode 2 = some .s32 ∧ ¬ ((1 : Nat) % 2 = 1 ∧ Ty.width .s32 = Ty.width .f16) := by decide

/-- A signalling NaN, an infinity and 1.5 as sources of the value clauses. -/
theorem witness_ConversionResults_values : FFmt.f32.value 0x7F800001 = .nan true ∧ FFmt.f32.value 0xFF800000 = .inf true ∧
    (FFmt.f32.value 0x3FC00000).rational ≠ none := by decide

theorem witness_LaneMovementResults : rowMet 0x40 0 { rr with bc := .imm 0x10 } = true ∧
    rowMet 0x40 0 { rr with ty := .n64, bc := .imm 0x10 } = true ∧
    rowMet 0x41 0 { rr with ty := .n32, bc := .regs { idx := 1 } {} } = true ∧ (0x10 : Nat) < 16 ^ (64 / Ty.width .s32) ∧
    rowMet 0x42 0 { rr with ty := .n64, bc := .imm 0x7F } = true ∧ (0x7F : Nat) < 128 := by decide

theorem witness_VotePredicateAndFlagResults : ([
  (0x43, 0, { d := 3, a := 4 }), (0x43, 1, { d := 3, a := 68 }), (0x43, 2, { d := 7, a := 68, u := true }),
  (0x44, 2, { d := 1, a := 2, bc := .regs { idx := 3 } {}, x := 2 }), (0x44, 3, { d := 1, a := 2, x := 1 }), (0x44, 4, { d := 5 }),
  (0x44, 5, { a := 6 }), (0x45, 0, { d := 5 }), (0x45, 1, { bc := .imm 31 }), (0x46, 0, { d := 5, a := 6, u := true }),
  (0x47, 0, { d := 1, a := 2 }), (0x48, 0, { d := 5, a := 6 }), (0x48, 0, { d := 5, a := 6, x := 1 })] : List (Nat × Nat × OpR)).all
    (fun p => rowMet p.1 p.2.1 p.2.2) = true := by decide


/-! ### Witnesses: control -/

/-- A LAND at 0x2_0000, and a page that may be fetched there. -/
def landState : State :=
  { (s0.modDie 0 fun d => { d with view := d.view.setN 0x10000 (natBytes 8 0x0011E00000000000) }) with
    pages := [{ va := 0x20000, pa := 0x10000, x := true }] }

/-- The same with targets in V1: a LAND, a misaligned address, one that cannot be fetched, and one tagged A. -/
def brxState : State :=
  { landState with teams := [(tk, team0 fun sh => { sh with
      vreg := [(1, { bits := 0x20000 }), (2049, { bits := 0x20004 }), (4097, { bits := 0x90000 }), (6145, { bits := 0x20000, tag := true })] })] }

theorem witness_BranchAndCallResults : ∃ i, brxState.iss? {} = some i ∧ i.aG = [] ∧ 1 < i.sh.w ∧
    (∀ l ∈ i.on, i.poisoned l [1] = false) ∧
    targetVerdict brxState i false (i.sh.v 0 1) (i.sh.strand 0) = none ∧
    targetVerdict brxState i false (i.sh.v 1 1) (i.sh.strand 1) = some 0x506 ∧
    targetVerdict brxState i false (i.sh.v 2 1) (i.sh.strand 2) = some 0x702 ∧
    targetVerdict brxState i false (i.sh.v 3 1) (i.sh.strand 3) = some 0x402 :=
  ⟨_, rfl, by decide, by decide, by decide, by decide, by decide, by decide, by decide⟩

/-- A window of 128 registers in an allotment of 136: a CALL with frame 1 has room. -/
def callState : State := withTeam (team0 fun sh => { sh with
  allot := 136, strands := List.replicate 32 { pc := 0x10000, run := .active } })

theorem witness_BranchAndCallResults_call : ∃ i, callState.iss? {} = some i ∧ i.aG = [] ∧ 8 * 1 ≤ i.sh.w ∧
    i.sh.w + 8 * 1 ≤ i.sh.allot ∧ i.sh.allot ≤ 2048 ∧
    ∀ l ∈ i.on, (i.sh.strand l).depth < 255 ∧ (i.sh.strand l).base + 8 * 1 + i.sh.w ≤ i.sh.allot + (i.sh.strand l).floor :=
  ⟨_, rfl, by decide, by decide, by decide, by decide, by decide⟩

/-- Every lane has called with frame 1: V7 of the caller holds the link. Lane 1 has not called; lane 2's link is tagged. -/
def retState : State := withTeam (team0 fun sh => { sh with
  strands := { pc := 0x10000, run := .active, depth := 1, base := 8 } :: { pc := 0x10000, run := .active } ::
    List.replicate 30 { pc := 0x10000, run := .active, depth := 1, base := 8 }
  vreg := [(7, { bits := 0x0001000000020008 }), (2 * 2048 + 7, { bits := 0x0001000000020008, tag := true })] })

theorem witness_BranchAndCallResults_ret : ∃ i, retState.iss? {} = some i ∧ i.aG = [] ∧
    (∀ l ∈ i.on, (i.sh.strand l).depth ≠ 0 → (i.sh.strand l).floor < (i.sh.strand l).base) ∧ 0 ∈ i.on ∧
    (i.sh.strand 0).floor + 8 * 1 ≤ (i.sh.strand 0).base ∧
    (i.sh.entryVal 0 (((i.sh.strand 0).base - 1) % i.sh.allot)) = { bits := 0x0001000000020008 } :=
  ⟨_, rfl, by decide, by decide, by decide, by decide, by decide⟩

theorem witness_MaskResults : ∃ i, s0.iss? {} = some i ∧ i.aG = [] ∧ i.on ≠ [] := ⟨_, rfl, by decide, by decide⟩

/-- Lanes 0 and 1 wait on M2, which is they. -/
def maskTeam : Team := team0 fun sh => { sh with
  masks := [(2, 3)]
  strands := List.replicate 2 { pc := 0x10008, run := .waiting 2 } ++ List.replicate 30 { pc := 0x10000, run := .active } }

theorem witness_MaskResults_release : (withTeam maskTeam).team? tk = some maskTeam ∧ maskTeam.key = tk ∧
    0 < maskTeam.sheaves.length ∧ (maskTeam.sheaf 0).strands.length = 32 ∧
    (∃ l < 32, ((maskTeam.sheaf 0).mask 2).getLsbD l) ∧
    ∀ l < 32, ((maskTeam.sheaf 0).mask 2).getLsbD l → ((maskTeam.sheaf 0).strand l).run = .waiting 2 := by
  refine ⟨rfl, rfl, by decide, by decide, ⟨0, by decide⟩, by decide⟩

/-- Half of the lanes are vacant, and 5 items are left. -/
def vacantState : State :=
  { withTeam { team0 (fun sh => { sh with strands := List.replicate 16 { pc := 0x10000, run := .active } ++ List.replicate 16 {} }) with
      st := { fetchTeam.st with items := 37 } } with
    launches := [{ n := 1, state := 1, stages := [{ st := { items := 37 }, teams := 1, nextLid := 1, item := 32 }] }] }

theorem witness_StrandCreationAndExit : ∃ i g, vacantState.iss? {} = some i ∧ i.aG = [] ∧ i.on ≠ [] ∧
    i.sh.strands.length = 32 ∧ i.sh.allot ≤ 2048 ∧ 0 < i.sh.allot ∧ i.tm.st.phased = false ∧
    vacantState.stageRun? i.tm.launch i.tm.stage = some g :=
  ⟨_, _, rfl, by decide, by decide, by decide, by decide, by decide, rfl, rfl⟩

theorem witness_ProgramTraps : ∃ i, s0.iss? {} = some i ∧ i.aG = [] ∧ s0.fetchAt i.core i.tm.vdev i.pc.toNat = .unmapped :=
  ⟨_, rfl, by decide, by decide⟩

/-- The page at the batch's address is mapped and may not be executed. -/
def noExecState : State := { s0 with pages := [{ va := 0x10000 }] }

theorem witness_ProgramTraps_notExecutable : ∃ i, noExecState.iss? {} = some i ∧
    noExecState.fetchAt i.core i.tm.vdev i.pc.toNat = .notExecutable := ⟨_, rfl, by decide⟩

/-- A guard tagged A in lane 3. -/
def taggedState : State := withTeam (team0 fun sh => { sh with
  strands := sh.strands.modify 3 fun st => { st with pword := 0x00028002 } })

theorem witness_GuardSinksAndBatchCauses : ∃ i, taggedState.iss? { gp := 1 } = some i ∧ 3 ∈ i.aG ∧ 5 < i.sh.w ∧ i.tm.guarded = none ∧
    rChecks 0x18 0 { rr with a := 127, d := 127 } false none 8 = some 0x508 := ⟨_, rfl, by decide, by decide, rfl, by decide⟩

theorem witness_GuardSinksAndBatchCauses_batch : ∃ r i, integerRow (.iadd {} { rr with bc := .imm 0x1FF, ty := .s8 }) = some r ∧
    s0.iss? r.c = some i ∧ rChecks r.m r.fn r.o r.c.apx none i.sh.w = some 0x108 := ⟨_, _, rfl, rfl, by decide⟩

/-- A trap of lane 0 that waits, in a stage with a trap vector at a LAND. -/
def trapTeam : Team :=
  { team0 (fun sh => { sh with traps := [{ iss := 4, code := 9, causes := [(0, 0xA01, 0)] }] }) with
    st := { fetchTeam.st with trap := some 0 }, code := 0x20000 }

def trapState : State := { landState with teams := [(tk, trapTeam)] }

theorem witness_TrapEntry : ∃ v, trapState.team? tk = some trapTeam ∧ 0 < trapTeam.sheaves.length ∧ (trapTeam.sheaf 0).traps ≠ [] ∧
    (trapTeam.sheaf 0).pend = [] ∧ (trapTeam.sheaf 0).hold = .none ∧ (trapTeam.sheaf 0).tmode = false ∧
    (trapTeam.sheaf 0).strands.length = 32 ∧
    (∀ x ∈ (trapTeam.sheaf 0).faulting, Cause.toService x.2.1 trapTeam.debug = false) ∧
    (∀ r ∈ (trapTeam.sheaf 0).traps, ∀ x ∈ r.causes, x.2.1 ≠ 0xC01) ∧
    trapState.vector? trapTeam = some v ∧ v < 2 ^ 48 :=
  ⟨0x20000, rfl, by decide, by decide, rfl, rfl, rfl, by decide, by decide, by decide, by decide, by decide⟩

/-- The three ways to the service: a double trap, a cause that goes there, no vector. -/
theorem witness_TrapEntry_service :
    let dbl := team0 fun sh => { sh with tmode := true, traps := [{ causes := [(0, 0xA01, 0)] }] }
    let ecc := team0 fun sh => { sh with traps := [{ causes := [(0, 0xC01, 0)] }] }
    let noVector := team0 fun sh => { sh with traps := [{ causes := [(0, 0xA01, 0)] }] }
    ((dbl.sheaf 0).tmode = true ∧ dbl.guarded = none) ∧
    ((ecc.sheaf 0).faulting.find? (fun y => Cause.toService y.2.1 ecc.debug) = some (0, 0xC01, 0)) ∧
    (noVector.sheaf 0).faulting.find? (fun y => Cause.toService y.2.1 noVector.debug) = none ∧
    (withTeam noVector).vector? noVector = none := by decide

/-- A handler of every lane, whose record gives each lane its PC and state. -/
def handlerTeam : Team :=
  { team0 (fun sh => { sh with
      tmode := true, hmask := BitVec.allOnes 32, strands := List.replicate 32 { pc := 0x20000, run := .active, hdepth := 1 } }) with killed := false }

/-- The record of sheaf 0: PC 0x1_0008 for every lane, its state active. -/
def recordTeam : Team :=
  { handlerTeam with larder := ((List.range 32).flatMap fun l =>
      [(handlerTeam.recordAt 0 + 0x80 + 8 * l, 8), (handlerTeam.recordAt 0 + 0x80 + 8 * l + 2, 1)]) ++
    (List.range 32).map fun l => (handlerTeam.recordAt 0 + 0x320 + l, 16) }

theorem witness_TrapReturn : ∃ i, (withTeam recordTeam).iss? {} = some i ∧ i.sh.tmode = true ∧
    (∀ l < 32, l ∈ i.batch) ∧ (∀ l ∈ i.batch, l < 32 ∧ i.sh.hmask.getLsbD l ∧ (i.sh.strand l).run ≠ .vacant) ∧
    ∀ l ∈ i.batch, (i.sh.strand l).depth = 0 ∧ i.tm.recordField i.j (0x80 + 8 * l) 8 < 2 ^ 48 ∧
      i.tm.recordField i.j (0x80 + 8 * l) 8 % 8 = 0 ∧ i.tm.recordField i.j (0x320 + l) 1 / 16 = 1 :=
  ⟨_, rfl, rfl, by decide, by decide, by decide⟩

/-- A handler with DEPTH 1 may not return. -/
theorem witness_TrapReturn_refused : ∃ i, (withTeam (team0 fun sh => { sh with
      tmode := true, hmask := 1, strands := [{ pc := 0x20000, run := .active, depth := 1 }] })).iss? {} = some i ∧
    i.sh.tmode = true ∧ ∃ l ∈ i.batch, l ∈ i.sh.handlers ∧ (i.sh.strand l).depth ≠ 0 := ⟨_, rfl, rfl, 0, by decide, by decide⟩


/-! ### Witnesses: memory -/

/-- Byte and halfword operands at S2 + V1, S3 + V1, S5 + V1, or V1 alone. -/
def mo (base : Option Nat) (ty : Ty) (t : Nat) : OpM := { t := t, base := base, index := some 1, ty := ty }

/-- A cellar region of the launch, mapped at 0x4_0000; S6 holds that address. -/
def cellarState (grade : Nat) : State :=
  { ((withTeam (team0 fun sh => { sh with ureg := sh.ureg ++ [(6, { bits := 0x40000 })] })).modDie 0 fun d =>
      { d with regions := [{ pa := 2 ^ 44, bytes := 65536, va := 0x40000, grade := grade, launch := some 1 }] }) with
    pages := [{ va := 0x20000, pa := 0x10000 }, { va := 0x40000, pa := 2 ^ 44, grade := grade }] }

theorem witness_LoadResults_ldl : ∃ i, s0.iss? {} = some i ∧ memChecks (mo none .n8 5) true true i.sh.w = none ∧
    ∀ l ∈ accessLanes i false, i.addrTag none (some 1) l = false ∧ i.poisoned l (memRegs (mo none .n8 5) false) = false ∧
      i.memAddr (mo none .n8 5) l % 1 = 0 ∧ i.memAddr (mo none .n8 5) l < i.tm.larderSize ∧
      i.tm.larderError (i.memAddr (mo none .n8 5) l) 1 = false := ⟨_, rfl, by decide, by decide⟩

/-- Precise and approximate lines of the stacks. -/
theorem witness_LoadResults_ld : ∃ i, s0.iss? {} = some i ∧ memChecks (mo (some 2) .n8 5) true true i.sh.w = none ∧
    (∀ l ∈ i.on, globalVerdict s0 i false (mo (some 2) .n8 5) l = some (.inr ({ va := 0x20000, pa := 0x10000 }, 0x10001 + l)) ∧
      i.poisoned l (memRegs (mo (some 2) .n8 5) false) = false ∧ s0.poisonAt (0x10001 + l) 1 = false ∧
      s0.preciseCellar (0x10001 + l) = false) ∧
    ∀ l ∈ i.on, globalVerdict s0 i false (mo (some 3) .n8 5) l =
      some (.inr ({ va := 0x30000, pa := 0x20000, grade := 4 }, 0x20001 + l)) := ⟨_, rfl, by decide, by decide, by decide⟩

theorem witness_LoadResults_lds : ∃ i, (cellarState 4).iss? {} = some i ∧ memChecks (mo none .n8 5) true true i.sh.w = none ∧
    ∀ l ∈ i.on, i.addrTag none (some 1) l = false ∧ i.memAddr (mo none .n8 5) l < 201326592 ∧
      (cellarState 4).poisonAt (2 ^ 44 + i.die * 2 ^ 28 + i.memAddr (mo none .n8 5) l) 1 = false ∧
      ∃ g ∈ ((cellarState 4).die 0).regions, (cellarState 4).region? (2 ^ 44 + i.die * 2 ^ 28 + i.memAddr (mo none .n8 5) l) = some g ∧
        g.launch = some i.tm.launch ∧ g.ctx = none ∧ g.grade ≠ 8 := ⟨_, rfl, by decide, by decide⟩

theorem witness_HomeAccesses : ∃ i, (cellarState 8).iss? {} = some i ∧ memChecks (mo (some 6) .n8 1) true true i.sh.w = none ∧
    i.aG = [] ∧ i.on ≠ [] ∧ i.tm.guarded = none ∧ ∀ l ∈ i.on, (cellarState 8).preciseCellar (2 ^ 44 + (l + 1)) = true ∧
      globalVerdict (cellarState 8) i false (mo (some 6) .n8 1) l = some (.inr ({ va := 0x40000, pa := 2 ^ 44 }, 2 ^ 44 + (l + 1))) ∧
      globalVerdict (cellarState 8) i true (mo (some 6) .n8 1) l = some (.inr ({ va := 0x40000, pa := 2 ^ 44 }, 2 ^ 44 + (l + 1))) ∧
      (i.sh.v l 1).tag = false ∧ (cellarState 8).poisonAt (2 ^ 44 + (l + 1)) 1 = false ∧
      i.memAddr (mo none .n8 1) l = l + 1 := ⟨_, rfl, by decide, by decide, by decide, rfl, by decide⟩

theorem witness_StoreEffects : ∃ i, s0.iss? {} = some i ∧ i.aG = [] ∧ i.tm.key = i.t ∧ i.tm.guarded = none ∧
    memChecks (mo (some 2) .n8 1) true true i.sh.w = none ∧
    (∀ l ∈ i.on, globalVerdict s0 i true (mo (some 2) .n8 1) l = some (.inr ({ va := 0x20000, pa := 0x10000 }, 0x10001 + l)) ∧
      i.poisoned l (memRegs (mo (some 2) .n8 1) true) = false ∧ (i.sh.v l 1).tag = false) ∧
    ∀ l ∈ i.on, i.memAddr (mo none .n8 1) l < i.tm.larderSize ∧ i.tm.larderGrade (i.memAddr (mo none .n8 1) l) = 8 :=
  ⟨_, rfl, by decide, rfl, rfl, by decide, by decide, by decide⟩

/-- A guarded team, which may have cleared its instruction or not. -/
def guardedState (cleared : Bool) : State :=
  withTeam { team0 (fun sh => { sh with cleared := cleared }) with guarded := some {} }

theorem witness_StoreEffects_guarded : ∃ i g, (guardedState false).iss? {} = some i ∧ i.tm.guarded = some g ∧ i.tm.key = i.t ∧
    (∀ l ∈ i.on, (guardedState false).isStaged (0x10001 + l) = false) ∧ g.share.length + i.on.length ≤ 16384 :=
  ⟨_, _, rfl, rfl, rfl, by decide, by decide⟩

/-- Odd addresses of halfwords are misaligned, even ones pass; S5 + V1 is not mapped. -/
theorem witness_AccessCheckOrder : ∃ i, s0.iss? {} = some i ∧ i.aG = [] ∧ memChecks (mo (some 2) .n16 1) true true i.sh.w = none ∧
    i.tm.guarded = none ∧ i.sh.strands.length = 32 ∧ (∀ l ∈ i.on, i.poisoned l (memRegs (mo (some 2) .n16 1) true) = false) ∧
    globalVerdict s0 i false (mo (some 2) .n16 1) 0 = some (.inl 0x701) ∧
    (globalVerdict s0 i false (mo (some 2) .n16 1) 1).isSome ∧ globalVerdict s0 i true (mo (some 5) .n8 1) 0 = none :=
  ⟨_, rfl, by decide, by decide, rfl, by decide, by decide, by decide, by decide, by decide⟩

theorem witness_FencesAndStorePerformance : ∃ i, s0.iss? {} = some i ∧
    memChecks { base := some 2, index := some 1 } false false i.sh.w = none ∧ (∀ l ∈ i.on, i.addrTag (some 2) (some 1) l = false) ∧
    i.tm.guarded = none ∧ s0.access i.core i.tm.vdev none true false false 1 0x20001 = .ok { va := 0x20000, pa := 0x10000 } 0x10001 ∧
    s0.poisonAt (lineOf 0x10001) 128 = false := ⟨_, rfl, by decide, by decide, rfl, by decide, by decide⟩

/-- Two stores of one lane to overlapping bytes. -/
theorem witness_FencesAndStorePerformance_overlap :
    let x : Nat × Write := (0, { pa := 8, bytes := [1, 2], sheaf := 16, lanes := 1 })
    let y : Nat × Write := (0, { pa := 9, bytes := [3], sheaf := 16, lanes := 3 })
    let s := { s0 with stores := [x, y] }
    s.stores[1]? = some y ∧ s.stores[0]? = some x ∧ x.2.sheaf = y.2.sheaf ∧ x.2.lanes &&& y.2.lanes ≠ 0 ∧ y.2.bytes ≠ [] ∧
    x.2.pa < y.2.pa + y.2.size ∧ y.2.pa < x.2.pa + x.2.size := by decide

/-- A fence's mark of lane 0 behind an atomic of the lane that its home has not served, and one behind a WLD of the sheaf. -/
theorem witness_FencesAndStorePerformance_marks :
    let x : Nat × Write := (0, { sheaf := tk * 16, lanes := 1, iss := 4, rel := true })
    let s := s0.modCluster 3 fun c => { c with queue := [{ kind := .atomic, src := .lane tk 0 0 3, seq := 3 }] }
    let u := withTeam { team0 id with matrix := { queue := [{ seq := 3 }] } }
    ({ s with stores := [x] } : State).stores[0]? = some x ∧ x.2.isMark = true ∧ s.atomicsOf x.2.sheaf x.2.lanes x.2.iss ≠ [] ∧
    u.entriesOf x.2.sheaf x.2.iss ≠ [] := by decide

/-! ### Witnesses: the core -/

/-- A stage with a second role of 136 registers; `q` is the core's queue. -/
def roleState (q : List (Nat × Nat × Nat)) : State :=
  (withTeam { team0 id with st := { fetchTeam.st with roles := [{ k := 0, regs := 128 }, { k := 1, regs := 136 }] } }).modCore 0
    fun c => { c with borrow := q }

/-- The growth is granted at once, or queues behind another request. -/
theorem witness_RoleResults : ∃ i, (roleState []).iss? {} = some i ∧ i.tm.st.role? 1 = some { k := 1, regs := 136 } ∧
    i.on.length = 32 ∧ i.sh.strands.length = 32 ∧
    (∀ l ∈ i.batch, (i.sh.strand l).depth = 0 ∧ (i.sh.strand l).base = 0 ∧ (i.sh.strand l).floor = 0) ∧
    i.tm.copies * ((136 - i.sh.allot) / 8) = 1 ∧ i.tm.reservation - i.tm.held = 0 ∧
    ((roleState []).core i.core).borrow = [] ∧ 1 ≤ (roleState []).freePool i.core ∧
    ((roleState [(0, 0, 0)]).core 0).borrow ≠ [] :=
  ⟨_, rfl, by decide, by decide, by decide, by decide, by decide, by decide, by decide, by decide, by decide⟩

/-- A guard that is true in no lane. -/
theorem witness_RoleResults_guard : ∃ i, s0.iss? { gn := true } = some i ∧ guardNowhere i := by
  refine ⟨_, rfl, ?_⟩
  unfold guardNowhere
  decide

theorem witness_RoleResults_grant : let s := roleState [(tk, 0, 1)]
    ∃ tm, (s.core 0).borrow = (tk, 0, 1) :: [] ∧ s.team? tk = some tm ∧ tm.st.role? 1 = some { k := 1, regs := 136 } ∧
      0 < tm.sheaves.length ∧ tm.toBorrow 0 { k := 1, regs := 136 } ≤ s.freePool 0 :=
  ⟨_, rfl, rfl, rfl, by decide, by decide⟩

/-- Every lane waits to grow. -/
def growTeam : Team := team0 fun sh => { sh with strands := List.replicate 32 { run := .parked 3, park := .growth } }

theorem witness_RoleResults_deadlock : (withTeam growTeam).team? tk = some growTeam ∧
    (∃ sh ∈ growTeam.sheaves, sh.finished = false) ∧
    ∀ sh ∈ growTeam.sheaves, sh.finished = false → ∀ l < 32, (sh.strand l).run = .parked 3 := by
  refine ⟨rfl, ⟨_, List.mem_singleton.mpr rfl, rfl⟩, by decide⟩

/-- S4 is the mask of sheaf 0 alone; S2 is no mask of sixteen bits. -/
theorem witness_BarrierResults : ∃ i, s0.iss? {} = some i ∧ (i.sh.u 4).bits.toNat < 65536 ∧
    (i.sh.u 4).bits.toNat.testBit i.j ∧ 65536 ≤ (i.sh.u 2).bits.toNat := ⟨_, rfl, by decide, by decide, by decide⟩

def barTeam : Team := team0 fun sh => { sh with strands := List.replicate 32 { run := .parked 2, park := .barrier none } }

theorem witness_BarrierResults_complete : (withTeam barTeam).team? tk = some barTeam ∧ barTeam.guarded = none ∧
    (∀ sh ∈ barTeam.sheaves, sh.strands.length = 32) ∧ (barTeam.sheaf 0).finished = false ∧
    ((barTeam.sheaf 0).strand 0).run ≠ .vacant ∧
    ∀ l < 32, ((barTeam.sheaf 0).strand l).run = .parked 2 ∧ ((barTeam.sheaf 0).strand l).park = .barrier none := by
  refine ⟨rfl, rfl, by decide, rfl, by decide, by decide⟩

/-- SREAD of lid.sheaf, PLEVEL and SETGRADE of S4 and of S2, which is in no range; a phased team. -/
theorem witness_StatusReadsAndRequests : ∃ i k, s0.iss? {} = some i ∧ (5 : Nat) < i.sh.w ∧ i.tm.priv = true ∧ i.tm.st.phased = false ∧
    (i.sh.u 4).bits.toNat ≤ 6 ∧ (i.sh.u 4).tag = false ∧ i.aG = [] ∧ i.on ≠ [] ∧ 8 < (i.sh.u 2).bits.toNat ∧
    (withTeam { team0 id with st := { fetchTeam.st with phased := true } }).iss? {} = some k ∧ k.tm.st.phased = true ∧ k.on ≠ [] :=
  ⟨_, _, rfl, by decide, rfl, rfl, by decide, by decide, by decide, by decide, by decide, rfl, rfl, by decide⟩

/-- A load that has returned to lane 0. -/
def loadedTeam : Team := team0 fun sh => { sh with pend := [{ seq := 7, writes := [.v 0 5 allOnes 3 (some false)] }] }

theorem witness_TimingAndAging : ∃ p, (withTeam loadedTeam).team? tk = some loadedTeam ∧ 0 < loadedTeam.sheaves.length ∧
    (loadedTeam.sheaf 0).pend.find? (fun x => x.seq == 7 && x.due.isNone && x.ready && x.waits == 0) = some p ∧ p.slotOf = 0 :=
  ⟨_, rfl, by decide, rfl, rfl⟩

def agedTeam : Team := team0 fun sh => { sh with readyV := 4096 }

theorem witness_TimingAndAging_aged : (tk, agedTeam) ∈ (withTeam agedTeam).teams ∧ agedTeam.key = tk ∧ agedTeam.core = 0 ∧
    0 < agedTeam.sheaves.length ∧ 4096 ≤ (agedTeam.sheaf 0).readyV ∧
    ∀ e ∈ (withTeam agedTeam).teams, e.2.core = 0 → ∀ k < e.2.sheaves.length, (e.2.key, k) ≠ (tk, 0) →
      4096 ≤ (e.2.sheaf k).readyV → (agedTeam.sheaf 0).slot < (e.2.sheaf k).slot := by
  refine ⟨List.mem_singleton.mpr rfl, rfl, rfl, by decide, by decide, by decide⟩

/-- A guarded team whose sheaf holds before an atomic. -/
def commitTeam : Team := { team0 (fun sh => { sh with hold := .commit }) with guarded := some {} }

theorem witness_TimingAndAging_commit : ∃ g, (withTeam commitTeam).team? tk = some commitTeam ∧ commitTeam.key = tk ∧
    commitTeam.guarded = some g ∧ g.backed = true ∧ g.mismatch = none ∧ commitTeam.preempt = .none ∧
    commitTeam.mayCommit = true ∧ commitTeam.st.mode ≠ 2 ∧ (∃ sh ∈ commitTeam.sheaves, sh.hold = .commit) ∧ g.share = [] ∧
    ∀ sh ∈ commitTeam.sheaves, sh.traps = [] ∧ sh.pend = [] ∧ sh.hold = .commit ∧
      ∀ l < 32, isParked (sh.strand l).run = false := by
  refine ⟨_, rfl, rfl, rfl, rfl, rfl, rfl, by decide, by decide, ⟨_, List.mem_singleton.mpr rfl, rfl⟩, rfl, by decide⟩


/-! ### Witnesses: the matrix array -/

/-- A team with two bins and a queue. -/
def matrixTeam (q : List SeqEntry) (f : Sheaf → Sheaf) : Team :=
  { team0 f with st := { fetchTeam.st with bins := 2 }, matrix := { queue := q, nextId := 5 } }

theorem witness_SequencerIssueAndBegin : ∃ i, (withTeam (matrixTeam [] id)).iss? {} = some i ∧ i.on.length = 32 ∧
    i.matrixCause (withTeam (matrixTeam [] id)) .zclr { z := 1 } = none ∧
    i.matrixCause (withTeam (matrixTeam [] id)) .zclr { z := 2 } = some (0x108, 0) ∧
    matrixRow (.zclr {} { z := 1 }) = some (.zclr, {}, { z := 1 }) := ⟨_, rfl, by decide, by decide, by decide, rfl⟩

/-- S10 is the larder's start, S11 a descriptor of one record with stride 512, S13 the same at the head of a chain of two; latch 1's
issued format is FP32's. -/
def readyTeam : Team :=
  let tm := matrixTeam [] fun sh => { sh with
    ureg := [(10, {}), (11, { bits := 0x00040001 }), (13, { bits := 0x0007002000040001 })] }
  { tm with matrix := { nextId := 5, issued1 := (5, false) } }

def qo : OpQ := { z := 1, sA := 10, sN := 11, latch := 1, ty := .f32, x := 1 }

theorem witness_SequencerIssueAndBegin_ready : ∃ i, (withTeam readyTeam).iss? {} = some i ∧ i.on.length = 32 ∧
    (∀ op ∈ [SeqOp.wld, .wswp, .mma, .zclr, .zrd, .zwr, .rdc, .scan], MatrixReady (withTeam readyTeam) i op qo) ∧
    MatrixReady (withTeam readyTeam) i .chain { qo with sN := 13 } := by
  refine ⟨_, rfl, by decide, fun op h => ?_, ?_⟩
  · fin_cases h <;> constructor <;> decide
  · constructor <;> decide

/-- An RDC behind a WLD of its latch may not begin; the WLD may. -/
def queueTeam : Team := matrixTeam [{ id := 0, op := .wld }, { id := 1, op := .rdc }] id

theorem witness_SequencerIssueAndBegin_begin : ∃ e f, (withTeam queueTeam).team? tk = some queueTeam ∧
    queueTeam.matrix.entry? 0 = some e ∧ e.op ≠ .chain ∧ mayBegin queueTeam e ∧ queueTeam.matrix.entry? 1 = some f ∧
    ¬ mayBegin queueTeam f := by
  refine ⟨_, _, rfl, rfl, by decide, ?_, rfl, ?_⟩ <;> unfold mayBegin <;> decide

/-- A started entry alone in the queue, with its result outstanding; its rows are one record of 256 bytes. -/
def finishTeam (e : SeqEntry) : Team :=
  matrixTeam [{ e with id := 0, seq := 3, started := true, desc := 0x00020001 }] fun sh => { sh with
    pend := [{ seq := 3, ready := false, writes := if e.op = .zrd then (List.range 32).map fun l => Wr.f l 0 0 else [] }] }

theorem witness_LatchAndArrayEntries : ∃ e, (withTeam (finishTeam { op := .zclr })).team? tk = some (finishTeam { op := .zclr }) ∧
    (finishTeam { op := .zclr }).matrix.entry? 0 = some e ∧
    Runs (withTeam (finishTeam { op := .zclr })) tk (finishTeam { op := .zclr }) e ∧ e.op = .zclr ∧
    (withTeam (finishTeam { op := .zclr })).entryError (finishTeam { op := .zclr }) (finishTeam { op := .zclr }) e e.addr e.desc e.rows = none ∧
    (∀ q ∈ (finishTeam { op := .zclr }).matrix.queue, q.id = 0 → q = e) ∧
    ∀ p ∈ ((finishTeam { op := .zclr }).sheaf e.sheaf).pend, p.seq = e.seq → p = { seq := e.seq, ready := false } :=
  ⟨_, rfl, rfl, ⟨rfl, by decide, by decide, nofun⟩, rfl, by decide, by decide, by decide⟩

theorem witness_LatchAndArrayEntries_mma : let tm := finishTeam { op := .mma, ty := .f32 }
    ∃ e, (withTeam tm).team? tk = some tm ∧ tm.matrix.entry? 0 = some e ∧ Runs (withTeam tm) tk tm e ∧ e.op = .mma ∧ e.apx = false ∧
    tm.rowsApprox e.addr e.desc = false ∧ (∀ q ∈ tm.matrix.queue, q.id = 0 → q = e) ∧ descFirst e.desc + descRows e.desc ≤ 64 ∧
    (∀ p ∈ (tm.sheaf e.sheaf).pend, p.seq = e.seq → p = { seq := e.seq, ready := false }) ∧ e.ty = .f32 ∧
    (withTeam tm).entryError tm tm e e.addr e.desc e.rows = none := ⟨_, rfl, rfl, ⟨rfl, by decide, by decide, nofun⟩, rfl, rfl, by decide, by decide, by decide, by decide, rfl, by decide⟩

/-- Of 17 rows, 16 come before the interruption point. -/
theorem witness_LatchAndArrayEntries_interruption : ((0 : Nat) / 16 + 1) * 16 < descRows 0x00020011 ∧
    descFirst 0x00020011 + descRows 0x00020011 ≤ 64 := by decide

theorem witness_TransfersAndChains : ∀ op ∈ [SeqOp.zrd, .zwr], let tm := finishTeam { op := op, ty := .f32 }
    (withTeam tm).team? tk = some tm ∧ ∃ e ∈ tm.matrix.queue, tm.matrix.entry? 0 = some e ∧ e.op = op ∧ (e.started = true ∧ tm.entryHeld e = false ∧
      (withTeam tm).chainOf (clusterOfCore tm.core) tk e.id = none) ∧ e.step = 0 ∧
    (withTeam tm).entryError tm tm e e.addr e.desc e.rows = none ∧ tm.rowsApprox e.addr e.desc = false ∧ tm.guarded = none ∧ tm.st.mode ≠ 2 ∧
    (∀ q ∈ tm.matrix.queue, q.id = 0 → q = e) ∧ descFirst e.desc + descRows e.desc ≤ 64 ∧ e.flags = 0 ∧
    (∀ p ∈ (tm.sheaf e.sheaf).pend, p.seq = e.seq →
      p = { seq := e.seq, ready := false, writes := if e.op = .zrd then (List.range 32).map fun l => Wr.f l 0 0 else [] }) ∧
    recordSize e.ty (e.x % 2 = 1) ≤ 128 * descStride e.desc := by decide

/-- Two teams at the two members of a chain of length 2 with key 7: POS 0 of the first, POS 1 of the second. -/
def chainTeam (n pos : Nat) : Team :=
  { matrixTeam [{ id := 0, op := .chain, desc := BitVec.ofNat 64 (7 * 2 ^ 48 + pos * 2 ^ 40 + 2 * 2 ^ 36 + 0x00020001) }]
      (fun sh => { sh with hold := .chain }) with key := tk + n, lid := n }

def chainState (g : List ChainGroup) : State :=
  { withTeam (chainTeam 0 0) with teams := [(tk, chainTeam 0 0), (tk + 1, chainTeam 1 1)] }.modCluster 0
    fun c => { c with chains := g }

def group1 : ChainGroup := { launch := 1, key := 7, len := 2, rows := 1, ty := .f32, since := 0, members := [(0, tk, 0)] }

theorem witness_TransfersAndChains_first : ∃ e, (chainState []).team? tk = some (chainTeam 0 0) ∧
    (chainTeam 0 0).matrix.entry? 0 = some e ∧ e.op = .chain ∧ mayBegin (chainTeam 0 0) e ∧ e.formed = false ∧ e.id = 0 ∧
    ((chainState []).cluster 0).chains = [] := by
  refine ⟨_, rfl, rfl, rfl, ?_, rfl, rfl, rfl⟩; unfold mayBegin; decide

theorem witness_TransfersAndChains_last : ∃ e e0, (chainState [group1]).team? (tk + 1) = some (chainTeam 1 1) ∧
    (chainTeam 1 1).matrix.entry? 0 = some e ∧ (chainState [group1]).team? tk = some (chainTeam 0 0) ∧
    (chainTeam 0 0).matrix.entry? 0 = some e0 ∧ tk ≠ tk + 1 ∧
    ((chainState [group1]).cluster ((chainTeam 1 1).core / 8)).chains = [{
      launch := (chainTeam 1 1).launch, key := e.desc.toNat / 2 ^ 48, len := 2, rows := descRows e.desc, ty := e.ty, since := 0, core := 0, resumed := false,
      members := [(0, tk, 0)] }] ∧ ((chainState [group1]).core 0).cycle < 0 + 65536 ∧
    mayBegin (chainTeam 1 1) e ∧ e.desc.toNat / 2 ^ 40 % 8 = 1 ∧ e.desc.toNat / 2 ^ 36 % 16 = 2 ∧
    ((chainTeam 0 0).sheaf 0).hold = .chain := by
  refine ⟨_, _, rfl, rfl, rfl, rfl, by decide, by decide, by decide, ?_, by decide, by decide, rfl⟩; unfold mayBegin; decide

/-- The first member has waited for 65,536 cycles, or has not. -/
theorem witness_TransfersAndChains_timeout : ∃ e, (chainTeam 0 0).matrix.entry? 0 = some e ∧ group1.formed = false ∧ group1.resumed = false ∧
    group1.members = [(chainPos e.desc, tk, 0)] ∧ ((chainTeam 0 0).sheaf e.sheaf).finished = false ∧
    ((chainTeam 0 0).sheaf e.sheaf).traps = [] ∧
    (((chainState [group1]).modCore 0 fun c => { c with cycle := 65536 }).core 0).cycle = group1.since + 65536 ∧
    ((chainState [group1]).core 0).cycle < group1.since + 65536 := ⟨_, rfl, rfl, rfl, by decide, rfl, rfl, by decide, by decide⟩

/-! ### Witnesses: engines -/

/-- S16 to S19 describe a copy of 8 bytes within the larder, S9 holds a completion object's address, S20 a ticket. -/
def jobTeam (js : List Job) : Team :=
  { team0 (fun sh => { sh with ureg :=
      [(2, { bits := 0x20000 }), (4, { bits := 1 }), (9, { bits := 0x20000 }), (16, {}), (17, { bits := 64 }), (18, { bits := 8 }),
       (19, { bits := 17 }), (20, { bits := 1 })] }) with jobs := js, nextSeq := 2 }

theorem witness_JobIssueAndWaits : ∃ i, (withTeam (jobTeam [])).iss? {} = some i ∧ i.aG = [] ∧ i.on ≠ [] ∧ i.tm.key = i.t ∧
    i.tm.guarded = none ∧ (∀ y ∈ i.tm.jobs, y.seq < i.tm.nextSeq) ∧
    i.jobCause (withTeam (jobTeam [])) .cpy { sd := 16, st := 20, sn := true } = none ∧
    i.jobCause (withTeam (jobTeam [])) .cpy { sd := 16, st := 20, so := 9 } = none ∧
    (withTeam (jobTeam [])).access i.core i.tm.vdev (i.sh.strand (i.on.headD 0)).refused false false false 1 (i.sh.u 9).bits.toNat =
      .ok { va := 0x20000, pa := 0x10000 } 0x10000 ∧
    i.jobCause (withTeam (jobTeam [])) .cpy { sd := 2, st := 20, sn := true } = some 0x911 :=
  ⟨_, rfl, by decide, by decide, rfl, rfl, by decide, by decide, by decide, by decide, by decide⟩

/-- The ticket's job is complete, has failed, or runs at write pointer 8; S2's ticket is of no job. -/
theorem witness_JobIssueAndWaits_waits : ∀ k ∈ [1, 2, 3], ∃ i ∈ ((withTeam (jobTeam [{ seq := 1, state := k, wp := 8 }])).iss? {}).toList,
    i.on ≠ [] ∧ (i.sh.u 20).tag = false ∧ i.tm.jobOfTicket (i.sh.u 20).bits = some { seq := 1, state := k, wp := 8 } ∧
    i.tm.jobOfTicket (i.sh.u 2).bits = none ∧ (i.sh.u 4).bits.toNat ≤ 8 := by decide

/-- A job that waits, and the same job running. -/
def copyJob (state wp : Nat) : Job := { seq := 1, state := state, wp := wp, d1 := 64, d2 := 8, d3 := 17 }

theorem witness_JobProgress : ∀ k ∈ [0, 1], let tm := jobTeam [copyJob k 0]
    (withTeam tm).team? tk = some tm ∧ tm.key = tk ∧ tm.job? 1 = some (copyJob k 0) ∧
    (∀ i ∈ tm.jobs, i.state < 2 → ¬ i.seq < (copyJob k 0).seq) ∧ tm.matrix.queue = [] := by decide

theorem witness_JobProgress_moves : let j := copyJob 1 0
    let tm := jobTeam [j]
    j.kind = .cpy ∧ j.moves = true ∧ (withTeam tm).unitFree tm j = true ∧ j.acked = false ∧ j.wp < j.size ∧ tm.preempt = .none ∧ tm.guarded = none ∧ j.source = none ∧ j.ssp = 1 ∧
    j.dsp = 1 ∧ tm.larderGrade (j.src + j.wp) = 8 ∧ tm.larderGrade (j.dst + j.wp) = 8 ∧ tm.larderError (j.src + j.wp) 8 = false ∧
    (withTeam (jobTeam [copyJob 1 8])).unitFree (jobTeam [copyJob 1 8]) (copyJob 1 8) = true ∧
    (copyJob 1 8).moves = true ∧ (copyJob 1 8).size ≤ (copyJob 1 8).wp ∧ (copyJob 1 8).so = none := by decide

/-- A home's line at 2^44 of cluster 8, an object of a class and state, and the request at the head of its queue. -/
def homeState (tm : Team) (m : Meta) (r : Req) : State :=
  (((withTeam tm).modDie 0 fun d => { d with
      regions := [{ pa := 2 ^ 44, bytes := 65536, va := 0x40000, launch := some 1 }], metas := [(2 ^ 44, m)] }).modCluster 8
    fun c => { c with queue := [r] })

/-- A job whose registration is at its home. -/
def waitTeam : Team :=
  { team0 (fun sh => { sh with hold := .home [7] }) with
    jobWait := [{ id := 7, job := copyJob 0 0, batch := BitVec.allOnes 32, on := BitVec.allOnes 32, so := 0x40000 }] }

def registration : Req := { id := 7, kind := .registration, src := .lane tk 0 0 0, pa := 2 ^ 44, va := 0x40000 }

theorem witness_CompletionObjects : ∀ o ∈ [({ stg := true, cls := 2, state := 1 } : Meta), {}],
    let s := homeState waitTeam o registration
    (s.cluster 8).halted = false ∧ (s.cluster 8).queue = [registration] ∧ s.team? tk = some waitTeam ∧ waitTeam.key = tk ∧
    (∃ w ∈ waitTeam.jobWait, waitTeam.jobWait = [w] ∧ w.id = registration.id ∧ w.j = 0 ∧ w.job.size ≠ 0) ∧
    (waitTeam.sheaf 0).hold = .home [registration.id] ∧ (∀ y ∈ waitTeam.jobs, y.seq < waitTeam.nextSeq) ∧
    s.parked (lineOf registration.pa) = [] ∧ s.metaOf registration.pa = o ∧ s.preciseCellar registration.pa = true ∧
    s.lineBad registration.pa = false := by decide

/-- The arrival of job 1 at an object whose class admits it, and at one whose class does not. -/
def arrival : Req := { id := 9, kind := .arrival, src := .job tk 1, pa := 2 ^ 44, va := 0x40000 }

theorem witness_CompletionObjects_arrival : ∀ x ∈ [(0, Verdict.fault), (1, .done 0x8500)],
    let s := homeState (jobTeam [copyJob 2 8]) { stg := true, cls := 2, state := x.1, pend := 1 } arrival
    (s.cluster (homeOf arrival.pa)).halted = false ∧ (s.cluster (homeOf arrival.pa)).queue = [arrival] ∧
    (s.die (ownerOf arrival.pa)).inbox = [] ∧ s.judge arrival = x.2 ∧ s.lineBad arrival.pa = false ∧ eRet 0x8500 = false ∧
    s.parked (lineOf arrival.pa) = [] ∧ (s.cluster (homeOf arrival.pa)).overflow = [] ∧ (s.metaOf arrival.pa).pend = 1 := by decide

/-! ### Witnesses: atomics and staged objects -/

/-- An operand at S2 + V1 for bytes would not be aligned: the lanes' index V6 is zero. -/
def xo (ty : Ty) : OpX := { d := 5, base := some 2, index := some 6, e := 1, ty := ty }

theorem witness_AtomicIssue : ∃ i, s0.iss? {} = some i ∧ i.aG = [] ∧ i.on ≠ [] ∧
    (∀ l ∈ i.on, passes s0 i (xo .n32) true true 4 l ({ va := 0x20000, pa := 0x10000 }, 0x10000) ∧
      s0.preciseCellar 0x10000 = false) ∧ s0.sending = [] ∧ s0.atomicsOf (i.t * 16 + i.j) (BitVec.allOnes 32) i.seq = [] ∧
    s0.stores = [] ∧ i.tm.guarded = none ∧ i.tm.st.phased = false ∧
    (∀ fn ∈ [0, 7], xRange (xo .n32) true true (fn == 7) i.sh.w = none ∧ ∀ l ∈ i.on,
      i.poisoned l (xReads (xo .n32) true (fn == 7)) = false ∧ (i.sh.v l 1).tag = false ∧ (i.sh.v l 0).tag = false) ∧
    xRange (xo .n32) false true false i.sh.w = none ∧ s0.poisonAt 0x10000 4 = false := by
  refine ⟨_, rfl, by decide, by decide, ?_, rfl, by decide, rfl, rfl, rfl, by decide, by decide, by decide⟩
  unfold passes; decide

/-- In a phased launch AFADD too contributes. -/
theorem witness_AtomicIssue_phased :
    let s := withTeam { team0 id with st := { fetchTeam.st with phased := true } }
    ∃ i, s.iss? {} = some i ∧ i.tm.st.phased = true ∧ xRange (xo .f32) true true false i.sh.w = none ∧
    ∀ l ∈ i.on, passes s i (xo .f32) true true 4 l ({ va := 0x20000, pa := 0x10000 }, 0x10000) := by
  refine ⟨_, rfl, rfl, by decide, ?_⟩
  unfold passes; decide

theorem witness_AtomicIssue_guarded : ∃ i, (guardedState false).iss? {} = some i ∧ i.tm.guarded ≠ none ∧ i.sh.cleared = false ∧
    ∀ l ∈ i.on, passes (guardedState false) i (xo .n32) true true 4 l ({ va := 0x20000, pa := 0x10000 }, 0x10000) := by
  refine ⟨_, rfl, by decide, rfl, ?_⟩
  unfold passes; decide

/-- An AADD of lane 0 at the home of a plain line. -/
def atomicReq : Req := { id := 7, kind := .atomic, src := .lane tk 0 0 3, seq := 3, pa := 0x10000, va := 0x20000, ty := .n32, e := 5, dst := .v 0 }

def atomicTeam : Team := team0 fun sh => { sh with pend := [{ seq := 3, waits := 1, slotOf := 1 }] }

theorem witness_AtomicService : let s := (withTeam atomicTeam).modCluster (homeOf 0x10000) fun c => { c with queue := [atomicReq] }
    (s.cluster (homeOf 0x10000)).halted = false ∧ (s.cluster (homeOf 0x10000)).queue = [atomicReq] ∧ s.judge atomicReq = .plain ∧
    atomicReq.fn ≤ 7 ∧ atomicReq.ty.float = false ∧ 32 ≤ atomicReq.ty.width ∧ s.poisonAt 0x10000 4 = false ∧
    s.team? tk = some atomicTeam ∧ (atomicTeam.sheaf 0).hold = .none ∧
    (∃ p ∈ (atomicTeam.sheaf 0).pend, (atomicTeam.sheaf 0).pend = [p] ∧ p.seq = 3 ∧ p.slotOf.getLsbD 0 = true) ∧
    (s.die (ownerOf 0x10000)).inbox = [] ∧ (s.cluster (homeOf 0x10000)).overflow = [] := by decide

theorem witness_AtomicService_flush : let s := { s0 with launches := [{ n := 1, state := 1 }] }
    ∃ i n, s.iss? {} = some i ∧ i.on ≠ [] ∧ i.tm.guarded = none ∧ s.launch? i.tm.launch = some n ∧
      ∀ k, ∀ x ∈ (s.cluster k).reorder, x.bad = false :=
  ⟨_, _, rfl, by decide, rfl, rfl, fun k x h => by simp [State.cluster, s0, withTeam, State.reset, SMap.val, SMap.find] at h⟩

/-- LDT and STT with transition 1, XTR with 1 and with 14; the last form's value is that of V6, which is zero. -/
theorem witness_StagedIssue : ∃ i, s0.iss? {} = some i ∧ i.aG = [] ∧ i.on ≠ [] ∧ i.tm.guarded = none ∧
    ∀ x ∈ [(ReqKind.ldt, 1, 8, false), (.stt, 1, 8, true), (.xtr, 1, 128, false), (.xtr, 14, 128, true)],
      let o : OpX := { xo .n64 with e := 6, g := x.2.1 }
      xRange o (x.1 != .stt) x.2.2.2 false i.sh.w = none ∧
      ∀ l ∈ i.on, i.poisoned l (xReads o x.2.2.2 false) = false ∧
        passes s0 i o (x.1 != .stt) (x.1 != .ldt) x.2.2.1 l ({ va := 0x20000, pa := 0x10000 }, 0x10000) ∧
        (i.sh.v l o.e).tag = false ∧ (i.sh.v l o.e).bits.toNat < 2 ^ 22 := by
  refine ⟨_, rfl, by decide, by decide, rfl, ?_⟩
  unfold passes; decide

/-- S12 names class 4; S2 a page whose zeros are a good image; the partition of cluster 0 has room for a class on die 0. -/
def stblState : State :=
  let tm := team0 fun sh => { sh with ureg := [(2, { bits := 0x20000 }), (12, { bits := 4 })] }
  { (withTeam tm).modCluster 0 (fun c => { c with part := some 0 }) with
    service := { parts := [{ clusters := [0], shares := [(0, 1)] }] } }

set_option maxRecDepth 8000 in
theorem witness_StagedIssue_stbl : ∃ i, stblState.iss? {} = some i ∧ (i.sh.u 2).tag = false ∧ (i.sh.u 12).tag = false ∧
    (i.sh.u 12).bits.toNat = 4 ∧ (∀ n < 4, stblState.access i.core i.tm.vdev (i.sh.strand (i.on.headD 0)).refused true false false 128
      ((i.sh.u 2).bits.toNat + 128 * n) = .ok { va := 0x20000, pa := 0x10000 } (0x10000 + 128 * n) ∧
      stblState.poisonAt (0x10000 + 128 * n) 128 = false) ∧
    imageBad (imageOf ((List.range 4).flatMap fun n => (List.range 128).map fun x =>
      stblState.byteAt i.die (stblState.ownWrites i.tm i.j (maskOf i.on)) (0x10000 + 128 * n + x))) = false ∧
    stblState.partDies i.tm.part = [0] ∧ stblState.classImage 0 i.tm.part 4 = none ∧
    (stblState.die 0).tablesOf i.tm.part < stblState.shareOf i.tm.part 0 :=
  ⟨_, rfl, rfl, rfl, by decide, by decide, by decide, by decide, by decide, by decide⟩

/-- An LDT with transition 1 of lane 0, which is parked for it. -/
def stagedReq : Req := { id := 7, kind := .ldt, src := .lane tk 0 0 3, seq := 3, pa := 2 ^ 44, va := 0x40000, trans := 1, dst := .v 0 }

def parkedTeam : Team := team0 fun sh => { sh with
  strands := sh.strands.modify 0 fun st => { st with run := .parked 0, park := .request 7 } }

/-- The class performs it in state 1, parks it in state 0, and refuses transition 3. -/
theorem witness_StagedService : ∀ x ∈ [(1, 1, Verdict.done 0x8580), (0, 1, .park), (0, 3, .fault)],
    let r := { stagedReq with trans := x.2.1 }
    let s := homeState parkedTeam { stg := true, cls := 2, state := x.1 } r
    (s.cluster 8).halted = false ∧ (s.cluster 8).queue = [r] ∧ homeOf r.pa = 8 ∧ s.team? tk = some parkedTeam ∧
    ((parkedTeam.sheaf 0).strand 0).run = .parked 0 ∧ ((parkedTeam.sheaf 0).strand 0).park = .request r.id ∧
    (s.die (ownerOf r.pa)).inbox = [] ∧ s.parked (lineOf r.pa) = [] ∧ (s.cluster 8).overflow = [] ∧ s.judge r = x.2.2 ∧
    s.lineBad r.pa = false ∧ s.parkedCount 8 < 4096 ∧ (s.die r.die).inbox = [] := by decide

def withdrawTeam : Team := { parkedTeam with preempt := .decided 0 0 0 (0, 0, 0) }

theorem witness_StagedService_withdrawal : let s := withTeam withdrawTeam
    s.team? tk = some withdrawTeam ∧ withdrawTeam.deciding = true ∧ ((withdrawTeam.sheaf 0).strand 0).run = .parked 0 ∧
    ((withdrawTeam.sheaf 0).strand 0).park = .request 7 ∧ s.remoteTag 7 = none ∧
    ∀ e ∈ s.clusters, ∀ r ∈ e.2.queue, r.id ≠ 7 := by decide


/-! ### Witnesses: the combine buffer -/

/-- The worked configuration of the spec: context 1, .bf16 contributions, POOL 2, d = 64. -/
def cw : Word := 0x10A9000200000040

/-- S44 and S45 of a CCFG, V1 of lane l the handle of slot l of context 1, V7 a position. -/
def combineTeam : Team :=
  { team0 (fun sh => { sh with
      ureg := [(44, { bits := 0x40000 }), (45, { bits := cw })]
      vreg := (List.range 32).map fun l => (l * 2048 + 1, { bits := BitVec.ofNat 64 (0x3FFF * 2 ^ 50 + 2 ^ 32 + 2 ^ 24 + l) }) }) with
    larder := [(0x14, 1)] }

def combineState (c : List (Nat × Ctx)) (tm : Team) : State :=
  (withTeam tm).modDie 0 fun d => { d with
    regions := [{ pa := 2 ^ 44, bytes := 1048576, va := 0x40000, launch := some 1 }], ctxs := c }

/-- A context whose first 32 slots are allocated. -/
def ctx1 (z : CSlot) : Ctx :=
  { launch := 1, cfg := cw, region := 0x40000, regionPa := 2 ^ 44, s := 1360, fresh := 32, nextAlloc := 32,
    slots := (List.range 32).map fun k => (k, { z with alloc := k }) }

theorem witness_CombineIssue_ccfg : let s := combineState [] combineTeam
    ∃ i r, s.iss? {} = some i ∧ i.aG = [] ∧ i.on ≠ [] ∧ i.tm.key = i.t ∧ i.tm.guarded = none ∧ (i.sh.u 44).tag = false ∧
    (i.sh.u 45).tag = false ∧ cwBad (i.sh.u 45).bits = false ∧
    (s.die i.die).regions.find? (fun q => q.vdev == i.tm.vdev && q.va == (i.sh.u 44).bits.toNat) = some r ∧ r.grade = 8 ∧
    r.launch = some i.tm.launch ∧ r.ctx = none ∧ s.ctx? i.die (cwCtx (i.sh.u 45).bits) = none ∧
    min ((r.bytes - 4096) / cwSlotBytes (i.sh.u 45).bits) (4096 - (s.die i.die).slotsTaken) = 1360 :=
  ⟨_, _, rfl, by decide, by decide, rfl, rfl, rfl, rfl, by decide, rfl, rfl, rfl, rfl, by decide, by decide⟩

/-- A context of two slots, of which none is left after two lanes. -/
theorem witness_CombineIssue_cslot : let s := combineState [(1, { launch := 1, cfg := cw, s := 2 })] combineTeam
    ∃ i x, s.iss? {} = some i ∧ s.ctx? i.die 1 = some x ∧ x.waiters = [] ∧ freeQueue x = [0, 1] ∧ (freeQueue x).Nodup ∧
      i.on.length = 32 := ⟨_, _, rfl, rfl, rfl, by decide, by decide, by decide⟩

theorem witness_CombineIssue_slots : let s := combineState [(1, ctx1 { st := 1 })] combineTeam
    ∃ i, s.iss? {} = some i ∧ (∀ l ∈ i.on, i.combineCause s .stat { d := 5, e := 1 } l = none ∧
      i.combineCause s .free { e := 1 } l = none ∧
      namesSlot s i { e := 1 } l (ctx1 { st := 1 }, { st := 1, alloc := l })) ∧ (i.on.map (placeOf i { e := 1 })).Nodup := by
  refine ⟨_, rfl, ?_, by decide⟩
  unfold namesSlot
  decide

/-- The record at larder offset 0 (V6 is zero): one position, no deadline. -/
theorem witness_CombineIssue_cgate : let s := combineState [(1, ctx1 { st := 1 })] combineTeam
    ∃ i g, s.iss? {} = some i ∧ xRange { index := some 6, e := 1 } false true false i.sh.w = none ∧
    (∀ l ∈ i.on, i.combineCause s .gate { index := some 6, e := 1 } l = none) ∧
    gateRecord ((List.range 128).map fun n => i.tm.larderByte (i.xAddr { index := some 6, e := 1 } 0 + n)) s.time i.tm.vdev
      i.tm.phase = some g := ⟨_, _, rfl, by decide, by decide, rfl⟩

/-- Room in the pool for the 32 lanes, and none. -/
theorem witness_CombineIssue_cput : let s := combineState [(1, ctx1 { st := 1 })] combineTeam
    let o : OpX := { index := some 6, e := 1, g := 7 }
    ∃ i, s.iss? {} = some i ∧ xRange o false true true i.sh.w = none ∧ s.ctx? 0 1 = some (ctx1 { st := 1 }) ∧
    (∀ l ∈ i.on, i.combineCause s .put o l = none ∧ hDie (i.sh.v l 1).bits = 0 ∧ hCtx (i.sh.v l 1).bits = 1 ∧
      hPkg (i.sh.v l 1).bits = s.ownPod % 2 ^ 14) ∧ (∀ e < 16, (s.die e).granted = []) ∧ (s.die 0).poolQ = [] ∧
    (∀ l < 32, ∀ b, (i.sh.strand l).park ≠ .pool i.seq b) ∧
    s.poolUsed 0 1 (ctx1 { st := 1 }) + i.on.length ≤ cwPool (ctx1 { st := 1 }).cfg * (ctx1 { st := 1 }).s ∧
    (let full : Ctx := { ctx1 { st := 1, held := [(0, []), (1, [])] } with s := 32 }
     cwPool full.cfg * full.s ≤ s.poolUsed 0 1 full) :=
  ⟨_, rfl, by decide, rfl, by decide, by decide, rfl, by decide, by decide, by decide⟩

/-- Lane 0 waits for a slot of context 1; one has been freed. -/
def slotTeam : Team := team0 fun sh => { sh with strands := sh.strands.modify 0 fun st => { st with run := .parked 1, park := .slot 1 } }

theorem witness_CombineService_cslot : let c : Ctx := { launch := 1, cfg := cw, s := 2, fresh := 2, freed := [1], waiters := [(tk, 0, 0, 5)] }
    let s := combineState [(1, c)] slotTeam
    s.ctx? 0 1 = some c ∧ s.team? tk = some slotTeam ∧ ((slotTeam.sheaf 0).strand 0).park = .slot 1 ∧ freeQueue c = 1 :: [] ∧ slotTeam.key = tk := by decide

/-- Lane 0 waits for a pool entry. -/
def poolTeam : Team := team0 fun sh => { sh with
  strands := sh.strands.modify 0 fun st => { st with run := .parked 6, park := .pool 3 false } }

theorem witness_CombineService_pool : let q : Contrib := { handle := 0x01000000, src := .lane tk 0 0 3 }
    let s := (combineState [(1, ctx1 {})] poolTeam).modDie 0 fun d => { d with poolQ := [q] }
    (s.die 0).poolQ = [q] ∧ hCtx q.handle = 1 ∧ s.team? tk = some poolTeam ∧ poolTeam.key = tk ∧
    (∀ e < 16, (s.die e).granted = []) ∧ (∀ n < 32, ((poolTeam.sheaf 0).strand n).park = .pool 3 false ↔ n = 0) ∧
    s.poolUsed 0 1 (ctx1 {}) < cwPool (ctx1 {}).cfg * (ctx1 {}).s := by decide

/-- A contribution at position 0 of slot 0: held while the slot has no gate, applied at once when it has one. -/
theorem witness_CombineService_intake : ∀ z ∈ [({ st := 1 } : CSlot), { st := 2, gate := some {} }],
    let q : Contrib := { handle := BitVec.ofNat 64 (2 ^ 32 + 2 ^ 24) }
    let s := (combineState [(1, ctx1 z)] slotTeam).modDie 0 fun d => { d with input := [q] }
    (s.die 0).input = [q] ∧ hCtx q.handle = 1 ∧ hDie q.handle = 0 ∧ (ctx1 z).tookAt ≠ some s.time ∧ s.current q.handle = some (ctx1 z, z) ∧ q.pos < 8 ∧
    z.arrived.getLsbD q.pos = false ∧ (ctx1 z).renorm = false ∧ z.ready = false ∧ q.pos = z.next ∧ z.held = [] ∧ z.subst = 0 ∧
    (∀ n < 8, z.next < n → z.arrived.getLsbD n = false) ∧
    s.current (BitVec.ofNat 64 (2 ^ 33 + 2 ^ 24)) = none := by decide

/-- A gated slot whose deadline has passed, is to come, or is not given; and a slot that may be released. -/
theorem witness_CombineService_deadline : let z : CSlot := { st := 2, gate := some { deadline := some 4 } }
    let s := combineState [(1, ctx1 z)] slotTeam
    s.ctx? 0 1 = some (ctx1 z) ∧ ((ctx1 z).slot 0).next ≤ 1 ∧ s.ctxPhased (ctx1 z) = false ∧ (s.die 0).input = [] ∧
    ((ctx1 z).slot 0).ready = false ∧ ¬ 4 ≤ s.time ∧ 4 ≤ ({ s with time := 4 }).time := by decide

set_option maxRecDepth 8000 in
theorem witness_CombineService_release : let z : CSlot := { st := 2, gate := some { dest := 0x20000 }, ready := true, arrived := 1, pres := 1 }
    let s := combineState [(1, ctx1 z)] slotTeam
    (ctx1 z).releasable 0 = true ∧ 0 ∉ freeQueue (ctx1 z) ∧ z.bad = false ∧ (ctx1 z).d % 64 = 0 ∧
    s.rowLines 0 0x20000 ((ctx1 z).d * ((ctx1 z).ofmt.width / 8)) =
      some ((List.range ((ctx1 z).d * ((ctx1 z).ofmt.width / 8) / 128)).map fun q => 0x10000 + 128 * q) := by decide

/-- Two positions in both orders. -/
theorem witness_CombineOrderIndependence : let z : CSlot := { st := 2, gate := some { n := 2, wgt := [0x3F800000, 0x40000000] } }
    ((ctx1 z).slot 0).gate = some { n := 2, wgt := [0x3F800000, 0x40000000] } ∧ ((ctx1 z).slot 0).ready = false ∧
    ((ctx1 z).slot 0).next = 0 ∧ ((ctx1 z).slot 0).held = [] ∧ ((ctx1 z).slot 0).arrived = 0 ∧ ((ctx1 z).slot 0).subst = 0 ∧
    List.Perm [(0, [(0x80 : Byte), 0x3F]), (1, [0, 0x40])] [(1, [0, 0x40]), (0, [0x80, 0x3F])] ∧
    ([(0, [(0x80 : Byte), 0x3F]), (1, [0, 0x40])].map Prod.fst).Nodup := by decide

/-! ### Witnesses: the package -/

theorem witness_SettleAndPrivilege : ∃ i, s0.iss? {} = some i ∧ i.on ≠ [] ∧ i.tm.guarded = none ∧
    i.tm.priv = true ∧ s0.snapshot.held = false := ⟨_, rfl, by decide, rfl, rfl, rfl⟩

/-- The SETTLE at the head of the arbiter; the one behind it is not due. -/
theorem witness_SettleAndPrivilege_settle : let a : Settle := { n := 1, t := tk }
    let b : Settle := { n := 2, t := tk }
    let s := { s0 with settles := [a, b] }
    s.settles.find? (fun x => x.n == 1) = some a ∧ s.team? a.t = some (team0 id) ∧ (∀ x ∈ s.settles, 1 ≤ x.n) ∧
    s.allApplied a.cover = true ∧ a.remote = [] ∧ ¬ ∀ x ∈ s.settles, 2 ≤ x.n := by decide

theorem witness_SettleAndPrivilege_user : ∃ i, (withTeam { team0 id with priv := false }).iss? {} = some i ∧ i.tm.priv = false ∧
    i.tm.debug = false := ⟨_, rfl, rfl, rfl⟩

/-- S8 to S10 name a page at 0x20000, and what MAPCTL makes of it. -/
def mapState (va pa perm : Nat) : State :=
  withTeam (team0 fun sh => { sh with ureg := [(8, { bits := BitVec.ofNat 64 va }), (9, { bits := BitVec.ofNat 64 pa }),
    (10, { bits := BitVec.ofNat 64 perm })] })

theorem witness_PageOperations : ∃ i, (mapState 0x20000 0 0x68).iss? {} = some i ∧ i.on ≠ [] ∧ i.tm.priv = true ∧
    (i.sh.u 8).tag = false ∧ tlbBad (i.sh.u 8).bits = false := ⟨_, rfl, by decide, rfl, rfl, by decide⟩

/-- A fresh page, a second mapping of one, an unmapping, new permissions, a migration, and a status. -/
theorem witness_PageOperations_mapctl : ∀ x ∈ [(PageOp.map, 0x90000, 0x90000, 0x68), (.map, 0x90000, 0x10000, 0x168), (.unmap, 0x20000, 0, 0x8),
      (.protect, 0x20000, 0, 0x28), (.migrate, 0x20000, 0x90000, 0x8)],
    let s := mapState x.2.1 x.2.2.1 x.2.2.2
    mapBad x.1 (BitVec.ofNat 64 x.2.1) (BitVec.ofNat 64 x.2.2.1) (BitVec.ofNat 64 x.2.2.2) = false ∧
    s.mapRefuses x.1 (BitVec.ofNat 64 x.2.1) (BitVec.ofNat 64 x.2.2.1) (BitVec.ofNat 64 x.2.2.2) = none ∧
    s.finishes = [] ∧ s.stores = [] ∧ s.outstanding = [] ∧ (∀ e ∈ s.dies, e.2.parkq = []) ∧
    (∀ e ∈ s.teams, e.2.guarded = none) ∧
    (s.mapRefuses .unmap 0x90000 0 8 = some 2) := by decide

theorem witness_PageOperations_migrate : ∃ m, (mapState 0x20000 0x90000 0x8).pages.find? (fun m => m.vdev == 0 && m.va == 0x20000) = some m ∧
    m.grade = 8 ∧ m.size = (askedMapping 0x20000 0x90000 0x8).size := ⟨_, rfl, rfl, by decide⟩

theorem witness_PageOperations_wf : (mapState 0x20000 0 0x68).memWf := fun e h => by
  simp [mapState, withTeam, State.reset] at h

/-- Die 1's clock for die 0 is not ahead of die 0's own. -/
theorem witness_PageOperations_fresh : ∃ e < 16, e ≠ ownerOf 0x90000 ∧
    ((mapState 0x90000 0x90000 0x68).die e).vc.getD (ownerOf 0x90000) 0 ≤
      ((mapState 0x90000 0x90000 0x68).die (ownerOf 0x90000)).vc.getD (ownerOf 0x90000) 0 := ⟨1, by decide⟩

/-- Two writes that overlap: the first may be stamped. -/
theorem witness_StampsAndWalks_stamp : let w : Write := { pa := 8, bytes := [1, 2] }
    let s := s0.modDie 0 fun d => { d with unstamped := [w, { pa := 9, bytes := [3] }] }
    (s.die 0).unstamped[0]? = some w ∧ ∀ x ∈ (s.die 0).unstamped.take 0, x.overlaps w = false := by decide

/-- Die 1's first write, at die 0; its third is not yet applicable. -/
theorem witness_StampsAndWalks_apply : let m : Stamped := { die := 1, stamp := [0, 1], writes := [{ pa := 8, bytes := [1, 2] }] }
    let s := s0.modDie 0 fun d => { d with inbox := [m] }
    (s.die 0).inbox.find? (fun x => x.die == 1 && (s.die 0).canApply x) = some m ∧
    ((s0.modDie 0 fun d => { d with inbox := [{ m with stamp := [0, 3] }] }).die 0).canApply { m with stamp := [0, 3] } = false := by decide

/-- Lane 0 waits for page 2, which is mapped, and for page 5, which is not and lies in an allocated region or in none. -/
def pageTeam (p : Nat) : Team := team0 fun sh => { sh with
  strands := sh.strands.modify 0 fun st => { st with run := .parked 5, park := .page 0 (p * 65536) } }

def walkState (p : Nat) (asked : Bool) : State :=
  (withTeam (pageTeam p)).modDie 0 fun d => { d with walks := [{ page := p, asked := asked, lanes := [(tk, 0, 0)] }] }

theorem witness_StampsAndWalks_walk : ∃ w m, ((walkState 2 false).die 0).walks.find? (fun x => x.vdev == 0 && x.page == 2) = some w ∧
    (walkState 2 false).pages.find? (fun x => x.hasPage w) = some m ∧ m.migrating = false ∧
    w ∈ (((walkState 2 false).die 0).walks.filter fun x => !x.asked).take 64 ∧
    (walkState 5 false).pages.find? (fun x => x.hasPage { page := 5 }) = none := ⟨_, _, rfl, rfl, rfl, by decide, by decide⟩

/-- The 65th walk is still queued. -/
theorem witness_StampsAndWalks_queued :
    let d : Die := { walks := (List.range 65).map fun p => { page := p } }
    d.walks.find? (fun x => x.vdev == 0 && x.page == 64) = some { page := 64 } ∧
    ({ page := 64 } : Walk) ∉ (d.walks.filter fun x => !x.asked).take 64 := by decide

theorem witness_StampsAndWalks_service : let g : GRegion := { va := 0x50000, bytes := 65536, asked := true }
    ∃ w, ((walkState 5 true).die 0).walks.find? (fun x => x.vdev == 0 && x.page == 5 && x.asked) = some w ∧
    (∀ b ∈ (walkState 5 true).service.mapBusy,
      ¬ (b.1 = 0 ∧ b.2.1 < 5 * 65536 + 65536 ∧ 5 * 65536 < b.2.1 + b.2.2)) ∧ (∀ m ∈ (walkState 5 true).pages, m.hasPage w = false) ∧
    (walkState 5 true).service.regions = [] ∧
    [g].find? (fun g => g.asked && g.vdev == 0 && g.va ≤ 5 * 65536 && 5 * 65536 < g.va + g.bytes) = some g ∧
    (walkState 5 true).service.unmapped = [] ∧ ((walkState 5 true).takeFrame 0).isSome = true :=
  ⟨_, rfl, by decide, by decide, by decide, by decide, rfl, by decide⟩

/-- One page that covers all of a die's stacks leaves no frame. -/
theorem witness_StampsAndWalks_full : ({ s0 with pages := [{ size := 2 ^ 38 }] }).takeFrame 0 = none := by decide


/-! ### Witnesses: launches -/

/-- The bytes of a record that stands at physical 0x1_0000. -/
def recordBytes (m : Mem) : List Byte := (List.range 640).map fun k => m.get (0x10000 + k)

theorem recordBytes_getD (m : Mem) (n : Nat) (h : n < 640) : (recordBytes m).getD n 0 = m.get (0x10000 + n) := by
  simp [recordBytes, h]

/-- A record at 0x2_0000, what the service holds, and partition 0 with cluster 0. -/
def launchState (m : Mem) (sv : Service) : State :=
  { (s0.modDie 0 fun d => { d with view := m }) with clusters := [(0, { part := some 0 })], service := sv }

theorem witness_LaunchAcceptanceAndProgress (m : Mem) (sv : Service) : ∃ i, (launchState m sv).iss? {} = some i ∧ i.on ≠ [] ∧
    i.tm.priv = true ∧ (i.sh.u 2).tag = false ∧ (i.sh.u 2).bits.toNat = 0x20000 ∧
    RecordRead (launchState m sv) i 0x20000 (recordBytes m) := by
  rw [show (launchState m sv).iss? {} = (launchState [] {}).iss? {} from rfl]
  refine ⟨_, rfl, by decide, rfl, rfl, rfl, by simp [recordBytes], fun k hk =>
    ⟨{ va := 0x20000, pa := 0x10000 }, 0x10000 + 8 * k, ?_, rfl, ?_, fun q hq => ?_⟩⟩
  · interval_cases k <;> rfl
  · interval_cases k <;> rfl
  · rw [recordBytes_getD _ _ (by omega), Nat.add_assoc]
    rfl

/-- One stage with one team, on device 0 and partition 0, its code object at address 0; and the same after launch 1. -/
def launchMem (after : Bool) : Mem := if after then [(0x10008, 1), (0x10020, 1), (0x10080, 1)] else [(0x10008, 1), (0x10080, 1)]

def launchCode (regs : Nat) : CodeObj := { stages := [{ items := 32, roles := [{ regs := regs }] }] }

def launchService (regs : Nat) : Service := { codes := [launchCode regs], parts := [{ clusters := [0] }] }

set_option maxRecDepth 8000 in
theorem witness_LaunchAcceptanceAndProgress_good :
    GoodLaunch (launchState (launchMem false) (launchService 8)) (recordBytes (launchMem false)) (launchCode 8) where
  header := by decide
  code := rfl
  stages := by decide
  fields := by decide
  entries := by decide
  room := ⟨_, rfl⟩
  partition := ⟨_, rfl, by decide⟩
  dies := by decide
  codeDies := by decide
  fits := by decide
  after := by decide
  classes := rfl
  regions := fun d r h => by
    rcases d with _ | d
    · cases h
    · cases h

set_option maxRecDepth 8000 in
/-- Nine stages; no code object; a code object of two stages; no partition; too many registers; AFTER a launch to come. -/
theorem witness_LaunchAcceptanceAndProgress_refusals :
    recordBad (recordBytes [(0x10008, 9)]) = true ∧ recordBad (recordBytes (launchMem false)) = false ∧
    recordBad (recordBytes (launchMem true)) = false ∧
    (launchState (launchMem false) {}).service.codes.find? (fun q => q.addr == field (recordBytes (launchMem false)) 0 8 && q.vdev == 0)
      = none ∧
    ({ stages := [{}, {}] } : CodeObj).stages.length ≠ field (recordBytes (launchMem false)) 8 1 ∧
    (∀ p ∈ (launchState (launchMem false) { launchService 8 with parts := [] }).service.parts, p.part ≠ 0) ∧
    (launchState (launchMem false) (launchService 4096)).stageFits 0
      (stageOf (recordBytes (launchMem false)) 0 { items := 32, roles := [{ regs := 4096 }] }) = false ∧
    1 ∈ (((List.range 4).map fun k => field (recordBytes (launchMem true)) (0x20 + 8 * k) 8).filter fun x => x != 0) ∧
    (launchState (launchMem true) (launchService 8)).service.nextLaunch = 1 := by decide

/-- Launch 1 of one stage that may have started `n` of two teams, which have ended; PHASEW is 1. -/
def runLaunch (state n : Nat) : Launch :=
  { n := 1, state := state, phased := true, phase := n - 1, after := [2], compl := 0x20000
    stages := [{ teams := 2, phaseW := 1, nextLid := n, ended := List.range n }] }

def runState (l : Launch) : State := { s0 with teams := [], launches := [l, { n := 2, state := 2 }] }

/-- It waits, its first phase has ended, its second has. -/
theorem witness_LaunchAcceptanceAndProgress_run :
    (runState (runLaunch 0 0)).launch? 1 = some (runLaunch 0 0) ∧ (runState (runLaunch 1 1)).launchIdle (runLaunch 1 1) = true ∧
    (∃ g ∈ (runLaunch 1 1).stages, (runLaunch 1 1).teamLimit g < g.teams) ∧
    (runState (runLaunch 1 2)).launchIdle (runLaunch 1 2) = true ∧
    (∀ g ∈ (runLaunch 1 2).stages, g.teams ≤ (runLaunch 1 2).teamLimit g) ∧ (runState (runLaunch 1 2)).ctxsOf 1 = [] ∧
    (∃ m, (runState (runLaunch 1 2)).pageOf 0 0x20000 = some m ∧ isFabric (m.paOf 0x20000) = false ∧ m.grade = 8) ∧
    ∀ e ∈ (runState (runLaunch 1 2)).clusters, e.2.reorder = [] := by
  refine ⟨rfl, by decide, by decide, by decide, by decide, by decide, ⟨_, rfl, by decide, by decide⟩, by decide⟩

/-- One stage of one team wants a core; cluster 0 takes it, and its argument block is at 0x2_0000. -/
def placeLaunch : Launch := { n := 1, state := 1, stages := [{ st := { items := 32, roles := [{}] }, teams := 1, args := 0x20000 }] }

def placeState (sv : List Saved) : State :=
  { launchState [] (launchService 8) with teams := [], launches := [placeLaunch], saved := sv }

theorem witness_PlacementOfTeams : (placeState []).time % 20000 = 0 ∧ ∃ g, (placeState []).wantingStages = [(placeLaunch, 0, g)] ∧
    (placeState []).launch? 1 = some placeLaunch ∧ (placeState []).schedSaved 1 0 = [] ∧
    (placeState []).accepting placeLaunch 0 g g.st.need ≠ [] ∧ g.nextLid < placeLaunch.teamLimit g ∧ 0 < g.st.sheaves ∧
    g.item + 32 * g.st.sheaves ≤ g.st.items ∧ g.args ≠ 0 ∧
    (∀ q < 64, ((placeState []).pageOf 0 (g.args + 8 * q)).isSome) ∧ ∀ d < 16, ((placeState []).die d).inbox = [] :=
  ⟨rfl, _, rfl, rfl, rfl, by decide, by decide, by decide, by decide, by decide, by decide, by decide⟩

/-- Units of core 0 have freed; between boundaries nothing else lets a team be placed. -/
theorem witness_PlacementOfTeams_freed : let s := { s0 with time := 5 }
    s.time % 20000 ≠ 0 ∧ s.roomGrew = false ∧ ({ s with cores := [(0, { room := [16, 100, 1, 1, 16, 4, 25165824, 0] })] }).roomGrew = true := by decide

theorem witness_PlacementOfTeams_saved : let v : Saved := { team := team0 id }
    ∃ g, (placeState [v]).wantingStages = [(placeLaunch, 0, g)] ∧ (placeState [v]).schedSaved 1 0 = v :: [] ∧
    (((placeState [v]).accepting placeLaunch 0 g v.team.need).filter fun c =>
      (placeState [v]).takesSaved v c && ((placeState [v]).restoreWith v c).isSome) ≠ [] :=
  ⟨_, rfl, rfl, by decide⟩

/-! ### Witnesses: pre-emption and contexts -/

/-- A team whose lanes stand at their safe points, pre-empted for `why` at time 0. -/
def restTeam (why : Nat) : Team :=
  { team0 (fun sh => { sh with safeAt := allOnes.truncate 32 }) with preempt := .decided 0 why 0x20000 (tk + 1, 0, 3) }

/-- And the team whose SAVECTX waits for it. -/
def restState (why t : Nat) : State :=
  { withTeam (restTeam why) with
    time := t
    teams := [(tk, restTeam why), (tk + 1, { team0 (fun sh => { sh with
      pend := [{ seq := 3, ready := false, writes := [Wr.u 5 allOnes 0 (some false)] }] }) with key := tk + 1 })] }

theorem witness_CaptureAndKill : ∀ why ∈ [0, 3], (restState why 7).team? tk = some (restTeam why) ∧ (restTeam why).key = tk ∧
    NoChains (restState why 7) ∧ Rests (restTeam why) ∧ ((restState why 7).team? (tk + 1)).isSome ∧
    (((restTeam why).sheaf 0).allot ≤ 2048) ∧
    ∃ m, (restState why 7).pageOf 0 0x20000 = some m ∧ isFabric (m.paOf 0x20000) = false := by
  intro why h
  rcases List.mem_pair.1 h with rfl | rfl
  all_goals
    unfold NoChains Rests
    exact ⟨rfl, rfl, by decide, by decide, rfl, by decide, _, rfl, by decide⟩

/-- 20,000 mesh cycles later, 40,000 later, and a team that the service holds. -/
theorem witness_CaptureAndKill_times : (restTeam 3).preempt = .decided 0 3 0x20000 (tk + 1, 0, 3) ∧
    0 + 20000 ≤ (restState 3 20000).time ∧ (restState 3 19999).time < 0 + 20000 ∧
    (∃ q ∈ ((restState 3 20000).sheafAt (tk + 1) 0).pend, q.seq = 3 ∧ q.writes = [Wr.u 5 allOnes 0 (some false)]) ∧
    (restTeam 2).preempt = .decided 0 2 0x20000 (tk + 1, 0, 3) ∧ 0 + 40000 ≤ (restState 2 40000).time ∧ (restTeam 2).killed = false ∧
    (restState 2 39999).time < 0 + 40000 ∧
    (team0 fun sh => { sh with hold := .service }).sheaves.find? (fun x => x.hold == .service) =
      some { sheaf0 with hold := .service } := by decide

/-- S20: process 5 at the record 0x2_0000, with room for 2^24 bytes; a resident team has that number. -/
def ctxState (pid bytes : Nat) (p : Preempt) : State :=
  let s := withTeam (team0 fun sh => { sh with
    ureg := [(20, { bits := BitVec.ofNat 64 pid }), (21, { bits := 0x20000 }), (22, { bits := BitVec.ofNat 64 bytes })] })
  { s with teams := s.teams ++ [(tk + 1, { team0 id with key := tk + 1, lid := 1, core := 1, preempt := p })] }

theorem witness_ContextInstructions_savectx : ∃ i, (ctxState ((team0 id).pid + 1) (2 ^ 24) .none).iss? {} = some i ∧ i.on ≠ [] ∧
    i.tm.priv = true ∧ (i.sh.u 20).tag = false ∧ (i.sh.u 22).tag = false := ⟨_, rfl, by decide, rfl, rfl, rfl⟩

/-- The process of a resident team and one of none; with room and without; decided by another SAVECTX. -/
theorem witness_ContextInstructions_cases : let s := ctxState 1 0 (.decided 0 3 0 (tk, 0, 0))
    NoChains s ∧ SMap.sorted s.teams = true ∧
    ∃ e, s.teams.find? (fun (e : Nat × Team) => e.2.pid == 16) = some e ∧ s.team? e.1 = some e.2 ∧
    0 < e.2.recordBound ∧ e.2.recordBound ≤ 2 ^ 24 ∧ e.2.preempt = .decided 0 3 0 (tk, 0, 0) ∧
    ∃ n < 2 ^ 15, ∀ e ∈ s.teams, e.2.pid ≠ n := by
  unfold NoChains
  exact ⟨by decide, by decide, _, rfl, rfl, by decide, by decide, rfl, 77, by decide, by decide⟩

/-- At 0x2_0000 the record of a team of launch 1 whose sheaf has finished: SAVE, version 1.0, status 1, 5,504 bytes, with the
sections of the team and of its engines. -/
def recordMem : Mem := [
  (0x10000, 0x53), (0x10001, 0x41), (0x10002, 0x56), (0x10003, 0x45), (0x10005, 0x1), (0x10006, 0x1), (0x10008, 0x1),
  (0x1000D, 0x1), (0x1000E, 0x4), (0x1000F, 0x8), (0x10018, 0x1), (0x10020, 0x80), (0x10021, 0x15), (0x10040, 0x1),
  (0x10044, 0x80), (0x10049, 0x1), (0x1004A, 0x1), (0x10050, 0x4), (0x10055, 0x14), (0x10058, 0x80), (0x10059, 0x1),
  (0x1005A, 0x1)]

def recordTeamSaved : Team := { team0 (fun sh => { sh with finished := true, strands := List.replicate 32 {}, vreg := [] }) with
  st := { larderP := 0, roles := [{ k := 0, regs := 128 }] } }

/-- Core 1 of the partition is to take it. -/
def restoreState : State :=
  { launchState recordMem (launchService 8) with
    teams := [(tk + 1, { team0 (fun sh => { sh with ureg := [(20, { bits := 0x20000 }), (21, { bits := 1 })] }) with
      key := tk + 1, lid := 1 })]
    cur := some { team := tk + 1 }
    saved := [{ team := recordTeamSaved, bySavectx := true, record := 0x20000 }]
    launches := [{ n := 1, state := 1, stages := [{ st := recordTeamSaved.st, teams := 2, nextLid := 2 }] }] }

theorem witness_ContextInstructions_restctx : ∃ i, restoreState.iss? {} = some i ∧ i.on ≠ [] ∧ i.tm.priv = true ∧ (i.sh.u 20).tag = false ∧
    (i.sh.u 20).bits.toNat = 0x20000 ∧ (i.sh.u 21).bits.toNat = 1 ∧ (restoreState.die i.die).inbox = [] ∧ i.die = 0 ∧ i.tm.vdev = 0 ∧
    i.t = tk + 1 ∧ (s0.headerAt i.die i.tm.vdev 0x20000).take 4 ≠ [0x53, 0x41, 0x56, 0x45] :=
  ⟨_, rfl, by decide, rfl, rfl, rfl, rfl, rfl, rfl, rfl, rfl, by decide⟩

theorem witness_ContextInstructions_header : headerBad (restoreState.headerAt 0 0 0x20000) 0x20000 = false ∧
    ({ restoreState with launches := [] }).launch? (field (restoreState.headerAt 0 0 0x20000) 8 4) = none := by decide +kernel

theorem witness_ContextInstructions_restore : ∃ v, restoreState.restoreCheck 0 0 0x20000 1 = .inr v ∧ v.team.key ≠ tk + 1 := by
  have h : (match restoreState.restoreCheck 0 0 0x20000 1 with
    | .inl _ => false
    | .inr v => decide (v.team.key ≠ tk + 1)) = true := by decide +kernel
  revert h
  cases restoreState.restoreCheck 0 0 0x20000 1 with
  | inl n => intro h; cases h
  | inr v => exact fun h => ⟨v, rfl, of_decide_eq_true h⟩

/-! ### Witnesses: power -/

/-- The resident team asks for level `n`; its cluster stands as given. -/
def levelState (n : Nat) (c : Cluster) : State := { withTeam { team0 id with level := n } with clusters := [(0, c)] }

theorem witness_PowerEvents_boundary :
    (let s := { levelState 6 {} with time := 100000 }
     s.time % 20000 = 0 ∧ s.lastBoundary ≠ some s.time ∧ s.time % 100000 = 0 ∧ s.lastRotation ≠ some s.time) ∧
    (levelState 6 {}).lastBoundary = some 0 ∧ (levelState 6 {}).clusters.has 0 = true ∧
    (levelState 6 {}).target 0 = 6 ∧ (levelState 5 {}).target 0 = 5 ∧ (levelState 3 {}).target 0 ≤ 4 ∧
    ((levelState 6 { fall := true }).cluster 0).fall = true ∧
    (let c := (levelState 6 { busy := true, bal := 1, nextLevel := 6 }).cluster 0; c.bal < 2 ∧ c.nextLevel = 6) ∧
    (let c := (levelState 6 { busy := true, bal := 2, b2g := true }).cluster 0; 2 ≤ c.bal ∧ c.b2g = true) ∧
    (let c := (levelState 6 { busy := true, bal := 1 }).cluster 0; c.nextLevel ≠ 6 ∧ c.bal < 2 ∧ 1 ≤ c.bal) ∧
    (let c := (levelState 6 { busy := true, bal := 0 }).cluster 0; c.nextLevel ≠ 6 ∧ c.bal = 0) ∧
    ∀ d < 16, ((List.range 12).countP fun q => ((levelState 6 {}).cluster (12 * d + q)).b2g) ≤ 2 := by decide

/-- A core each for eight teams, of which only the first may be claimed for a stage that takes a whole core. -/
def claimLaunch : Launch := { n := 2, state := 1, stages := [{ st := { pri := 1, roles := [{ regs := 2048 }] }, teams := 1 }] }

def claimState : State :=
  { launchState [] (launchService 8) with
    time := 2000000
    teams := (List.range 8).map fun k => (tk + k, { team0 id with
      key := tk + k, lid := k, core := k, st := { pri := if k = 0 then 0 else 1, roles := [{ regs := 128 }] } })
    launches := [claimLaunch] }

/-- One stage of launch 2 wants a core, none accepts its team, and the first team alone may be claimed. -/
def claims (s : State) : Bool :=
  match s.wantingStages with
  | [(l, k, g)] => l == claimLaunch && k == 0 && (s.accepting l k g (s.nextNeed l k g)).isEmpty &&
      (match s.claimable l k g (s.nextNeed l k g) with
        | [tm] => s.team? tm.key == some tm
        | _ => false)
  | _ => false

theorem witness_PowerEvents_claim : claimState.time % 20000 = 0 ∧ claimState.lastBoundary ≠ some claimState.time ∧
    NoChains claimState ∧ claims claimState.powerBoundary = true := by
  unfold NoChains
  exact ⟨by decide, by decide, by decide, by decide +kernel⟩

/-- A rail that has 85 mV to rise, a grade rail that has 130 mV, a droop with the allowance left and with it spent. -/
theorem witness_PowerEvents_rails :
    (let s := { levelState 4 { nextLevel := 6 } with lastBoundary := some 0, time := moveTime 350 420 }
     (s.cluster 0).level ≠ (s.cluster 0).nextLevel ∧
     s.lastBoundary.getD 0 + moveTime (s.cluster 0).rail (levelVolts (s.cluster 0).nextLevel) ≤ s.time) ∧
    (let s := { withTeam { team0 id with gradeReq := [(2, 0, 3)] } with clusters := [(0, { atarget := 2 })], time := 10000 }
     (s.cluster 0).amoveAt + moveTime (s.cluster 0).afrom (gradeVolts (s.cluster 0).atarget) ≤ s.time ∧
     (∃ tm, s.team? tk = some tm ∧ tm.key = tk ∧ tm.core / 8 = 0 ∧ tm.gradeReq = [(2, 0, 3)]) ∧ (s.cluster 0).atarget ≤ 2) ∧
    ((s0.cluster 0).injecting = none ∧ (s0.cluster 0).injectedIn s0.time < 125) ∧
    (let s := { levelState 4 { injected := [(100, 225)] } with time := 300 }
     (s.cluster 0).injecting = none ∧ 125 ≤ (s.cluster 0).injectedIn s.time) ∧
    (levelState 4 { injecting := some (0, true) }).cluster 0 = { injecting := some (0, true) } := by
  refine ⟨by decide, ⟨by decide, ⟨_, rfl, rfl, rfl, rfl⟩, by decide⟩, by decide, by decide, by decide⟩

/-- A core that has been hot for 100 µs, with one team. -/
theorem witness_PowerEvents_thermal : let s := { s0 with time := 2000000, cores := [(0, { sensor := 390, hotSince := some 0 })] }
    s.teamsOn 0 = [team0 id] ∧ s.team? (team0 id).key = some (team0 id) ∧ NoChains s ∧
    (∃ t, (s.core 0).hotSince = some t ∧ t + 200000 ≤ s.time) ∧ (s.core 0).migratedAt = none ∧
    (team0 id).since + 2000000 ≤ s.time ∧ (team0 id).preempt = .none ∧ (s.core 0).retryAt ≤ s.time := by
  unfold NoChains
  exact ⟨rfl, rfl, by decide, ⟨0, by decide, by decide⟩, rfl, by decide, rfl, by decide⟩

/-! ### Witnesses: memory reliability -/

/-- Stack A of die 0. -/
def stackState (k : Stack) (t : Nat) : State := { (s0.modDie 0 fun d => { d with stackA := k }) with time := t }

/-- Bursts that deliver: a whole one, a write, a read with one wrong byte and one with two in its sector 1; one that parity refuses; and
retries due for the fourth time, with a spare left and with none. -/
theorem witness_MemoryReliability :
    (let s := stackState { budget := [(0, 256)], charged := [(0, 128)] } 0
     let k := (s.die 0).stack 0
     k.out = none ∧ k.spent 0 = false ∧ k.testing 0x80 s.ids = false ∧ rowCount 7 (k.tracker.val 0 []) < 4095 ∧
     (0x80 : Nat) < 2 ^ 44 ∧ ownerDie 0x80 = some 0 ∧
     (∀ b ∈ [({ pa := 0x80 } : Burst), { pa := 0x80, damage := [(1, 4, 1)] }, { pa := 0x80, damage := [(1, 4, 1), (1, 5, 1)] }],
       failedParity b = none ∧ (s.damaged b 1).length = b.damage.length) ∧
     failedParity { pa := 0x80, flips := [(3, 17)] } = some (3, 1)) ∧
    (((stackState { budget := [(0, 256)], charged := [(0, 256)] } 0).die 0).stack 0).spent 0 = true ∧
    (((stackState { out := some 0 } 0).die 0).stack 0).out ≠ none ∧
    (((stackState { retries := [{ id := 5, attempt := 3 }] } 0).die 0).stack 0).testing 0 9 = true ∧
    (∀ x ∈ [(0, 8, 0), (3, 1000, 0), (3, 1000, 4)],
      let r : Retry := { id := 5, attempt := x.1 }
      let s := stackState { retries := [r], spares := [(0, x.2.2)] } x.2.1
      retryOf s 0 5 = some r ∧ ownerOf r.burst.pa = 0 ∧ (∀ n < 4, s.damaged r.burst n = []) ∧ (s.die 0).canRun r = true ∧
      (r.attempt < 3 ∧ r.since + 8 ≤ s.time ∨ 3 ≤ r.attempt ∧ r.since + 1000 ≤ s.time) ∧
      ((s.die 0).stack 0).spares.val 0 0 = x.2.2) := by decide

/-- A save that streams to stack A, and its SAVECTX; a retraining that has waited 200 µs. -/
def save0 : Save := {
  bytes := List.replicate 384 0, blocks := [(some 0x10000, 384)], team := 5, ask := some { t := tk, seq := 3 } }

def savingState (want : Option Nat) : State :=
  { ((stackState { wantRetrain := want } 400000).modDie 0 fun d => { d with saves := [save0] }) with
    teams := [(tk, team0 fun sh => { sh with pend := [{ seq := 3, ready := false, writes := [Wr.u 5 allOnes 0 (some false)] }] })] }

set_option maxRecDepth 8000 in
theorem witness_MemoryReliability_saves :
    ((savingState none).die 0).savesOn 0 = [save0] ∧ ((savingState none).die 0).savesOn 1 = [] ∧ 384 ≤ save0.bytes.length ∧ save0.bytes.length < 2 ^ 30 ∧
    (save0.blocks.map Prod.snd).sum = save0.bytes.length ∧ save0.moved = false ∧ ((savingState none).die (ownerOf 0x10000)).inbox = [] ∧
    ((savingState none).die 0).stackA.out = none ∧
    ((savingState none).die 0).saves.find? (fun v => v.on 0) = some save0 ∧
    (∀ v ∈ ((savingState (some 0)).die 0).saves.erase save0, v.on 0 = false) ∧
    ((savingState (some 0)).die 0).stackA.wantRetrain = some 0 ∧ 0 + 400000 ≤ (savingState (some 0)).time ∧
    (∃ q ∈ ((savingState none).sheafAt tk 0).pend, q.seq = 3 ∧ q.writes = [Wr.u 5 allOnes 0 (some false)]) ∧
    rowCount 7 (((stackState { tracker := [(1, [(7, [(0, 4095)])])] } 0).die 0).stackA.tracker.val 1 []) = 4095 ∧
    ((savingState none).time % 20000 = 0 ∧ ((savingState none).die 0).stackA.interval < (savingState none).time) ∧
    ((stackState {} 64000000).time % 64000000 = 0 ∧ ((stackState {} 64000000).die 0).stackA.window < 64000000) ∧
    ((levelState 4 { halted := true }).cluster 0).halted = true := by decide

/-! ### Witnesses: fabric -/

/-- Package 3, whose key table holds key 5 as a full member; it reaches package 9 by ports 2 or 4, of which `up` are up. -/
def podState (e : Word) (up : List Nat) : State :=
  { s0 with fabric := { s0.fabric with
      pod := some 3, keyTable := [0x8005], bankA := [(9, e)]
      ports := (List.range 32).map fun k => { up := up.contains k, peer := 9, queued := k } } }

/-- An entry of ports 2 and 4 with port 4 first; and one that spreads. -/
def byFour : Word := 0x8020000000000014
def spreads : Word := 0xC020000000000014

theorem witness_RoutingPortsAndNotices_keys :
    keyPasses (podState 0 []).fabric.keyTable 5 ∧ ¬ keyPasses (podState 0 []).fabric.keyTable 6 := by
  refine ⟨⟨_, List.mem_singleton_self _, by decide, by decide, by decide⟩, ?_⟩
  rintro ⟨e, he, h⟩
  rw [List.mem_singleton.1 he] at h
  revert h
  decide

theorem witness_RoutingPortsAndNotices_entries :
    (podState 0 []).fabric.pod = some 3 ∧ s0.fabric.pod = none ∧
    (podState byFour []).fabric.bankA.val 9 0 = byFour ∧ (podState spreads []).fabric.bankA.val 9 0 = spreads ∧
    byFour.toNat.testBit 63 = true ∧ byFour.toNat / 2 ^ 51 % 32 = 4 ∧ byFour.toNat.testBit 62 = false ∧ byFour.toNat.testBit 2 = true ∧
    spreads.toNat.testBit 63 = true ∧ spreads.toNat.testBit 62 = true ∧ spreads.toNat.testBit 4 = true := by
  refine ⟨rfl, rfl, rfl, rfl, ?_⟩
  decide

theorem witness_RoutingPortsAndNotices_ports : ((podState byFour [2, 4]).port 4).up = true ∧ ((podState byFour [2]).port 4).up = false ∧
    ((podState byFour [2]).port 2).up = true ∧
    ((podState spreads [2, 4]).port 2).queued < ((podState spreads [2, 4]).port 4).queued := by decide

theorem witness_RoutingPortsAndNotices_notice : let m : Msg := { op := 0x18, value := 0x0003, tag := 7 }
    let s := { podState 0 [2] with fabric := { (podState 0 [2]).fabric with delivered := [{ msg := m }], swapDue := true, podNext := some 4 } }
    Arrived s 0x18 m ∧ ((msgNotice m).origin, (msgNotice m).seq) ∉ s.fabric.seen ∧ s.fabric.swapDue = true ∧
    (s.port 2).up = true ∧ (s.port 3).up = false :=
  ⟨⟨rfl, by decide, _, rfl, rfl, rfl⟩, by decide, rfl, rfl, rfl⟩

/-- A message from package 9 has arrived; a page of a cellar region at 0x4_0000 beside those of `s0`. -/
def arrivedState (m : Msg) : State :=
  let s := cellarState 8
  { s with fabric := { s.fabric with delivered := [{ msg := m }] } }

/-- Where the addresses of messages reach: the stack page, and the staged region. -/
theorem arrived_reaches : ∀ va ∈ [0x20008, 0x40000], ∀ m : Msg, m.va = va → m.vdev = 0 → ∀ align ∈ [1, 4, 8], ∀ r w,
    Reaches (arrivedState m) m align r w (if va = 0x20008 then 0x10008 else 2 ^ 44) := by
  intro va hva m hm hv align hal r w
  unfold Reaches
  rw [hm, hv]
  fin_cases hva
  · exact ⟨{ va := 0x20000, pa := 0x10000 }, rfl, by fin_cases hal <;> rfl, by decide, rfl, by decide, rfl, fun _ => rfl, fun _ => rfl,
      fun q h => by cases (show none = some q from h)⟩
  · exact ⟨{ va := 0x40000, pa := 2 ^ 44 }, rfl, by fin_cases hal <;> rfl, by decide, rfl, by decide, rfl, fun _ => rfl, fun _ => rfl,
      fun q h => by
        cases (show some { pa := 2 ^ 44, bytes := 65536, va := 0x40000, launch := some 1 } = some q from h)
        rfl⟩

/-! ### Witnesses: remote operations -/

theorem witness_RemoteTargets_atomic : let m : Msg := { op := 1, srcPod := 9, va := 0x20008, ty := .n32, tag := 4 }
    Arrived (arrivedState m) 1 m ∧ Reaches (arrivedState m) m 4 true true 0x10008 ∧ (arrivedState m).sending = [] ∧
    (0x20009 : Nat) % 4 ≠ 0 :=
  ⟨⟨rfl, fun _ => rfl, _, rfl, rfl, rfl⟩, arrived_reaches 0x20008 (by decide) _ rfl rfl 4 (by decide) _ _, rfl, by decide⟩

/-- A request of package 9 at the head of its home's queue; an object of class 2 stands in the staged line. -/
def headState (r : Req) (o : Meta) : State :=
  ((cellarState 8).modDie 0 fun d => { d with metas := [(2 ^ 44, o)] }).modCluster (homeOf r.pa) fun c => { c with queue := [r] }

theorem at_head {s : State} {r : Req} (h : (s.cluster (homeOf r.pa)).queue = [r] ∧ (s.cluster (homeOf r.pa)).halted = false ∧
    (s.cluster (homeOf r.pa)).overflow = [] ∧ s.parked (lineOf r.pa) = [] ∧ r.clock = [] ∧ (s.die (ownerOf r.pa)).inbox = []) : AtHead s r :=
  ⟨⟨[], h.1⟩, h.2.1, h.2.2.1, h.2.2.2.1, h.2.2.2.2.1, h.2.2.2.2.2⟩

theorem witness_RemoteTargets_atomicServe : let m : Msg := { op := 1, srcPod := 9, va := 0x20008, ty := .n32, tag := 4 }
    let r : Req := { remoteReq .atomic m 0x10008 with id := 7 }
    AtHead (headState r {}) r ∧ (headState r {}).judge r = .plain ∧ m.fn ≤ 7 ∧ m.ty.float = false ∧ 32 ≤ m.ty.width ∧
    (headState r {}).poisonAt 0x10008 4 = false :=
  ⟨at_head (by decide), by decide, by decide, rfl, by decide, by decide⟩

/-- A staged line of class 2 performs transition 1 in state 1, parks it in state 0, and refuses transition 3. -/
def stagedMsg (trans : Nat) : Msg := { op := 3, srcPod := 9, va := 0x40000, tag := 4, trans := trans }

set_option maxRecDepth 8000 in
theorem witness_RemoteTargets_staged : ∀ x ∈ [(1, 1, Verdict.done 0x8580), (1, 0, .park), (3, 0, .fault)],
    let r : Req := { remoteReq .ldt (stagedMsg x.1) (2 ^ 44) with id := 7 }
    let s := headState r { stg := true, cls := 2, state := x.2.1 }
    s.judge r = x.2.2 ∧ s.lineBad (2 ^ 44) = false ∧ s.parkedCount (homeOf (2 ^ 44)) < 4096 := by decide

theorem witness_RemoteTargets_staged_head : ∀ x ∈ [(1, 1), (1, 0), (3, 0)],
    let r : Req := { remoteReq .ldt (stagedMsg x.1) (2 ^ 44) with id := 7 }
    AtHead (headState r { stg := true, cls := 2, state := x.2 }) r := by
  intro x h
  fin_cases h <;> exact at_head (by decide)

theorem witness_RemoteTargets_staged_reaches (trans : Nat) : Arrived (arrivedState (stagedMsg trans)) 3 (stagedMsg trans) ∧
    Reaches (arrivedState (stagedMsg trans)) (stagedMsg trans) 8 true false (2 ^ 44) ∧ (arrivedState (stagedMsg trans)).sending = [] :=
  ⟨⟨rfl, fun _ => rfl, _, rfl, rfl, rfl⟩, arrived_reaches 0x40000 (by decide) _ rfl rfl 8 (by decide) _ _, rfl⟩

theorem witness_RemoteTargets_copies :
    (let m : Msg := { op := 5, srcPod := 9, va := 0x20008, lo := 128, tag := 4 }
     Arrived (arrivedState m) 5 m ∧ Reaches (arrivedState m) m 1 true false 0x10008 ∧ (arrivedState m).preciseCellar 0x10008 = false ∧
     m.clock = [] ∧ ((arrivedState m).die (ownerOf 0x10008)).inbox = [] ∧ (arrivedState m).poisonAt 0x10008 128 = false) ∧
    (let m : Msg := { op := 5, srcPod := 9, va := 0x40000, lo := 8, tag := 4 }
     Arrived (arrivedState m) 5 m ∧ Reaches (arrivedState m) m 1 true false (2 ^ 44) ∧ (arrivedState m).preciseCellar (2 ^ 44) = true) ∧
    (let m : Msg := { op := 7, srcPod := 9, va := 0x20008, data := [1, 2], tag := 4 }
     Arrived (arrivedState m) 7 m ∧ Reaches (arrivedState m) m 1 false true 0x10008) ∧
    (let m : Msg := { op := 7, srcPod := 9, va := 0x40000, data := [1, 2, 3, 4, 5, 6, 7, 8], lo := 8, tag := 4 }
     Arrived (arrivedState m) 7 m ∧ Reaches (arrivedState m) m 1 false true (2 ^ 44) ∧ (arrivedState m).sending = []) ∧
    (let m : Msg := { op := 9, srcPod := 9, handle := 0x01000000, tag := 4 }
     Arrived (arrivedState m) 9 m ∧ m.fn ≠ 3) ∧
    (let m : Msg := { op := 11, srcPod := 9, handle := 0x01000000, tag := 4 }
     let c : Contrib := { handle := 0x01000000, src := .remote 9 4 0 }
     let s := (arrivedState m).modDie 0 fun d => { d with granted := [c] }
     Arrived s 11 m ∧ (s.die (hDie m.handle)).granted = [c]) ∧
    (let m : Msg := { op := 12, srcPod := 9, tag := 4 }
     Arrived (arrivedState m) 12 m ∧ ∀ d < 16, ∀ q < 16, m.clock.getD q 0 ≤ (((arrivedState m).die d).vc).getD q 0) ∧
    (let m : Msg := { op := 12, srcPod := 9, tag := 4, clock := [1] }
     (((arrivedState m).die 0).vc).getD 0 0 < m.clock.getD 0 0) ∧
    (let m : Msg := { op := 0x12, srcPod := 9, value := 5 }
     Arrived (arrivedState m) 0x12 m) :=
  ⟨⟨⟨rfl, fun _ => rfl, _, rfl, rfl, rfl⟩, arrived_reaches 0x20008 (by decide) _ rfl rfl 1 (by decide) _ _, by decide, rfl, by decide, by decide⟩,
   ⟨⟨rfl, fun _ => rfl, _, rfl, rfl, rfl⟩, arrived_reaches 0x40000 (by decide) _ rfl rfl 1 (by decide) _ _, by decide⟩,
   ⟨⟨rfl, fun _ => rfl, _, rfl, rfl, rfl⟩, arrived_reaches 0x20008 (by decide) _ rfl rfl 1 (by decide) _ _⟩,
   ⟨⟨rfl, fun _ => rfl, _, rfl, rfl, rfl⟩, arrived_reaches 0x40000 (by decide) _ rfl rfl 1 (by decide) _ _, rfl⟩,
   ⟨⟨rfl, fun _ => rfl, _, rfl, rfl, rfl⟩, by decide⟩, ⟨⟨rfl, fun _ => rfl, _, rfl, rfl, rfl⟩, rfl⟩,
   ⟨⟨rfl, fun _ => rfl, _, rfl, rfl, rfl⟩, by decide⟩, by decide, ⟨rfl, fun _ => rfl, _, rfl, rfl, rfl⟩⟩

/-- The home's requests of a copy: of a plain line, and of an object that admits no plain access in state 0. -/
theorem witness_RemoteTargets_copyServe : ∀ kind ∈ [ReqKind.load, .store],
    let m : Msg := { op := 5, srcPod := 9, va := 0x40000, data := [1, 2, 3, 4, 5, 6, 7, 8], lo := 8, tag := 4 }
    let r : Req := { copyReq kind m (2 ^ 44) with id := 7 }
    AtHead (headState r {}) r ∧ (headState r {}).judge r = .plain ∧ (headState r {}).storesClear r = true ∧
    (headState r {}).poisonAt (2 ^ 44) 8 = false ∧ AtHead (headState r { stg := true, cls := 2 }) r ∧
    (headState r { stg := true, cls := 2 }).judge r = .fault ∧ (headState r { stg := true, cls := 2 }).storesClear r = true := by
  intro kind h
  rcases List.mem_pair.1 h with rfl | rfl <;>
    exact ⟨at_head (by decide), by decide, by decide, by decide, at_head (by decide), by decide, by decide⟩

theorem witness_RemoteTargets_none : fabricRow (.copyWrite { op := 7 }) = some (7, { op := 7 }) ∧
    (∀ p ∈ s0.fabric.delivered, p.msg ≠ { op := 7 }) ∧ State.reset.portsOn = false := ⟨rfl, by decide, rfl⟩

/-- An answer of package 9 to request 4 of lane 0. -/
def answerState (m : Msg) (r : Req) (tm : Team) : State :=
  let s := withTeam tm
  { s with fabric := { s.fabric with delivered := [{ msg := m }], waits := [(4, r)] } }

theorem witness_RemoteSources_atomic : let m : Msg := { op := 2, srcPod := 9, tag := 4, value := 7 }
    let r : Req := { kind := .atomic, src := .lane tk 0 0 3, seq := 3, dst := .v 0 }
    let s := answerState m r atomicTeam
    Arrived s 2 m ∧ s.fabric.waits.find? (fun w => w.1 == m.tag) = some (m.tag, r) ∧ s.fabric.held = [] ∧ m.cause = 0 ∧
    s.team? tk = some atomicTeam ∧ atomicTeam.key = tk ∧ 0 < atomicTeam.sheaves.length ∧ m.hi ≠ 1 ∧ (atomicTeam.sheaf 0).hold = .none ∧
    ∃ p, (atomicTeam.sheaf 0).pend = [p] ∧ p.seq = 3 ∧ p.slotOf.getLsbD 0 = true :=
  ⟨⟨rfl, fun _ => rfl, _, rfl, rfl, rfl⟩, rfl, rfl, rfl, rfl, rfl, by decide, by decide, rfl, _, rfl, rfl, by decide⟩

theorem witness_RemoteSources_staged : ∀ hi ∈ [0, 1], let m : Msg := { op := 4, srcPod := 9, tag := 4, hi := hi }
    let r : Req := { id := 7, kind := .ldt, src := .lane tk 0 0 3, seq := 3, dst := .v 0 }
    let s := answerState m r parkedTeam
    Arrived s 4 m ∧ s.fabric.waits.find? (fun w => w.1 == m.tag) = some (m.tag, r) ∧ s.team? tk = some parkedTeam ∧
    parkedTeam.key = tk ∧ ((parkedTeam.sheaf 0).strand 0).run = .parked 0 ∧
    ((parkedTeam.sheaf 0).strand 0).park = .request r.id ∧ 0 < (parkedTeam.sheaf 0).strands.length :=
  fun hi _ => ⟨⟨rfl, fun _ => rfl, _, rfl, rfl, rfl⟩, rfl, rfl, rfl, rfl, rfl, by decide⟩

/-- A remote copy of job 1 whose read or write is unanswered. -/
def copyState (m : Msg) (which : Nat) : State :=
  let s := withTeam (jobTeam [copyJob 1 0])
  { s with fabric := { s.fabric with delivered := [{ msg := m }], copies := [(4, tk, 1, which, 0x20000)] } }

theorem witness_RemoteSources_copies : ∀ x ∈ [(6, 0, 0), (6, 1, 0), (6, 0, 0x702), (8, 2, 0)],
    let m : Msg := { op := x.1, srcPod := 9, tag := 4, cause := x.2.2 }
    Arrived (copyState m x.2.1) x.1 m ∧ copyOf (copyState m x.2.1) 4 tk 1 x.2.1 (copyJob 1 0) ∧
    (copyState m x.2.1).fabric.waits.find? (fun w => w.1 == 4) = none :=
  fun _ _ => ⟨⟨rfl, fun _ => rfl, _, rfl, rfl, rfl⟩, ⟨⟨_, rfl⟩, rfl, rfl⟩, rfl⟩

theorem witness_RemoteSources_settle : let m : Msg := { op := 13, tag := 4 }
    Arrived (arrivedState m) 13 m ∧ (∀ w ∈ (arrivedState m).fabric.waits, w.1 ≠ 4) ∧ (∀ c ∈ (arrivedState m).fabric.copies, c.1 ≠ 4) ∧
    (∀ e ∈ (arrivedState m).fabric.contribs, e.1 ≠ 4) ∧ ∀ x ∈ (arrivedState m).settles, 4 ∉ x.remote :=
  ⟨⟨rfl, fun _ => rfl, _, rfl, rfl, rfl⟩, by decide, by decide, by decide, by decide⟩

/-- Contribution data of lane 0 was handed to the transport 2 ms ago. -/
theorem witness_RemoteSources_dataOut :
    let s := { s0 with time := 4000000, fabric := { s0.fabric with sentAt := [(4, 0)], dataOut := [(4, .lane tk 0 0 3, 0x40000)] } }
    s.fabric.sentAt.find 4 = some 0 ∧ s.fabric.dataOut.find? (fun e => e.1 == 4) = some (4, .lane tk 0 0 3, 0x40000) ∧
    s.team? tk = some (team0 id) ∧ ((team0 id).sheaf 0).vacant 0 = false ∧ s.fabric.waits = [] ∧ s.fabric.copies = [] ∧
    s.fabric.contribs = [] := by decide

/-- The same at its time and a cycle before. -/
theorem witness_RemoteSources_unreachable : ∀ n ∈ [4000000, 3999999],
    let s := { (s0) with time := n, fabric := { s0.fabric with sentAt := [(4, 0)] } }
    (∃ t, s.fabric.sentAt.find 4 = some t ∧ (t + 4000000 ≤ s.time ↔ n = 4000000)) :=
  fun n h => ⟨0, rfl, by simp at h; rcases h with rfl | rfl <;> decide⟩

/-! ### Witnesses: host -/

/-- A booted package with an open session 5 of a role on device 0 whose commands 1 to 3 have been performed; key 5 is accepted. -/
def hostState (role : Nat) : State :=
  { s0 with
    fabric := { s0.fabric with keyTable := [0x8005, 0xFFFF] }
    service := { launchService 8 with sessions := [{ id := 5, role := role, high := 3 }], journal := [{ session := 5, seq := 3 }] } }

def cmd (seq : Nat) : Cmd := { session := 5, seq := seq, key := 5 }

theorem host_key (k : Nat) (h : k = 5 ∨ k = 0x7FFF) (role : Nat) : keyPasses (hostState role).fabric.keyTable k := by
  rcases h with rfl | rfl
  · exact ⟨0x8005, List.mem_cons_self, by decide, by decide, by decide⟩
  · exact ⟨0xFFFF, by simp [hostState], by decide, by decide, by decide⟩

theorem host_accepts (role : Nat) : Accepts (hostState role) (cmd 4) { id := 5, role := role, high := 3 } :=
  ⟨⟨rfl, rfl⟩, host_key 5 (.inl rfl) role, rfl, rfl, rfl, ⟨rfl, rfl⟩, rfl⟩

/-- A key that is not accepted, no session, a command ahead of its turn, one performed, one forgotten, one next in order by a
role that may give it and by one that may not. -/
theorem witness_CommandProtocol : commandRow (.closeCmd (cmd 4)) = some (1, [0, 1, 2], cmd 4) ∧
    commandRow (.routeswap (cmd 4)) = some (8, [2], cmd 4) ∧ (hostState 0).power = true ∧ (hostState 0).boot = 5 ∧
    keyPasses (hostState 0).fabric.keyTable 5 ∧ ¬ keyPasses (hostState 0).fabric.keyTable 6 ∧
    (hostState 0).service.sessions.find? (fun y => y.id == 6) = none ∧
    (hostState 0).service.sessions.find? (fun y => y.id == 5) = some { id := 5, role := 0, high := 3 } ∧
    (3 : Nat) + 1 < (cmd 5).seq ∧ (cmd 4).seq = 3 + 1 ∧
    (hostState 0).service.journal.find? (fun r => r.session == 5 && r.seq == 3) = some { session := 5, seq := 3 } ∧
    ∀ r ∈ (hostState 0).service.journal, ¬ (r.session = 5 ∧ r.seq = 2) := by
  refine ⟨rfl, rfl, rfl, rfl, host_key 5 (.inl rfl) 0, ?_, rfl, rfl, by decide, rfl, rfl, by decide⟩
  rintro ⟨e, he, h⟩
  rcases List.mem_pair.1 he with rfl | rfl
  all_goals (revert h; decide)

theorem witness_SessionAndServiceCommands_open : keyPasses (hostState 0).fabric.keyTable 0x7FFF ∧
    (∀ y ∈ (hostState 0).service.sessions, y.id ≠ 6) ∧ (2 : Nat) ≤ 2 ∧ (0x7FFF : Nat) % 2 ^ 15 = 0x7FFF ∧ (5 : Nat) % 2 ^ 15 ≠ 0x7FFF :=
  ⟨host_key _ (.inr rfl) 0, by decide, by decide, by decide, by decide⟩

theorem witness_SessionAndServiceCommands : (∀ role, Accepts (hostState role) (cmd 4) { id := 5, role := role, high := 3 }) ∧
    (List.replicate 64 (0 : Byte)).length = 64 ∧ ({ hostState 1 with snapshot := { held := true } }).snapshot.held = true ∧
    (hostState 1).snapshot.held = false := ⟨host_accepts, by decide, rfl, rfl⟩

/-- A sheaf of device 0 held for the host, lane 0 of its trap record resuming at 0x1_0000. -/
def heldTeam : Team := team0 fun sh => { sh with
  hold := .debug, record := (List.range 1024).map fun k => if k = 0 then 1 else if k = 0x82 then 1 else 0 }

theorem witness_SessionAndServiceCommands_debug : let s := { hostState 0 with teams := [(tk, heldTeam)] }
    HeldFor s { id := 5, role := 0, high := 3 } tk 0 heldTeam ∧ (heldTeam.sheaf 0).strands.length = 32 ∧
    (∀ l < 32, (field (heldTeam.sheaf 0).record 0 4).testBit l = true →
      field (heldTeam.sheaf 0).record (0x80 + 8 * l) 8 % 8 = 0 ∧ field (heldTeam.sheaf 0).record (0x80 + 8 * l) 8 < 2 ^ 48) ∧
    (field (heldTeam.sheaf 0).record 0 4).testBit 0 = true ∧ heldTeam.killed = false ∧ ∀ v ∈ s.saved, v.team.key ≠ tk :=
  ⟨⟨rfl, rfl, rfl, by decide, rfl⟩, by decide, by decide +kernel, by decide +kernel, rfl, by decide⟩

theorem witness_SessionAndServiceCommands_attest : ({ hostState 0 with boot := 2, bootFail := some 3 }).boot ≠ 5 ∧
    ({ hostState 0 with boot := 2, bootFail := some 3 }).power = true := by decide

/-- Reset, a package that has booted, one without power. -/
theorem witness_PowerAndSnapshots : (State.reset.boot = 0 ∧ State.reset.bootFail = none) ∧ (s0.power = true ∧ s0.boot ≠ 0) ∧
    ({ s0 with power := false }).power = false ∧ SMap.sorted s0.clusters = true ∧ s0.snapshot.held = false ∧
    ({ s0 with snapshot := { held := true } }).snapshot.held = true := by decide

theorem witness_MemoryAndLaunchCommands_alloc : ((hostState 0).partDies ((hostState 0).partOf 0)).headD 0 < 16 ∧ ((hostState 0).die 3).findRun ((65536 + 1048575) / 1048576) = some 191 ∧
    (let g : GRegion := { va := 0x50000, bytes := 65536 }
     let s := { hostState 0 with service := { (hostState 0).service with regions := [g] } }
     s.regionAt 0 0x50000 = none ∧ s.service.regions.find? (fun g => g.vdev == 0 && g.va == 0x50000) = some g) ∧
    (let s := (cellarState 8).modDie 0 id
     ∃ r, s.regionAt 0 0x40000 = some r ∧ r.launch = some 1) := by
  refine ⟨by decide, by decide, by decide, _, rfl, rfl⟩

/-- A code object: one LAND at offset 0x80, and a stage of one sheaf with one role that begins at it. -/
def codeMem : Mem := [
  (0, 0x54), (1, 0x52), (2, 0x53), (3, 0x4C), (5, 0x1), (8, 0x80), (16, 0x8), (72, 0x88), (80, 0x1), (133, 0xE0), (134,
  0x11), (140, 0xFF), (141, 0xFF), (142, 0xFF), (143, 0xFF), (148, 0x1), (150, 0x8), (151, 0x4), (165, 0x40), (172,
  0x8), (173, 0x1), (202, 0x8)]

def codeObject : List Byte := (List.range 392).map fun k => codeMem.get k

theorem witness_MemoryAndLaunchCommands_load : objectOk codeObject = true ∧ objectOk [] = false ∧
    ((hostState 0).placeObject 0 codeObject).isSome = true := by decide +kernel

/-- The launch record at 0x2_0000 for session 5. -/
def hostLaunchState : State :=
  let s := launchState (launchMem false) (launchService 8)
  { s with
    fabric := { s.fabric with keyTable := [0x8005, 0xFFFF] }
    service := { s.service with sessions := [{ id := 5, high := 3 }] } }

set_option maxRecDepth 8000 in
theorem witness_MemoryAndLaunchCommands_launch : Accepts hostLaunchState (cmd 4) { id := 5, high := 3 } ∧
    GoodLaunch hostLaunchState (recordBytes (launchMem false)) (launchCode 8) ∧ field (recordBytes (launchMem false)) 9 1 = 0 ∧
    (recordBytes (launchMem false)).length = 640 ∧
    (∀ k < 5, hostLaunchState.pageOf 0 (0x20000 + 128 * k) = some { va := 0x20000, pa := 0x10000 } ∧
      ∀ q < 128, (recordBytes (launchMem false)).getD (128 * k + q) 0 =
        (hostLaunchState.die 0).view.get (({ va := 0x20000, pa := 0x10000 } : Mapping).paOf (0x20000 + 128 * k) + q)) ∧
    hostLaunchState.service.nextLaunch < 2 ^ 32 := by
  refine ⟨⟨⟨rfl, rfl⟩, host_key 5 (.inl rfl) 0, rfl, rfl, rfl, ⟨rfl, rfl⟩, rfl⟩,
    ⟨by decide, rfl, by decide, by decide, by decide, ⟨_, rfl⟩, ⟨_, rfl, by decide⟩, by decide, by decide, by decide, by decide, rfl, ?_⟩,
    by decide, by simp [recordBytes], fun k hk => ⟨?_, fun q hq => ?_⟩, by decide⟩
  · rintro (_ | d) r h <;> cases h
  · interval_cases k <;> rfl
  · rw [recordBytes_getD _ _ (by omega), ← Nat.add_assoc]
    interval_cases k <;> rfl

/-- Launches to kill: complete, running, waiting without a team. -/
theorem witness_MemoryAndLaunchCommands_kill : ∀ st < 3, let l : Launch := { n := 1, state := st, stages := [{ teams := 2 }] }
    let s := { hostState 0 with teams := [], launches := [l] }
    s.launch? 1 = some l ∧ l.vdev = 0 ∧ SMap.sorted s.teams = true ∧ s.ctxsOf 1 = [] ∧ s.outstanding = [] ∧ (∀ e ∈ s.teams, e.2.launch ≠ 1) ∧
    (∀ v ∈ s.saved, v.team.launch ≠ 1) ∧ (∀ g ∈ l.stages, g.nextLid = 0 ∧ g.ended = []) ∧
    ∀ e ∈ s.clusters, e.2.reorder = [] := by decide

/-- Clusters 0 and 1 in partition 0, cluster 5 free. -/
def partState (tm : Team) (l : Launch) : State :=
  { hostState 1 with
    teams := [(tk, tm)]
    clusters := [(0, { part := some 0 }), (1, { part := some 0 })]
    launches := [l]
    service := { (hostState 1).service with parts := [{ clusters := [0, 1] }] } }

theorem witness_PartitionAndFabricCommands_part : let s := partState (team0 id) { n := 1, state := 1 }
    (∀ p ∈ s.service.parts, p.part ≠ 7) ∧ (5 < 192 ∧ (s.cluster 5).fused = false ∧ (s.cluster 5).part = none ∧ s.residents 5 = []) ∧
    4 ≤ s.unshared (5 / 12) ∧ (s.cluster 1).part ≠ none ∧ NoChains s ∧ (∃ p ∈ s.service.parts, p.part = 0) ∧
    (∃ l ∈ s.launches, l.part = 0 ∧ l.state ≠ 2) ∧ s.team? tk = some (team0 id) ∧ (team0 id).core / 8 = 0 ∧
    (team0 id).preempt = .none ∧ (∀ l ∈ (partState (team0 id) { n := 1, state := 2 }).launches, l.part = 0 → l.state = 2) := by
  unfold NoChains
  decide

/-- A resize of partition 0 from clusters 0 and 1 to 1 and 5. -/
theorem witness_PartitionAndFabricCommands_resize : let s := partState (team0 id) { n := 1, state := 1 }
    s.partClusters 0 = [0, 1] ∧ s.service.parts.find? (fun q => q.part == 0) = some { clusters := [0, 1] } ∧
    (∀ k ∈ [1, 5], k ∈ s.partClusters 0 ∨ k < 192 ∧ (s.cluster k).fused = false ∧ (s.cluster k).part = none ∧ s.residents k = []) ∧
    ∀ d < 16, (∃ k ∈ [1, 5], k / 12 = d) ↔ ∃ k ∈ s.partClusters 0, k / 12 = d := by decide +kernel

/-- Values that WINDOW and ROUTE take, and that the settings take and refuse. -/
theorem witness_PartitionAndFabricCommands_fabric :
    ((0x40000000 : Word).toNat < 2 ^ 52 ∧ (0x40000000 : Word).toNat % 2 ^ 30 = 0 ∧
      (9 : Word).toNat / 2 ^ 48 % 2 ^ 15 = 0 ∧ (9 : Word).toNat / 2 ^ 30 % 4 = 0 ∧ (9 : Word).toNat / 2 ^ 14 % 2 ^ 10 = 0) ∧
    (byFour.toNat / 2 ^ 56 % 64 = 0 ∧ byFour.toNat / 2 ^ 32 % 2 ^ 19 = 0 ∧ byFour.toNat.testBit (byFour.toNat / 2 ^ 51 % 32) = true) ∧
    (∀ role, ∀ r ∈ (hostState role).fabric.rings, r.session ≠ 5) ∧ (4 : Nat) ≤ 6 ∧ (6 : Nat) < 7 ∧ (16 : Nat) < 17 :=
  ⟨by decide, by decide, (fun _ _ h => by cases h), by decide, by decide, by decide⟩

/-! ### Witnesses: the whole machine -/

theorem witness_DecodeEncode : (Instr.iadd { sw := true } { d := 6, a := 6, bc := .imm 1, ty := .s32 }).wellFormed = true ∧
    encode (.iadd { sw := true } { d := 6, a := 6, bc := .imm 1, ty := .s32 }) = some 0x2061E18300009004 ∧
    decode 0x2061E18300009004 = .ok (.iadd { sw := true } { d := 6, a := 6, bc := .imm 1, ty := .s32 }) := by decide

/-- The issue turn of a word, which issues, of a word that R72 refuses, which does not, and of addresses without one; with its loads
performed at the issue and later. -/
theorem witness_StepRunsDecoded : ∀ x ∈ [(0x2061E18300009004, false), (0, true)], ∀ late ∈ [false, true],
    let s := { State.reset.withFetchWord 64 x.1 with turns := [if late then .issueLate 0 x.2 else .issue 0 x.2] }
    let s1 := { s with turns := [] }
    let s0 := State.markCore (drawnFirst s1 0 x.2) 0
    s.turns = (if late then .issueLate 0 x.2 else .issue 0 x.2) :: [] ∧ s1.drawsBefore 0 x.2 = [] ∧
    (s0.core 0).usedV = false ∧ (s0.core 0).usedM = false ∧ s0.pick 0 x.2 = some (fetchTeam, 0) ∧
    (x.2 = true → s0.pick 0 false = none) ∧ (fetchTeam.sheaf 0).front = some (0, 0x10000) ∧
    s0.fetchAt fetchTeam.core fetchTeam.vdev 0x10000 = .word 0 (BitVec.ofNat 64 x.1) ∧
    ({ s0 with pages := [] }).fetchAt fetchTeam.core fetchTeam.vdev 0x10000 = .unmapped ∧
    ({ s0 with pages := [{ va := 0x10000 }] }).fetchAt fetchTeam.core fetchTeam.vdev 0x10000 = .notExecutable ∧
    ({ s0 with pages := [{ va := 0x10000, x := true, grade := 4 }] }).fetchAt fetchTeam.core fetchTeam.vdev 0x10000 = .approx := by
  decide

theorem witness_StepRunsDecoded_went : ∀ x ∈ [(0x2061E18300009004, false, 1), (0, true, 0)],
    let s := State.reset.withFetchWord 64 x.1
    (match exec (s.chosenInstr fetchTeam 0) (s.issuing fetchTeam 0) with
      | .next t => (t.team? fetchTeam.key).map fun y => (y.sheaf 0).iss
      | _ => none) = some x.2.2 ∧ (fetchTeam.sheaf 0).iss = 0 := by decide

theorem witness_StepRunsDecoded_event : ({ s0 with turns := [.event .bankSwap] }).turns = .event .bankSwap :: [] := rfl

theorem witness_StepKeepsMemoryCanonical : State.reset.memWf ∧ ∃ t, step State.reset = .next t :=
  ⟨fun e h => by simp [State.reset] at h, _, rfl⟩

/-! ### Witnesses: forms and boundaries of the strand's statements -/

/-- Lane 0's guard P1 is false, the other lanes' are true: block 0 of a CVTB is not whole. -/
def partialState : State := withTeam (team0 fun sh => { sh with
  strands := { pc := 0x10000, run := .active } :: List.replicate 31 { pc := 0x10000, run := .active, pword := 0x8002 } })

theorem witness_MoveFieldAndPackResults_partial : ∃ i, partialState.iss? { gp := 1 } = some i ∧ 1 ∈ i.on ∧ 0 ∉ i.on ∧ 4 ∈ i.on ∧ 5 ∈ i.on ∧
    6 ∈ i.on ∧ 7 ∈ i.on ∧ (∀ apx : Bool,
      tbChecks 0x3C { d := 20, a := 12, bc := .regs { uni := true, idx := 5 } { idx := 21 }, ty := .tb4 } apx 12 { idx := 21 } i.sh.w = none ∧
      tbChecks 0x3D { d := 12, a := 20, bc := .regs { idx := 21 } {}, ty := .tb8 } apx 12 { idx := 21 } i.sh.w = none) ∧
    ∀ l ∈ i.on, ∀ r < 8, i.poisoned l [12 + r] = false := ⟨_, rfl, by decide, by decide, by decide, by decide, by decide, by decide, by decide, by decide⟩

theorem witness_ComparisonResults_approximate : rowMet 0x2A 0 { rr with d := 2, x := 1 } { apx := true } = true ∧
    rowMet 0x36 3 { rr with d := 2, ty := .f32, x := 2 } { apx := true } = true ∧ compareRow (.icmp {} .lt rr) = some (0x2A, .lt, {}, rr, 2) ∧
    (FFmt.f64.value 0).isNan = false ∧ (FFmt.f64.value (2 ^ 63)).isNan = false ∧ (FFmt.f64.value 0x7FF8000000000000).isNan = true := by decide

/-- Infinities of opposite signs, zero times infinity, the root of −1; zeros, a NaN that signals, one of each class. -/
theorem witness_FloatFamilyResults_cases : FFmt.ieee .f32 ∧ FFmt.f32.value 0x7F800000 = .inf false ∧
    FFmt.f32.value 0x7FA00000 = .nan true ∧ FFmt.f32.value 0x7FC00000 = .nan false ∧ (FFmt.f32.value 0x80000000).isZero = true ∧
    InvalidCase .add (.inf false) (.inf true) (.inf false) ∧
    InvalidCase .fma (FFmt.f32.value 0) (.inf true) (.nan false) ∧ InvalidCase .sqrt (FFmt.f32.value 0xBF800000) (.inf true) (.inf true) ∧
    (0x7FA00000 : Nat) < 2 ^ FFmt.f32.w := by
  refine ⟨?_, by decide, by decide, by decide, by decide, ⟨false, rfl, rfl⟩, .inl (.inl (by decide)), .inr (by decide), by decide⟩
  simp [FFmt.ieee]

/-- (+0) + (−0); 2 is a power of two and an integer, 4 over 2, the root of 4. -/
theorem witness_FloatArithmeticIsExactlyRounded_values : (FFmt.f32.value 0).rational = some 0 ∧ (FFmt.f32.value 0x80000000).rational = some 0 ∧
    (FFmt.f32.value 0x80000000).neg? = true ∧ (FFmt.f32.value 0x40000000).rational = some 2 ∧ ((2 : Rat) = ((2 : Int) : Rat)) ∧
    ((2 : Rat) = (2 : Rat) ^ (1 : Int)) ∧ (FFmt.f32.value 0x80000000).isZero = true ∧ (1 : Int) ≠ 0 := by
  have h1 : FFmt.f32.value 0 = .fin false 0 (-149) := by decide
  have h2 : FFmt.f32.value 0x80000000 = .fin true 0 (-149) := by decide
  have h3 : FFmt.f32.value 0x40000000 = .fin false 8388608 (-22) := by decide
  refine ⟨?_, ?_, ?_, ?_, by norm_num, by norm_num, ?_, by decide⟩ <;> simp only [h1, h2, h3]
  · norm_num [FV.rational]
  · norm_num [FV.rational]
  · rfl
  · norm_num [FV.rational]
  · rfl

theorem witness_LaneMovementResults_vacant : ∃ i, vacantState.iss? {} = some i ∧ (i.sh.strand 20).run = .vacant ∧
    rChecks 0x41 0 { rr with ty := .n32, bc := .regs { idx := 1 } {} } false none i.sh.w = none := ⟨_, rfl, by decide, by decide⟩

/-- A call of every lane with room, direct and through V1, which names a LAND. -/
def callxState : State :=
  { landState with teams := [(tk, team0 fun sh => { sh with
      vreg := (List.range 32).map fun l => (l * 2048 + 1, { bits := 0x20000 }), allot := 136 })] }

theorem witness_BranchAndCallResults_calls : (∃ i, callState.iss? {} = some i ∧
      Calls callState i {} (.call {} { frame := 1, off := 2 }) 1 fun _ => BitVec.ofInt 48 ((i.pc.toNat : Int) + 8 * (BitVec.ofNat 36 2).toInt)) ∧
    ∃ i, callxState.iss? {} = some i ∧ Calls callxState i {} (.callx {} { frame := 1, target := 1 }) 1
      (fun l => (i.sh.v l 1).bits.setWidth 48) ∧ i.sh.w + 8 * 1 ≤ i.sh.allot := by
  refine ⟨⟨_, rfl, .inl ⟨_, rfl, rfl, fun _ => rfl⟩⟩, _, rfl, .inr ⟨_, rfl, rfl, by decide, fun l => ⟨rfl, ?_⟩⟩, by decide⟩
  revert l
  decide

/-- Lane 0 alone runs, its window full; its spill area is at 0x2_0000. -/
def spillState (st : Strand) (mem : Mem) : State :=
  (withTeam { team0 (fun sh => { sh with strands := st :: List.replicate 31 {} }) with spill := 0x20000 }).modDie 0
    fun d => { d with view := mem }

/-- Its accesses to entries `a` to `b - 1` reach the first page. -/
def spillReached (s : State) (i : Iss) (r w : Bool) (a b : Nat) : Bool :=
  (List.range (b - a)).all fun k => [spillVa i.tm i.j 0 (a + k), spillTagVa i.tm i.j 0 (a + k)].all fun va =>
    s.spillAccess i.tm (i.sh.strand 0).refused r w va == .ok { va := 0x20000, pa := 0x10000 } (0x10000 + (va - 0x20000))

theorem reach_of {s : State} {i : Iss} {r w : Bool} {a b : Nat} (h : spillReached s i r w a b = true) :
    SpillReach s i 0 r w { va := 0x20000, pa := 0x10000 } a b := by
  refine ⟨rfl, fun e ha hb va hv => ?_⟩
  have h1 := List.all_eq_true.1 h (e - a) (List.mem_range.2 (by omega))
  rw [Nat.add_sub_cancel' ha] at h1
  rcases hv with rfl | rfl
  · exact beq_iff_eq.1 (List.all_eq_true.1 h1 _ (by simp))
  · exact beq_iff_eq.1 (List.all_eq_true.1 h1 _ (by simp))

/-- A CALL with frame 1 of lane 0 spills its entries 0 to 7. -/
theorem witness_BranchAndCallResults_spill : let s := spillState { pc := 0x10000, run := .active } []
    ∃ i, s.iss? {} = some i ∧ i.aG = [] ∧ i.on = [0] ∧ i.tm.guarded = none ∧
    Calls s i {} (.call {} { frame := 1 }) 1 (fun _ => BitVec.ofInt 48 ((i.pc.toNat : Int) + 8 * (BitVec.ofNat 36 0).toInt)) ∧
    8 * 1 ≤ i.sh.w ∧ i.sh.w ≤ i.sh.allot ∧ i.sh.allot ≤ 2048 ∧ max (i.sh.strand 0).floor (0 + 8 * 1 + i.sh.w - i.sh.allot) = 8 ∧
    (∀ e < 8, i.sh.poison.has (0 * 2048 + e % i.sh.allot) = false) ∧ SpillReach s i 0 false true { va := 0x20000, pa := 0x10000 } 0 8 :=
  ⟨_, rfl, by decide, by decide, rfl, .inl ⟨_, rfl, rfl, fun _ => rfl⟩, by decide, by decide, by decide, by decide, by decide, reach_of (by decide)⟩

/-- Its RET fills entries 0 to 7, of which the last, the link, returns to 0x2_0008 with frame 1. -/
theorem witness_BranchAndCallResults_fill :
    let s := spillState { pc := 0x10000, run := .active, depth := 1, base := 8, floor := 8 } [(0x10038, 8), (0x1003A, 2), (0x1003E, 1)]
    let m : Mapping := { va := 0x20000, pa := 0x10000 }
    ∃ i, s.iss? {} = some i ∧ i.aG = [] ∧ i.on = [0] ∧ spilledVal s i 0 m 7 = { bits := 0x0001000000020008 } ∧
    (8 * 1 ≤ i.sh.allot ∧ i.sh.allot ≤ 2048 ∧ i.sh.poison.has (0 * 2048 + 7 % i.sh.allot) = false) ∧
    SpillReach s i 0 true false m 0 8 ∧ ∀ e < 8, s.poisonAt (m.pa + (spillVa i.tm i.j 0 e - m.va)) 8 = false ∧
      s.poisonAt (m.pa + (spillTagVa i.tm i.j 0 e - m.va)) 1 = false :=
  ⟨_, rfl, by decide, by decide, by decide, by decide, reach_of (by decide), by decide⟩

/-- A frame above the window: 17 groups of eight are more than 128. -/
theorem witness_BranchAndCallResults_frame : ∃ i, s0.iss? {} = some i ∧ i.aG = [] ∧ i.sh.w < 8 * 17 := ⟨_, rfl, by decide, by decide⟩

/-- A phased launch's team with five items of its block left, and half of its lanes vacant. -/
theorem witness_StrandCreationAndExit_phased :
    let s := withTeam { team0 (fun sh => { sh with strands := List.replicate 16 { pc := 0x10000, run := .active } ++ List.replicate 16 {} }) with
      st := { fetchTeam.st with phased := true }, itemNext := 32, itemEnd := 37 }
    ∃ i, s.iss? {} = some i ∧ i.tm.st.phased = true ∧ i.tm.itemEnd - i.tm.itemNext = 5 ∧ i.on ≠ [] ∧ i.sh.strands.length = 32 :=
  ⟨_, rfl, rfl, by decide, by decide, by decide⟩

theorem witness_GuardSinksAndBatchCauses_compare : ∃ i, s0.iss? {} = some i ∧
    rChecks 0x2A 0 { rr with d := 2, x := 3 } false none i.sh.w = some 0x108 ∧
    compareRow (.icmp {} .lt { rr with d := 2, x := 3 }) = some (0x2A, .lt, {}, { rr with d := 2, x := 3 }, 2) := ⟨_, rfl, by decide, rfl⟩

/-- Handlers that may not return: a PC with a bit above 47, a RUN that is vacant, a batch that leaves out a lane of HMASK. -/
theorem witness_TrapReturn_refused_record : ∀ x ∈ [(0x86, 1), (0x320, 0), (0x321, 31)],
    let tm := { recordTeam with larder := recordTeam.larder.put (recordTeam.recordAt 0 + x.1) x.2 }
    ∃ i ∈ ((withTeam tm).iss? {}).toList, i.sh.tmode = true ∧
    ∃ l < 2, i.sh.hmask.getLsbD l = true ∧ (i.sh.strand l).run ≠ .vacant ∧
      (2 ^ 48 ≤ i.tm.recordField i.j (0x80 + 8 * l) 8 ∨
        ¬ (i.tm.recordField i.j (0x320 + l) 1 / 16 = 1 ∨ i.tm.recordField i.j (0x320 + l) 1 / 16 = 2) ∨ x.1 = 0x321) := by decide

theorem witness_TrapReturn_refused_batch : ∃ i,
    (withTeam (team0 fun sh => { sh with
      tmode := true, hmask := 3
      strands := [{ pc := 0x20000, run := .active }, { pc := 0x20008, run := .active }] ++ List.replicate 30 {} })).iss? {} = some i ∧
    i.sh.tmode = true ∧ ¬ (1 ∈ i.batch ↔ 1 < 32 ∧ i.sh.hmask.getLsbD 1 = true ∧ (i.sh.strand 1).run ≠ .vacant) := ⟨_, rfl, rfl, by decide⟩

/-- Loads that are performed later, and from a cellar region by LDS. -/
theorem witness_LoadResults_late : ∃ i, ({ s0 with late := true } : State).iss? {} = some i ∧ accessLanes i false ≠ [] ∧ s0.late = false ∧
    PlainLoad { s0 with late := true } i {} (mo (some 2) .n8 5) (.ld {} (mo (some 2) .n8 5)) (fun l => 0x10001 + l) fun _ => 8 := by
  refine ⟨_, rfl, by decide, rfl, by decide, .inl ⟨rfl, ?_⟩⟩
  intro l hl
  refine ⟨{ va := 0x20000, pa := 0x10000 }, ?_, rfl⟩
  revert l
  decide

theorem witness_LoadResults_ldsLoad : ∃ i, (cellarState 4).iss? {} = some i ∧
    PlainLoad (cellarState 4) i {} (mo none .n8 5) (.lds {} (mo none .n8 5)) (fun l => 2 ^ 44 + i.die * 2 ^ 28 + i.memAddr (mo none .n8 5) l) fun _ => 4 := by
  refine ⟨_, rfl, by decide, .inr ⟨rfl, ?_⟩⟩
  intro l hl
  refine ⟨?_, ?_, ?_, rfl, { pa := 2 ^ 44, bytes := 65536, va := 0x40000, grade := 4, launch := some 1 }, ?_, rfl, rfl, rfl⟩ <;> revert l <;> decide

/-- A lane whose false guard is tagged A at a precise page (row 5), and a load of a line with an uncorrectable error (row 7). -/
theorem witness_AccessCheckOrder_rows : (∃ i, taggedState.iss? { gp := 1 } = some i ∧ 3 ∈ i.aG ∧ 3 ∈ i.batch ∧
      (∃ m, pageVerdict taggedState i true (mo (some 2) .n8 1) 3 = some (.inr (m, 0x10004)) ∧ m.grade = 8)) ∧
    let s := s0.modDie 0 fun d => { d with poison := [(0x10000, ())] }
    ∃ i, s.iss? {} = some i ∧ s.poisonAt 0x10001 1 = true ∧ s.preciseCellar 0x10001 = false ∧
      globalVerdict s i false (mo (some 2) .n8 1) 0 = some (.inr ({ va := 0x20000, pa := 0x10000 }, 0x10001)) :=
  ⟨⟨_, rfl, by decide, by decide, { va := 0x20000, pa := 0x10000 }, by decide, rfl⟩, _, rfl, by decide, by decide, by decide⟩

theorem witness_AccessCheckOrder_guarded : ∃ i, (guardedState true).iss? {} = some i ∧ ∃ g, i.tm.guarded = some g ∧ i.sh.cleared = true ∧
    g.share.length + 32 ≤ 16384 := ⟨_, rfl, _, rfl, rfl, by decide⟩

/-- A load of lane 0 that is performed after its issue, and a mark behind it; a store that its sheaf already sees. -/
def lateLoad : Load := { t := tk, j := 0, seq := 3, lanes := 1, lane := 0, pa := 0x10000, ty := .n32, writes := [.v 0 5 allOnes 0 (some false)] }

theorem witness_FencesAndStorePerformance_late :
    let tm := team0 fun sh => { sh with pend := [{ seq := 3, waits := 1 }] }
    let mark : Nat × Write := (0, { sheaf := tk * 16, lanes := 1, iss := 4, acq := true })
    let st : Nat × Write := (0, { pa := 8, bytes := [1], sheaf := tk * 16, lanes := 1, vis := 1 })
    let s : State := { withTeam tm with loads := [lateLoad], stores := [mark, st] }
    s.loads[0]? = some lateLoad ∧ s.team? lateLoad.t = some tm ∧ s.stores[0]? = some mark ∧ mark.2.isMark = true ∧
    s.loadsOf mark.2.sheaf mark.2.lanes mark.2.iss ≠ [] ∧ st ∈ s.stores ∧ 1 ≤ st.2.vis ∧ st.2.sheaf = tm.key * 16 + 0 := by decide

/-- A store that stands behind a release mark, not yet performed within its scope. -/
theorem witness_FencesAndStorePerformance_release :
    let st : Nat × Write := (0, { pa := 8, bytes := [1], sheaf := 16, lanes := 1 })
    let mark : Nat × Write := (0, { sheaf := 16, lanes := 1, rel := true, scope := 3 })
    let s : State := { s0 with stores := [st, mark, st] }
    s.stores[1]? = some mark ∧ s.stores[0]? = some st ∧ mark.2.isMark = true ∧ st.2.isMark = false ∧ mark.2.rel = true ∧ st.2.vis < mark.2.scope ∧
    st.2.lanes &&& mark.2.lanes ≠ 0 := by decide

/-! ### Witnesses: forms and boundaries of the core's, engines' and homes' statements -/

/-- A request toward G1 that must wait for the rail; a guard that is true nowhere. -/
theorem witness_StatusReadsAndRequests_wait : ∃ i, s0.iss? {} = some i ∧ (∀ l ∈ i.on, (i.sh.u 4).bits.toNat ≤ 8 ∧ (i.sh.u 4).tag = false ∧ l ∉ i.aG) ∧
    ((i.on.map fun _ => (i.sh.u 4).bits.toNat).foldl min 8 < s0.effectiveGrade i.cluster ∧ (s0.cluster i.cluster).serves s0.time 1 = false) ∧
    ∃ k, s0.iss? { gn := true } = some k ∧ k.on = [] := ⟨_, rfl, by decide, by decide, _, rfl, by decide⟩

/-- A growth by 256 units is more than the free pool holds. -/
theorem witness_RoleResults_waits : let r : RoleRow := { k := 1, regs := 2048 }
    let tm := { team0 id with st := { fetchTeam.st with roles := [{ k := 0, regs := 128 }, r] } }
    let s := (withTeam tm).modCore 0 fun c => { c with borrow := [(tk, 0, 1)] }
    (s.core 0).borrow = (tk, 0, 1) :: [] ∧ s.team? tk = some tm ∧ tm.st.role? 1 = some r ∧
    s.freePool 0 = 240 ∧ tm.toBorrow 0 r ≤ s.freePool 0 ∧
    ((s.modTeam tk fun x => { x with sheaves := x.sheaves ++ [sheaf0] }).freePool 0 < tm.toBorrow 0 r) := by decide

/-- The guarded team of `commitTeam` has no commit under way and no store of its share out. -/
theorem witness_TimingAndAging_commitReady : ∃ g, commitTeam.guarded = some g ∧ g.committing = false ∧
    (withTeam commitTeam).shareOut tk = false ∧ (commitTeam.sheaf 0).hold = .commit := ⟨_, rfl, rfl, rfl, rfl⟩

/-- A rollback: a lane waited for its page at the checkpoint, another at a barrier; one larder line has been written since. -/
theorem witness_TimingAndAging_rollback :
    let g : Guarded := { sheaves := [{ strands := [{ run := .parked 5, park := .page 0 0 }, { run := .parked 2, park := .barrier none }] }]
                         undo := [(0, List.replicate 128 7, 0)] }
    let tm := { team0 id with guarded := some g }
    (withTeam tm).team? tk = some tm ∧ tm.guarded = some g ∧ g.backed = true ∧ g.rollbacks < 4 ∧ g.sheaves[0]?.isSome := by decide

/-- An earlier FADD's result is outstanding when a load's has returned. -/
theorem witness_TimingAndAging_outstanding : let tm := team0 fun sh => { sh with pend := [
      { seq := 6, due := some 9, writes := [.v 0 5 allOnes 4 (some false)] }, { seq := 7, writes := [.v 0 5 allOnes 3 (some false)] }] }
    ∃ p, (tm.sheaf 0).pend.find? (fun x => x.seq == 7 && x.due.isNone && x.ready && x.waits == 0) = some p ∧ p.slotOf = 0 ∧
      ((tm.sheaf 0).pend.filter fun x => decide (x.seq < 7)) ≠ [] := ⟨_, rfl, rfl, by decide⟩

/-- WLD of a tile that stands in the larder, WSWP, RDC and SCAN, the array forms approximate. -/
theorem witness_LatchAndArrayEntries_forms : ∀ op ∈ [SeqOp.wld, .wswp, .rdc, .scan, .mma], let tm := finishTeam { op := op, ty := .bf16, x := 1, apx := true }
    (withTeam tm).team? tk = some tm ∧ tm.st.larderA % 128 = 0 ∧ ∃ e ∈ tm.matrix.queue, tm.matrix.entry? 0 = some e ∧ e.op = op ∧
    (e.started = true ∧ tm.entryHeld e = false ∧ (withTeam tm).chainOf (clusterOfCore tm.core) tk e.id = none) ∧ e.addr % 128 = 0 ∧
    (withTeam tm).entryError tm tm e e.addr e.desc e.rows = none ∧ (∀ q ∈ tm.matrix.queue, q.id = 0 → q = e) ∧
    descFirst e.desc + descRows e.desc ≤ 64 ∧
    (∀ p ∈ (tm.sheaf e.sheaf).pend, p.seq = e.seq → p = { seq := e.seq, ready := false }) := by decide

set_option maxRecDepth 8000 in
theorem witness_LatchAndArrayEntries_upto : let tm := finishTeam { op := .mma, ty := .f32 }
    let e : SeqEntry := { op := .mma, ty := .f32, started := true, seq := 3, desc := 0x00020011 }
    let u := { tm with matrix := { tm.matrix with queue := [e] } }
    u.matrix.entry? 0 = some e ∧ 16 < descRows e.desc ∧ (withTeam u).entryError u u e e.addr e.desc 16 = none := by decide

theorem witness_JobIssueAndWaits_guard : ∃ i, (withTeam (jobTeam [])).iss? { gn := true } = some i ∧ i.on = [] ∧ i.batch ≠ [] ∧
    (60 : Nat) < ({ sd := 61, st := 20, sn := true } : OpE).sd := ⟨_, rfl, by decide, by decide, by decide⟩

/-- One unit of CPYR within the larder; one of CPOS, whose index word at 128 names row 0; one of CPY to global memory. -/
def moveJob (k : JobKind) : Job :=
  match k with
  | .cpos => { copyJob 1 0 with kind := .cpos, d2 := 0x0000000800010001, d3 := 0x0000008000000011 }
  | .cpyr => { copyJob 1 0 with kind := .cpyr, ty := .f32 }
  | _ => { copyJob 1 0 with d1 := 0x20000, d3 := 1 }

theorem witness_JobProgress_kinds : ∀ k ∈ [JobKind.cpyr, .cpos, .cpy], let j := moveJob k
    let tm := jobTeam [j]
    j.kind = k ∧ (withTeam tm).unitFree tm j = true ∧ j.moves = true ∧ tm.waitsRail = false ∧ j.wp < j.size ∧ j.source = none ∧ j.target = none ∧
    j.acked = false ∧ j.ssp = 1 ∧ j.row = none ∧ j.src % 128 + 8 ≤ 128 ∧ tm.st.larderA % 128 = 0 ∧ tm.larderError j.src 8 = false ∧
    (k = .cpyr → j.dsp = 1 ∧ j.dst % 128 + 4 ≤ 128 ∧ tm.larderError j.dst 4 = false) ∧
    (k = .cpos → tm.larderError j.idx 4 = false ∧ tm.larderGrade j.idx = 8 ∧
      bytesNat ((List.range 4).map fun n => tm.larderByte (j.idx + n)) = 0 ∧ j.rowBytes * (0 + 1) ≤ j.srcLen) := by decide

theorem witness_JobProgress_global : let tm := jobTeam [moveJob .cpy]
    JobPlace (withTeam tm) tm 0 0x20000 false true 0x10000 8 ∧ (moveJob .cpy).dsp = 0 ∧ (withTeam tm).preciseCellar 0x10000 = false ∧
    SideOk (withTeam tm) tm 1 0 8 := by
  refine ⟨.inr ⟨rfl, by decide, { va := 0x20000, pa := 0x10000 }, rfl, rfl, rfl, fun _ => rfl, fun _ => rfl, by decide,
    fun g h => by cases (show none = some g from h)⟩, by decide, by decide, by decide, by decide, .inl (by decide)⟩

/-- DTAB of a table of two symbols of length 1, and of one without a symbol; DEC of 64 symbols 0 under the first. -/
theorem witness_JobProgress_tables : ∀ larder ∈ [[(0, (1 : Byte)), (1, 1)], []],
    let j : Job := { seq := 1, state := 1, kind := .dtab, d3 := 1 }
    let tm := { jobTeam [j] with larder := larder }
    j.moves = true ∧ (withTeam tm).unitFree tm j = true ∧ j.ssp = 1 ∧ tm.larderBad = [] ∧ j.src % 8 = 0 ∧ tm.st.larderA ≤ j.src ∧ j.so = none ∧
    (GoodTable ((List.range 256).map fun k => (tm.larderByte (j.src + k)).toNat) ↔ larder ≠ []) := by
  unfold GoodTable; decide +kernel

def decTable : List Nat := 1 :: 1 :: List.replicate 254 0

theorem witness_JobProgress_decoder : let j : Job := { seq := 1, state := 1, kind := .dec, d2 := 0x0000000100000108, d3 := 1 }
    let tm := { jobTeam [j] with decoder := [(0, decTable)] }
    j.moves = true ∧ (withTeam tm).unitFree tm j = true ∧ j.wp < j.size ∧ j.wp % 128 = 0 ∧ j.ssp = 1 ∧ tm.larderBad = [] ∧ tm.st.larderA ≤ j.src ∧
    tm.decoder.find j.chan = some decTable ∧ decTable.length = 256 ∧ GoodTable decTable ∧ decTable.getD 0 0 ≠ 0 ∧
    (∀ k < 64, (tm.larderByte (j.src + 256 * j.tiles + k / 8)).getLsbD (7 - k % 8) = (canonicalCode decTable 0).testBit 0) ∧
    256 * j.tiles * 8 + 64 ≤ 8 * j.len := by
  unfold GoodTable; decide +kernel

theorem witness_JobProgress_fails : let j : Job := { copyJob 1 0 with fail := some (0x702, 0x90000) }
    j.fail = some (0x702, 0x90000) ∧ j.state = 1 ∧ j.so = none := by decide

/-- A registration whose queue entry holds an error. -/
theorem witness_CompletionObjects_error : let r := { registration with bad := true }
    let s := homeState waitTeam { stg := true, cls := 2, state := 1 } r
    (s.cluster 8).queue = [r] ∧ r.clock = [] ∧ r.bad = true ∧ s.parked (lineOf r.pa) = [] := by decide

theorem witness_AtomicIssue_loads : ∃ i, s0.iss? {} = some i ∧ s0.loadsOf (i.t * 16 + i.j) (BitVec.allOnes 32) i.seq = [] ∧ s0.stores = [] :=
  ⟨_, rfl, by decide, rfl⟩

/-- A narrow atomic, a float one, and one of an approximate page. -/
theorem witness_AtomicService_forms : ∀ r ∈ [{ atomicReq with ty := .s8 }, { atomicReq with fn := 8, ty := .f32 },
      { atomicReq with pa := 0x20000, grade := 4 }],
    let s := (withTeam atomicTeam).modCluster (homeOf r.pa) fun c => { c with queue := [r] }
    s.judge r = .plain ∧ (r.fn ≤ 7 ∧ r.ty.float = false ∨ r.fn = 8 ∧ r.ty.float = true) ∧ 8 ≤ r.ty.width ∧ r.key = [] ∧ r.clock = [] ∧ r.bad = false ∧
    s.poisonAt r.pa (r.ty.width / 8) = false ∧ (s.die (ownerOf r.pa)).inbox = [] := by decide

/-- Two contributions of launch 1 to one word, at one home. -/
theorem witness_AtomicService_buffers :
    let s := { s0 with launches := [{ n := 1, state := 1 }], clusters := [(homeOf 0x10000, { reorder := [
      { launch := 1, key := [0, 0, 0, 1, 0], pa := 0x10000, ty := .f32, e := 0x3F800000 },
      { launch := 1, key := [0, 0, 0, 0, 0], pa := 0x10000, ty := .f32, e := 0x40000000 }] })] }
    s.launch? 1 = some { n := 1, state := 1 } ∧ SMap.sorted s.clusters = true ∧
    ∀ e ∈ s.clusters, ∀ x ∈ e.2.reorder, x.launch = 1 → x.bad = false ∧ x.grade = 8 := by decide

/-- A transition that releases (class 2, from no state, transition 0). -/
theorem witness_StagedService_release : let r := { stagedReq with kind := .xtr, trans := 0 }
    let s := homeState parkedTeam { stg := true, cls := 2, state := 0 } r
    s.judge r = .done 0x8640 ∧ s.lineBad r.pa = false ∧ eRel 0x8640 = true ∧ s.releaseClear r = true := by decide

/-- RENORM: position 1 arrives last of two, position 0 is held; a slot past its deadline with position 1 missing; the mesh cycle's intake is over. -/
def renormGate : Gate := { n := 2, wgt := [0x3F800000, 0x40000000], deadline := some 0 }

def renormCtx : Ctx := { ctx1 { st := 2, gate := some renormGate, arrived := 1, held := [(0, List.replicate 128 0)] } with
  cfg := cw + 0x0100000000000000, tookAt := some 0 }

set_option maxRecDepth 8000 in
theorem witness_CombineService_renorm : let c := renormCtx
    c.renorm = true ∧ (c.slot 0).gate = some renormGate ∧ (c.slot 0).ready = false ∧ (c.slot 0).next ≤ renormGate.n ∧ renormGate.n ≤ 8 ∧
    (c.slot 0).arrived.getLsbD 0 = true ∧ (c.slot 0).arrived.getLsbD 1 = false ∧
    (c.slot 0).held.find? (fun h => h.1 == 0) = some (0, List.replicate 128 0) ∧
    (∀ h ∈ (c.slot 0).held, h.1 ≠ 1) ∧ (combineState [(1, c)] slotTeam).ctx? 0 1 = some c ∧
    (combineState [(1, c)] slotTeam).ctxPhased c = false ∧ c.tookAt = some (combineState [(1, c)] slotTeam).time := by decide

/-- A ready slot with a DONE object, which holds an error or whose row has no page: the object can be reached, or cannot. -/
def doneSlot (done : Nat) : CSlot :=
  { st := 2, gate := some { dest := 0x90000, done := done }, ready := true, bad := true, arrived := 1, pres := 1 }

def doneState (done : Nat) : State :=
  let s := combineState [(1, ctx1 (doneSlot done))] slotTeam
  { s with pages := [{ va := 0x40000, pa := 2 ^ 44 }] }.modDie 0 fun d => { d with metas := [(2 ^ 44, { stg := true, cls := 2 })] }

set_option maxRecDepth 8000 in
theorem witness_CombineService_done : ∀ done ∈ [0x40000, 0x90000],
    (doneState done).ctx? 0 1 = some (ctx1 (doneSlot done)) ∧ (ctx1 (doneSlot done)).releasableNow 0 = true ∧
    0 ∉ freeQueue (ctx1 (doneSlot done)) ∧ done ≠ 0 ∧ (doneState done).rowLines 0 0x90000 128 = none ∧
    ((doneState done).pageOf 0 done = if done = 0x90000 then none else some { va := 0x40000, pa := 2 ^ 44 }) ∧
    (doneState done).parked (2 ^ 44) = [] ∧ (doneState done).lineBad (2 ^ 44) = false ∧ ownerOf (2 ^ 44) = 0 ∧
    ((doneState done).die 0).inbox = [] := by decide +kernel

theorem witness_CombineService_doneJudge (v : Word) (t : List Nat) :
    (doneState 0x40000).judge { kind := .store, pa := 2 ^ 44, va := 0x40000, ty := .n64, trans := 0, e := v, clock := t } = .done 0x8640 := by
  have h : (doneState 0x40000).judge { kind := .store, pa := 2 ^ 44, va := 0x40000, ty := .n64, trans := 0 } = .done 0x8640 := by decide +kernel
  have hm : (doneState 0x40000).metaOf (2 ^ 44) = { stg := true, cls := 2 } := by decide +kernel
  unfold State.judge at h ⊢
  simp only [hm] at h ⊢
  exact h

set_option maxRecDepth 8000 in
/-- A slot without an error that may be released at once. -/
theorem witness_CombineService_releaseNow : (ctx1 { st := 2, gate := some { dest := 0x20000 }, ready := true, arrived := 1, pres := 1 }).releasableNow 0
    = true := by decide

/-! ### Witnesses: forms and boundaries of the package's, launches' and host's statements -/

/-- Lanes that packages 9 and 4 have answered. -/
theorem witness_SettleAndPrivilege_reached : ∃ i, (withTeam (team0 fun sh => { sh with
      strands := List.replicate 32 { pc := 0x10000, run := .active, pkgs := [9, 4] } })).iss? {} = some i ∧ i.reached = [9, 4] := ⟨_, rfl, by decide⟩

/-- A page operation that waits for its cover: every die's clock has reached it, or die 1's has not. -/
def finishState (f : Finish) : State :=
  { withTeam (team0 fun sh => { sh with pend := [{ seq := 3, ready := false }] }) with finishes := [f] }

theorem witness_PageOperations_finish : ∀ c ∈ [[], [1]], let f : Finish := { cover := c, map := some { va := 0x90000 }, t := tk, seq := 3 }
    (finishState f).finishes = [f] ∧ f.drain = [] ∧ f.copy = none ∧ f.sync = none ∧ ((finishState f).team? f.t).isSome = true ∧
    (c = [] ↔ ∀ e < 16, ∀ q < 16, f.cover.getD q 0 ≤ ((finishState f).die e).vc.getD q 0) := by decide

theorem witness_PageOperations_quiet : let s := mapState 0x90000 0x90000 0x68
    s.loads = [] ∧ s.fabric.copies = [] ∧ (∀ e ∈ s.dies, e.2.parkq = [] ∧ e.2.unstamped = []) ∧
    ((s.die 0).stampedAt ≠ some s.time) ∧ (∀ p ∈ ((team0 id).sheaf 0).pend, p.seq ≠ 4) := by decide

/-- A second write of the mesh cycle, beside the first, which every other die has yet to apply. -/
theorem witness_StampsAndWalks_shares :
    let m : Stamped := { die := 0, stamp := [1], writes := [{ pa := 8, bytes := [1] }] }
    let d0 : Die := { vc := [1], stampedAt := some 0, unstamped := [{ pa := 64, bytes := [2] }] }
    let s := { s0 with dies := (0, d0) :: (List.range 15).map fun k => (k + 1, { inbox := [m] }) }
    (s.die 0).stampedAt = some s.time ∧ (s.die 0).unstamped[0]? = some { pa := 64, bytes := [2] } ∧
    ∀ e < 16, e ≠ 0 → ∃ x ∈ (s.die e).inbox, x.die = 0 ∧ x.stamp.getD 0 0 = (s.die 0).clock.getD 0 0 := by decide

/-- No page of the region, and one whose page the service had taken away. -/
theorem witness_StampsAndWalks_kept : let g : GRegion := { va := 0x50000, bytes := 65536, asked := true }
    (walkState 5 true).keptPage g 0 (5 * 65536) = none ∧
    (let s := { walkState 5 true with service := { (walkState 5 true).service with regions := [g], unmapped := [{ va := 0x50000, pa := 0x50000 }] } }
     (s.keptPage g 0 (5 * 65536)).isSome = true) := by decide

set_option maxRecDepth 8000 in
/-- A stage entry of 65,536 teams; a record without a code object. -/
theorem witness_LaunchAcceptanceAndProgress_fields :
    (∃ k < field (recordBytes [(0x10008, 1), (0x10082, 1)]) 8 1, entryFieldsBad (recordBytes [(0x10008, 1), (0x10082, 1)]) k = true) ∧
    recordBad (recordBytes [(0x10008, 1), (0x10082, 1)]) = false ∧
    entryFieldsBad (recordBytes (launchMem false)) 0 = false ∧ ((launchState (launchMem false) {}).service.codes.find? fun q =>
      q.addr == field (recordBytes (launchMem false)) 0 8 && q.vdev == field (recordBytes (launchMem false)) 9 1) = none := by decide

/-- Every die's stacks are one page: there is no room for the launch's spill region. -/
theorem witness_LaunchAcceptanceAndProgress_room :
    let s := { launchState (launchMem false) (launchService 8) with
      pages := (List.range 16).map fun d => { va := 2 ^ 40 * (d + 1), pa := 2 ^ 40 * d, size := 2 ^ 38 } }
    s.makeRoom 0 0 [0] [stageOf (recordBytes (launchMem false)) 0 { items := 32, roles := [{ regs := 8 }] }] = none := by decide +kernel

/-- Two saved teams of one chain, whose lanes are active. -/
theorem witness_PlacementOfTeams_chain : let q : SeqEntry := { op := .chain, desc := 7 * 2 ^ 48 }
    let v : Saved := { team := { team0 id with matrix := { queue := [q] } } }
    let y : Saved := { team := { team0 id with key := tk + 1, lid := 1, matrix := { queue := [q] } } }
    Lives v ∧ Lives y ∧ ([v, y].map fun x => x.team.key).Nodup ∧ (∃ q ∈ v.team.chainKeys, q ∈ y.team.chainKeys) :=
  ⟨⟨0, by decide, rfl, 0, by decide⟩, ⟨0, by decide, rfl, 0, by decide⟩, by decide, by decide⟩

/-- A SAVECTX waits beside a resize's decision: its 10 µs have passed, or not. -/
theorem witness_CaptureAndKill_resizeAsk : let a : SaveAsk := { since := 5, record := 0x20000, t := tk + 1, j := 0, seq := 3 }
    let tm := { restTeam 2 with saveAsk := some a }
    tm.preempt = .decided 0 2 0x20000 (tk + 1, 0, 3) ∧ tm.saveAsk = some a ∧ a.since + 20000 ≤ (restState 2 20005).time ∧
    (restState 2 20004).time < a.since + 20000 ∧ (∃ q ∈ ((restState 2 7).sheafAt a.t a.j).pend, q.seq = a.seq ∧ q.writes = [Wr.u 5 allOnes 0 (some false)]) := by
  decide

/-- A field that neither instruction uses; a record area whose pages are all there; a resize's decision with and without a SAVECTX beside it. -/
theorem witness_ContextInstructions_forms : contextFields { b := { uni := true, idx := 20 } } = false ∧
    contextFields { b := { uni := true, idx := 20 }, sel := 1 } = true ∧
    (∃ i, s0.iss? {} = some i ∧ ∀ x ∈ i.recordPages s0 0x20000 4096, ∃ m pa, x = .ok m pa) ∧
    (team0 id).recordBound ≤ 2 ^ 24 ∧
    (∃ e ∈ (ctxState 1 0 (.decided 0 2 0 (0, 0, 0))).teams, e.2.preempt = .decided 0 2 0 (0, 0, 0) ∧ e.2.saveAsk = none) := by
  refine ⟨by decide, by decide, ⟨_, rfl, ?_⟩, by decide, by decide⟩
  have h : ∀ i ∈ (s0.iss? {}).toList, ∀ x ∈ i.recordPages s0 0x20000 4096, (match x with
    | .ok _ _ => true
    | _ => false) = true := by decide
  intro x hx
  have := h _ (by simp [show s0.iss? {} = some _ from rfl]) x hx
  cases x <;> simp at this ⊢

theorem witness_ContextInstructions_lives : Lives { team := team0 id } := ⟨0, by decide, rfl, 0, by decide⟩

/-- A restored team that waits for G2, with the RESTCTX that it answers. -/
theorem witness_PowerEvents_restore : let tm := { team0 id with waitsRail := true, grade := 2, railAnswer := some (tk, 0, 3) }
    let s := { withTeam tm with clusters := [(0, { atarget := 2 })], time := 10000 }
    (s.cluster 0).amoveAt + moveTime (s.cluster 0).afrom (gradeVolts (s.cluster 0).atarget) ≤ s.time ∧ s.team? tk = some tm ∧ tm.waitsRail = true ∧
    (s.cluster 0).atarget ≤ tm.railNeed := by decide

/-- A header that is not laid out; a closed session; a full journal of commands under way. -/
theorem witness_CommandProtocol_malformed : let m : Cmd := { cmd 4 with zero := 1 }
    let n : Cmd := { cmd 4 with length := 3 }
    m.zero ≠ 0 ∧ n.length ≠ n.body.length ∧ (cmd 4).zero = 0 ∧ (cmd 4).length = (cmd 4).body.length ∧ journalFull (hostState 0).service.journal = false ∧
    ({ id := 5, high := 3, isOpen := false } : Session).isOpen = false := by decide

theorem witness_CommandProtocol_full : ∃ q : List JRec, 65536 ≤ q.length ∧ ∀ r ∈ q, r.status = 0xFFFF :=
  ⟨List.replicate 65536 { session := 5, seq := 3, status := 0xFFFF }, List.length_replicate.ge, fun r h => by rw [List.eq_of_mem_replicate h]⟩

/-- An OPEN that is not its session's first command, and one that is. -/
theorem witness_SessionAndServiceCommands_first : ({ cmd 2 with session := 6 } : Cmd).seq ≠ 1 ∧ ({ cmd 0 with session := 6 } : Cmd).seq = 0 ∧
    ({ cmd 1 with session := 6 } : Cmd).seq = 1 ∧ (hostState 0).bootFail = none := by decide

/-- A cellar region of the session's device that no launch has taken and that holds no object. -/
theorem witness_MemoryAndLaunchCommands_free : let r : Region := { pa := 2 ^ 44, bytes := 65536, va := 0x40000 }
    let s := (hostState 0).modDie 0 fun d => { d with regions := [r] }
    s.regionAt 0 0x40000 = some r ∧ r.launch = none ∧ r.ctx = none ∧ (s.die (ownerOf r.pa)).metas = [] ∧ s.regionAt 0 0x90000 = none ∧
    (∀ g ∈ s.service.regions, ¬ (g.asked = true ∧ g.vdev = 0 ∧ g.va = 0x90000)) ∧ (s.freshVa 65536).isSome = true := by decide

/-- A session that has subscribed, with one notice unread. -/
theorem witness_PartitionAndFabricCommands_ring : let r : NoticeRing := { session := 5, write := 1 }
    [r].find? (fun r => r.session == 5) = some r ∧ (∀ q ∈ (hostState 1).fabric.rings, q.session ≠ 5) := by decide

/-! ### Single steps: values from the spec's own examples and tables -/

/-- The resident team with these registers in every lane. -/
def regState (vs : List (Nat × Word)) : State := withTeam (team0 fun sh => { sh with
  vreg := (List.range 32).flatMap fun l => vs.map fun v => (l * 2048 + v.1, { bits := v.2 }) })

/-- The bits that the one outstanding result writes to a register of lane 0. -/
def gives (o : Out) (k : Nat) : Option Word :=
  match o with
  | .next t => ((t.sheafAt tk 0).pend.flatMap fun p => p.writes).findSome? fun w => match w with
      | .v 0 e _ b _ => if e == k then some b else none
      | .u e _ b _ => if e == k then some b else none
      | _ => none
  | _ => none

/-- And to a predicate of lane 0. -/
def givesP (o : Out) (k : Nat) : Option Bool :=
  match o with
  | .next t => ((t.sheafAt tk 0).pend.flatMap fun p => p.writes).findSome? fun w => match w with
      | .p 0 e v _ => if e == k then v else none
      | _ => none
  | _ => none

/-- R123's examples: 100 + 100 saturates to 127; the upper half of 0x8000_0000² is 0x4000_0000. -/
theorem test_iadd_sat : (gives (exec (.iadd {} { d := 5, a := 1, bc := .imm 100, ty := .s8, x := 1 }) (regState [(1, 100)])) 5).map
    (elem 8 0) = some 127 := by decide
theorem test_imulh : (gives (exec (.imulh {} { d := 5, a := 1, bc := .regs { idx := 1 } {}, ty := .n32 })
    (regState [(1, 0x80000000)])) 5).map (elem 32 0) = some 0x40000000 := by decide
theorem test_iadd_wraps : gives (exec (.iadd {} { d := 5, a := 1, bc := .regs { idx := 1 } {}, ty := .n64 })
    (regState [(1, 0x8000000000000001)])) 5 = some 2 := by decide

/-- R125's example: 4 bits from bit 8 of 0xF00, sign extended. -/
theorem test_bfx : (gives (exec (.bfx {} { d := 5, a := 1, bc := .imm 0x0408, ty := .s32 }) (regState [(1, 0xF00)])) 5).map
    (elem 32 0) = some 0xFFFFFFFF := by decide

/-- R127's example: s4 + 8 × v1. -/
theorem test_lea : gives (exec (.lea {} { d := 5, a := 1, bc := .regs { uni := true, idx := 4 } {}, ty := .n64, x := 3 })
    (regState [(1, 5)])) 5 = some 41 := by decide

/-- R124: a zero divisor traps and writes nothing. -/
theorem test_idiv_by_zero : (match exec (.idiv {} { d := 5, a := 1, bc := .regs { idx := 9 } {}, ty := .s32 }) (regState [(1, 7)]) with
    | .next t => (t.sheafAt tk 0).pend.isEmpty && (t.sheafAt tk 0).traps.any fun q => q.causes.any fun c => c.2.1 == 0x601
    | _ => false) = true := by decide

/-- R128's example: any 16-bit element of at least 16; mode 0 compares e0 alone. -/
theorem test_icmp_any : givesP (exec (.icmp {} .ge { d := 4, a := 2, bc := .imm 0x10, ty := .n16, x := 2 }) (regState [(2, 0x100000)])) 4
    = some true := by decide
theorem test_icmp_e0 : givesP (exec (.icmp {} .ge { d := 4, a := 2, bc := .imm 0x10, ty := .n16 }) (regState [(2, 0x100000)])) 4
    = some false := by decide

/-- R129: MOVI extends with zeros; its .hi form writes the upper half alone. -/
theorem test_movi : gives (exec (.movi {} { d := 5, imm := 0x3F800000 }) s0) 5 = some 0x3F800000 := by decide

/-- R131: −0 lies below +0; a NaN operand gives the other. -/
theorem test_fmin_zeros : (gives (exec (.fmin {} { d := 5, a := 1, bc := .regs { idx := 2 } {}, ty := .f32 })
    (regState [(1, 0), (2, 0x80000000)])) 5).map (elem 32 0) = some 0x80000000 := by decide
theorem test_fmax_nan : (gives (exec (.fmax {} { d := 5, a := 1, bc := .regs { idx := 2 } {}, ty := .f32 })
    (regState [(1, 0x7FC00000), (2, 0x3F800000)])) 5).map (elem 32 0) = some 0x3F800000 := by decide

/-- 1 + 2⁻²⁴ lies half-way: ties to even, and up under RUP (IEEE 754, R130). -/
theorem test_fadd_rne : (gives (exec (.fadd {} { d := 5, a := 1, bc := .regs { idx := 2 } {}, ty := .f32 })
    (regState [(1, 0x3F800000), (2, 0x33800000)])) 5).map (elem 32 0) = some 0x3F800000 := by decide
theorem test_fadd_rup : (gives (exec (.fadd {} { d := 5, a := 1, bc := .regs { idx := 2 } {}, ty := .f32, rnd := .rup })
    (regState [(1, 0x3F800000), (2, 0x33800000)])) 5).map (elem 32 0) = some 0x3F800001 := by decide

/-- The worked conversion of 02: 3.0, −0.75, 0.013671875, 0.1, 0.062255859375 and −0.0 with spread 6. -/
def blockTeam : Team := team0 fun sh => { sh with
  ureg := [(5, { bits := 6 })]
  vreg := [(12, { bits := 0xBF40000040400000 }), (13, { bits := 0x3DCCCCCD3C600000 }), (14, { bits := 0x800000003D7F0000 })] }

theorem test_cvtb_elements : let o := exec (.cvtb {} { d := 20, a := 12, bc := .regs { uni := true, idx := 5 } { idx := 21 }, ty := .tb8 }) (withTeam blockTeam)
    gives o 20 = some 0x8041420ECC70 ∧ (gives o 21).map (fun w => (elem 8 0 w, elem 8 1 w)) = some (0x7A, 0x80) := by decide

/-- R256's example: three clusters of a die that want B2, cluster 4 holding a grant, the pointer at 3. -/
def grantState : State :=
  let k (c : Nat) : Team := { team0 id with key := tk + c, core := 8 * c, lid := c, level := 6 }
  { (s0.modDie 0 fun d => { d with pointer := 3 }) with
    teams := [(tk + 2, k 2), (tk + 4, k 4), (tk + 9, k 9)]
    clusters := [(2, { busy := true, bal := 20 }), (4, { busy := true, bal := 20, b2g := true, nextLevel := 6 }), (9, { busy := true, bal := 20 })] }

theorem test_boundary_grants : let u := grantState.powerDie 0
    ((u.cluster 2).nextLevel, (u.cluster 2).bal) = (5, 19) ∧ ((u.cluster 4).nextLevel, (u.cluster 4).bal) = (6, 18) ∧
    ((u.cluster 9).nextLevel, (u.cluster 9).bal) = (6, 18) ∧ (u.die 0).pointer = 10 := by decide

/-- R42: a write of P15 is ignored. -/
theorem test_p15 : (Strand.setP {} 15 (some false) (some true)).pval 15 = true ∧ (Strand.setP {} 15 (some false) (some true)).ptag 15 = false := by
  decide

/-- R98: after a NOP its lanes stand at the next instruction. -/
theorem test_nop_advances : (match exec (.nop {} {}) s0 with
    | .next t => ((t.sheafAt tk 0).strand 0).pc == 0x10008 && ((t.sheafAt tk 0).strand 31).pc == 0x10008
    | _ => false) = true := by decide

set_option maxRecDepth 8000 in
/-- R157: a store of lane 0 stands among the stores that are not yet performed. -/
theorem test_store_issues : (match exec (.st {} { t := 4, base := some 2, index := some 1, ty := .n8 }) (regState [(1, 0), (4, 0xAB)]) with
    | .next t => t.stores.any fun w => w.2.pa == 0x10000 && w.2.bytes == [0xAB]
    | _ => false) = true := by decide

end Sys2Proof.Tests
end

section
/-! PROOFS. The integer family (R123): each member is the element-wise instruction of its row, and its element function
agrees with the row's exact result, clamped under .sat, mod 2^w. -/

namespace Sys2Proof.Machine

/-! ### Patterns mod 2^w (R25) -/

theorem ofInt_natCast (w n : Nat) : ofInt w (n : Int) = n % 2 ^ w := by
  unfold ofInt
  exact_mod_cast Int.toNat_natCast (n % 2 ^ w)

/-- An exact result that is a w-bit number is its own pattern. -/
theorem ofInt_eq_of_lt {w n : Nat} (h : n < 2 ^ w) : ofInt w (n : Int) = n := by
  rw [ofInt_natCast, Nat.mod_eq_of_lt h]

theorem ofInt_congr {w : Nat} {x y : Int} (h : x ≡ y [ZMOD 2 ^ w]) : ofInt w x = ofInt w y :=
  congrArg Int.toNat h

/-- The integer of a pattern differs from its number by 0 or 2^w. -/
theorem toInt_eq_or (sg : Bool) (w v : Nat) : toInt sg w v = v ∨ toInt sg w v = v - 2 ^ w := by
  unfold toInt
  split
  · exact .inr rfl
  · exact .inl rfl

theorem toInt_modEq (sg : Bool) (w v : Nat) : toInt sg w v ≡ v [ZMOD 2 ^ w] := by
  rcases toInt_eq_or sg w v with h | h <;> rw [h]
  exact Int.sub_emod_right _ _

/-! ### Shifts -/

/-- SHL in either signedness: a shift of w or more leaves nothing. -/
theorem ofInt_toInt_mul_two_pow (sg : Bool) (w a b : Nat) :
    ofInt w (toInt sg w a * 2 ^ b) = if b ≥ w then 0 else a * 2 ^ b % 2 ^ w := by
  have h : ofInt w (toInt sg w a * 2 ^ b) = a * 2 ^ b % 2 ^ w := by
    rw [ofInt_congr ((toInt_modEq sg w a).mul_right _), ← ofInt_natCast]
    push_cast
    rfl
  rw [h]
  split
  · exact Nat.mod_eq_zero_of_dvd ((Nat.pow_dvd_pow 2 ‹b ≥ w›).mul_left a)
  · rfl

/-- A quotient of a number of magnitude at most 2^w is its sign from a shift of w on. -/
theorem ediv_two_pow_min {w : Nat} {x : Int} (h0 : -2 ^ w ≤ x) (h1 : x < 2 ^ w) (b : Nat) :
    x / 2 ^ min b w = x / 2 ^ b := by
  rcases Nat.le_total b w with hb | hb
  · rw [Nat.min_eq_left hb]
  · have hp : (2 : Int) ^ w ≤ 2 ^ b := pow_le_pow_right₀ (by norm_num) hb
    rw [Nat.min_eq_right hb]
    rcases le_or_gt 0 x with hx | hx
    · rw [Int.ediv_eq_zero_of_lt hx h1, Int.ediv_eq_zero_of_lt hx (h1.trans_le hp)]
    · rw [Int.ediv_eq_neg_one_of_neg_of_le hx (by omega), Int.ediv_eq_neg_one_of_neg_of_le hx (by omega)]

/-- SHR's clamp of the shift amount changes nothing. -/
theorem toInt_ediv_two_pow_min (sg : Bool) {w a : Nat} (ha : a < 2 ^ w) (b : Nat) :
    toInt sg w a / 2 ^ min b w = toInt sg w a / 2 ^ b := by
  have ha' : (a : Int) < 2 ^ w := by exact_mod_cast ha
  apply ediv_two_pow_min <;> rcases toInt_eq_or sg w a with h | h <;> omega

/-! ### Bitwise members -/

/-- NOT of a w-bit number. -/
theorem xor_two_pow_sub_one {w a : Nat} (ha : a < 2 ^ w) : a ^^^ (2 ^ w - 1) = 2 ^ w - 1 - a := by
  apply Nat.eq_of_testBit_eq
  intro k
  rw [Nat.sub_sub, Nat.add_comm 1, Nat.testBit_two_pow_sub_succ ha, Nat.testBit_xor, Nat.testBit_two_pow_sub_one]
  by_cases hk : k < w
  · simp [hk]
  · simp [hk, Nat.testBit_lt_two_pow (ha.trans_le (Nat.pow_le_pow_right two_pos (not_lt.1 hk)))]

/-- NOT's element is a w-bit number, the exact result. -/
theorem not_pattern {w a : Nat} (ha : a < 2 ^ w) :
    a ^^^ (2 ^ w - 1) < 2 ^ w ∧ (2 : Int) ^ w - 1 - a = (a ^^^ (2 ^ w - 1) : Nat) := by
  rw [xor_two_pow_sub_one ha]
  refine ⟨by omega, ?_⟩
  push_cast [Nat.cast_sub (show a ≤ 2 ^ w - 1 by omega), Nat.cast_sub (Nat.one_le_two_pow (n := w))]
  rfl

/-- ANDN's element is a w-bit number, the exact result. -/
theorem andn_pattern {w a b : Nat} (hb : b < 2 ^ w) :
    a &&& (b ^^^ (2 ^ w - 1)) < 2 ^ w ∧ ((a &&& (2 ^ w - 1 - b) : Nat) : Int) = (a &&& (b ^^^ (2 ^ w - 1)) : Nat) := by
  rw [xor_two_pow_sub_one hb]
  exact ⟨Nat.and_lt_two_pow _ (by omega), rfl⟩

theorem size_eq_bitLen (a : Nat) : a.size = bitLen a := by
  unfold bitLen
  split
  · rw [‹a = 0›, Nat.size_zero]
  · exact le_antisymm (Nat.size_le.2 Nat.lt_log2_self) (Nat.lt_size.2 (Nat.log2_self_le ‹_›))

theorem popCount_eq_countP (w a : Nat) : popCount w a = (List.range w).countP fun k => a.testBit k :=
  List.countP_eq_length_filter.symm

theorem popCount_le (w a : Nat) : popCount w a ≤ w := by
  simpa [popCount] using List.length_filter_le (fun k => a.testBit k) (List.range w)

theorem bitReverse_eq_sum (w a : Nat) :
    bitReverse w a = ((List.range w).map fun k => if a.testBit k then 2 ^ (w - 1 - k) else 0).sum := by
  rw [List.sum_eq_foldl, List.foldl_map]
  rfl

/-- Distinct powers below 2^w: the first n of them leave room for 2^(w - n) more. -/
theorem sum_reversed_bits_le (w a n : Nat) (hn : n ≤ w) :
    ((List.range n).map fun k => if a.testBit k then 2 ^ (w - 1 - k) else 0).sum + 2 ^ (w - n) ≤ 2 ^ w := by
  induction n with
  | zero => simp
  | succ n ih =>
    have h2 : 2 ^ (w - n) = 2 ^ (w - 1 - n) + 2 ^ (w - 1 - n) := by
      rw [← Nat.two_mul, ← Nat.pow_succ']
      congr 1
      omega
    have hlast : (if a.testBit n then 2 ^ (w - 1 - n) else 0) ≤ 2 ^ (w - 1 - n) := by split <;> simp
    have hidx : w - (n + 1) = w - 1 - n := by omega
    have := ih (by omega)
    rw [List.range_succ, List.map_append, List.sum_append, hidx]
    simp only [List.map_cons, List.map_nil, List.sum_singleton]
    omega

/-- BREV gives a w-bit number. -/
theorem bitReverse_lt (w a : Nat) : bitReverse w a < 2 ^ w := by
  have := sum_reversed_bits_le w a w le_rfl
  rw [Nat.sub_self] at this
  rw [bitReverse_eq_sum]
  omega

/-! ### A row of the table and the instruction that runs it -/

/-- What R123 puts in a sub-element: the exact result, clamped under .sat, mod 2^w. -/
def IntRow.result (r : IntRow) (a b d : Nat) : Nat :=
  ofInt r.o.ty.width (if r.o.x % 2 = 1 then clampInt r.o.ty.signed r.o.ty.width (r.exact a b d) else r.exact a b d)

theorem IntRow.result_of_unsat {r : IntRow} (hx : r.o.x = 0) (a b d : Nat) :
    r.result a b d = ofInt r.o.ty.width (r.exact a b d) := by
  simp [IntRow.result, hx]

/-- `ins` is the element-wise instruction of row `r`: its element function gives the row's result and no flag, and a lane
faults by a zero divisor alone, in a member that divides. -/
structure IntRow.RunsAs (r : IntRow) (ins : Instr) (f : ElemFn) (bad : Iss → Nat → Option Nat) : Prop where
  exec : ∀ s, exec ins s = elemInstr r.m r.fn r.c r.o none f r.lat none bad s
  elem : ∀ a b d, a < 2 ^ r.o.ty.width → b < 2 ^ r.o.ty.width → d < 2 ^ r.o.ty.width → f a b d = (r.result a b d, 0)
  bad : bad = noBad ∨ r.divides = true ∧ bad = zeroDivisor r.m r.o

variable {ins : Instr} {c : Ctl} {o : OpR}

/-- What R117 lets the x field of a row be, in an instruction that passes its checks. -/
theorem rChecks_none_x {m fn w : Nat} {apx : Bool} (h : rChecks m fn o apx none w = none) : o.x ∈ (rRow m fn).x := by
  by_contra hx
  have hform : formBad m fn o = true := by simp [formBad, hx]
  unfold rChecks at h
  simp only [firstCause, hform, if_true] at h
  split at h <;> simp at h

/-- The same of a row without .sat. -/
theorem rChecks_none_x_zero {m fn w : Nat} {apx : Bool} (h : rChecks m fn o apx none w = none)
    (hr : (rRow m fn).x = [0]) : o.x = 0 := by
  simpa [hr] using rChecks_none_x h

/-- A member computed on the integers of its operands, with .sat. -/
theorem intInstr_runsAs {m fn n : Nat} {g : Int → Int → Int → Int} {v : Nat → Nat → Nat → Int}
    (he : ∀ s, exec ins s = intInstr m fn n c o g s)
    (hv : ∀ a b d, g (integerRow.z o a) (integerRow.z o b) (integerRow.z o d) = v a b d) :
    IntRow.RunsAs { m := m, fn := fn, c := c, o := o, lat := some n, exact := v } ins (intElem o.ty (satOf o) g) noBad where
  exec := he
  elem a b d _ _ _ := by simp [intElem, satOf, IntRow.result, ← hv, integerRow.z]
  bad := .inl rfl

/-- A member that divides: it has no .sat, and a zero divisor faults. -/
theorem divInstr_runsAs {m w : Nat} {g : Int → Int → Int → Int} {v : Nat → Nat → Nat → Int}
    (he : ∀ s, exec ins s = elemInstr m 0 c o none (intElem o.ty false g) none none (zeroDivisor m o) s)
    (hv : ∀ a b d, g (integerRow.z o a) (integerRow.z o b) (integerRow.z o d) = v a b d)
    (hc : rChecks m 0 o c.apx none w = none) (hm : (rRow m 0).x = [0]) :
    IntRow.RunsAs { m := m, fn := 0, c := c, o := o, lat := none, divides := true, exact := v } ins (intElem o.ty false g)
      (zeroDivisor m o) where
  exec := he
  elem a b d _ _ _ := by
    have hx := rChecks_none_x_zero hc hm
    rw [IntRow.result_of_unsat hx]
    exact Prod.ext (congrArg (ofInt _) (hv a b d)) rfl
  bad := .inr ⟨rfl, rfl⟩

/-- A member that has no .sat, computed on patterns. -/
theorem patternInstr_runsAs {m fn w : Nat} {f : ElemFn} {v : Nat → Nat → Nat → Int}
    (he : ∀ s, exec ins s = elemInstr m fn c o none f (some 2) none noBad s)
    (hf : ∀ a b d, a < 2 ^ o.ty.width → b < 2 ^ o.ty.width → f a b d = (ofInt o.ty.width (v a b d), 0))
    (hc : rChecks m fn o c.apx none w = none) (hm : (rRow m fn).x = [0]) :
    IntRow.RunsAs { m := m, fn := fn, c := c, o := o, exact := v } ins f noBad where
  exec := he
  elem a b d ha hb _ := by
    have hx := rChecks_none_x_zero hc hm
    rw [IntRow.result_of_unsat hx, hf a b d ha hb]
  bad := .inl rfl

/-- A bitwise member: its value is a w-bit number, which is the exact result. -/
theorem bitInstr_runsAs {m fn w : Nat} {g : Nat → Nat → Nat} {v : Nat → Nat → Nat → Int}
    (he : ∀ s, exec ins s = bitInstr m fn c o g s)
    (hg : ∀ a b d, a < 2 ^ o.ty.width → b < 2 ^ o.ty.width → g a b < 2 ^ o.ty.width ∧ v a b d = g a b)
    (hc : rChecks m fn o c.apx none w = none) (hm : (rRow m fn).x = [0]) :
    IntRow.RunsAs { m := m, fn := fn, c := c, o := o, exact := v } ins (bitElem g) noBad :=
  patternInstr_runsAs he (fun a b d ha hb => by
    obtain ⟨hlt, hv⟩ := hg a b d ha hb
    rw [hv, ofInt_eq_of_lt hlt]
    rfl) hc hm

/-! ### The table -/

/-- Every member of R123 whose checks pass runs as its row of the table says. -/
theorem integerRow_runsAs {r : IntRow} (h : integerRow ins = some r) {w : Nat}
    (hc : rChecks r.m r.fn r.o r.c.apx none w = none) : ∃ f bad, r.RunsAs ins f bad := by
  cases ins <;> cases h
  case iadd | isub | imul | imulh | imad | imin | imax | ineg =>
    exact ⟨_, _, intInstr_runsAs (fun _ => rfl) fun _ _ _ => rfl⟩
  case iabs =>
    exact ⟨_, _, intInstr_runsAs (fun _ => rfl) fun _ _ _ => (Int.abs_eq_natAbs _).symm⟩
  case idiv | irem =>
    exact ⟨_, _, divInstr_runsAs (fun _ => rfl) (fun _ _ _ => rfl) hc rfl⟩
  case and =>
    exact ⟨_, _, bitInstr_runsAs (fun _ => rfl) (fun _ _ _ _ hb => ⟨Nat.and_lt_two_pow _ hb, rfl⟩) hc rfl⟩
  case or =>
    exact ⟨_, _, bitInstr_runsAs (fun _ => rfl) (fun _ _ _ ha hb => ⟨Nat.or_lt_two_pow ha hb, rfl⟩) hc rfl⟩
  case xor =>
    exact ⟨_, _, bitInstr_runsAs (fun _ => rfl) (fun _ _ _ ha hb => ⟨Nat.xor_lt_two_pow ha hb, rfl⟩) hc rfl⟩
  case not =>
    exact ⟨_, _, bitInstr_runsAs (fun _ => rfl) (fun _ _ _ ha _ => not_pattern ha) hc rfl⟩
  case andn =>
    exact ⟨_, _, bitInstr_runsAs (fun _ => rfl) (fun _ _ _ _ hb => andn_pattern hb) hc rfl⟩
  case shl =>
    exact ⟨_, _, patternInstr_runsAs (fun _ => rfl)
      (fun _ _ _ _ _ => Prod.ext (ofInt_toInt_mul_two_pow _ _ _ _).symm rfl) hc rfl⟩
  case shr =>
    exact ⟨_, _, patternInstr_runsAs (fun _ => rfl)
      (fun _ b _ ha _ => Prod.ext (congrArg (ofInt _) (toInt_ediv_two_pow_min _ ha b)) rfl) hc rfl⟩
  case rot =>
    exact ⟨_, _, patternInstr_runsAs (fun _ => rfl) (fun _ _ _ _ _ => Prod.ext (ofInt_natCast _ _).symm rfl) hc rfl⟩
  case popc =>
    exact ⟨_, _, bitInstr_runsAs (fun _ => rfl)
      (fun a _ _ _ _ => ⟨(popCount_le _ a).trans_lt Nat.lt_two_pow_self, congrArg _ (popCount_eq_countP _ a).symm⟩)
      hc rfl⟩
  case clz =>
    exact ⟨_, _, bitInstr_runsAs (fun _ => rfl)
      (fun a _ _ _ _ => ⟨(Nat.sub_le _ _).trans_lt Nat.lt_two_pow_self, by rw [size_eq_bitLen]⟩) hc rfl⟩
  case brev =>
    exact ⟨_, _, bitInstr_runsAs (fun _ => rfl)
      (fun a _ _ _ _ => ⟨bitReverse_lt _ a, congrArg _ (bitReverse_eq_sum _ a).symm⟩) hc rfl⟩

/-! ### The column -/

/-- Element functions that agree on w-bit patterns give a lane the same result. -/
theorem Iss.elemLane_congr (i : Iss) (m fn : Nat) (o : OpR) (bx : Option Word) {f g : ElemFn}
    (h : ∀ a b d, a < 2 ^ o.ty.width → b < 2 ^ o.ty.width → d < 2 ^ o.ty.width → f a b d = g a b d) :
    i.elemLane m fn o bx f = i.elemLane m fn o bx g := by
  funext l
  simp only [Iss.elemLane, mapElems, h _ _ _ (elem_lt _ _ _) (elem_lt _ _ _) (elem_lt _ _ _)]

/-- The element function of a row's exact result. -/
def IntRow.elemFn (r : IntRow) : ElemFn := fun a b d => (r.result a b d, 0)

/-- The column of a row: its results as sub-elements, and no flags. -/
theorem IntRow.RunsAs.completes {r : IntRow} {f : ElemFn} {bad : Iss → Nat → Option Nat} (hr : r.RunsAs ins f bad)
    {s : State} {i : Iss} (hi : s.iss? r.c = some i) (hc : rChecks r.m r.fn r.o r.c.apx none i.sh.w = none)
    (hp : ∀ l ∈ i.on, i.poisoned l (readsOf r.m r.fn r.o) = false)
    (hz : r.divides = true → ∀ l ∈ i.on, zeroDivisor r.m r.o i l = none) :
    CompletesColumn ins s i r.o.u r.o.d r.lat (fun l => (i.elemLane r.m r.fn r.o none r.elemFn l).1)
      (fun l => (i.sources r.m r.fn r.o none l).2.2.2 || r.c.apx) (fun _ => 0) := by
  have hbad : ∀ l ∈ i.on, bad i l = none := by
    rcases hr.bad with rfl | ⟨hd, rfl⟩
    · exact fun _ _ => rfl
    · exact hz hd
  have hic : i.c = r.c := by
    obtain ⟨_, _, _, _, h, _⟩ := State.iss?_some hi
    exact h
  have hlane : i.elemLane r.m r.fn r.o none f = i.elemLane r.m r.fn r.o none r.elemFn :=
    Iss.elemLane_congr _ _ _ _ _ hr.elem
  have hflags (l : Nat) : (i.elemLane r.m r.fn r.o none r.elemFn l).2.2 = 0 :=
    i.elemLane_flags r.m r.fn r.o none l fun _ _ _ => rfl
  have h := elemInstr_completes (hr.exec s) hi hc hp hbad
  simpa only [hlane, Iss.elemLane_tag, hflags, hic] using h

end Sys2Proof.Machine

open Sys2Proof Sys2Proof.Machine

/-- Settles O1: every member runs as the element-wise instruction of its row of R123's table. -/
theorem integerFamilyResults : Obligations.IntegerFamilyResults := by
  intro ins r s i hr hi hc ht hp hz
  obtain ⟨f, bad, hrun⟩ := integerRow_runsAs hr hc
  exact ⟨_, hrun.completes hi hc hp hz, fun l =>
    i.elemLane_elements r.m r.fn r.o none r.elemFn l ht fun _ _ _ => ofInt_lt _ _⟩

end

section
/-! PROOFS. The latches, the bins and the array (R194, R201 to R207): what a read of a record gives, the elements of an array
entry's rows, and the finish and the interruption point of an entry that works alone. -/

namespace Sys2Proof.Machine

/-! ### Lists and sparse maps of bytes -/

theorem getD_flatMap_range {α : Type} (f : Nat → List α) (d : α) {len : Nat} (hf : ∀ k, (f k).length = len) {n i : Nat}
    (hi : i < len * n) : ((List.range n).flatMap f).getD i d = (f (i / len)).getD (i % len) d := by
  have hlen (m : Nat) : ((List.range m).flatMap f).length = len * m := by
    simp [List.length_flatMap, hf, Nat.mul_comm]
  induction n with
  | zero => simp at hi
  | succ n ih =>
    rw [List.range_succ, List.flatMap_append, List.flatMap_singleton]
    by_cases h : i < len * n
    · rw [List.getD_append _ _ _ _ (by rwa [hlen]), ih h]
    · have hq : i / len = n := Nat.div_eq_of_lt_le (by rw [Nat.mul_comm]; omega) (by rw [Nat.mul_comm]; omega)
      rw [List.getD_append_right _ _ _ _ (by rw [hlen]; omega), hlen, hq, Nat.mod_eq_sub_mul_div, hq]

theorem bytesNat_lt (bs : List Byte) : bytesNat bs < 256 ^ bs.length := by
  induction bs with
  | nil => simp [bytesNat]
  | cons b r ih =>
    have hb : b.toNat < 256 := b.isLt
    rw [bytesNat, List.length_cons, Nat.pow_succ]
    omega

theorem SMap.val_cons {α : Type} (j : Nat) (b : α) (m : SMap α) (k : Nat) (d : α) :
    SMap.val ((j, b) :: m) k d = if j = k then b else m.val k d := by
  by_cases h : j = k <;> simp [SMap.val, SMap.find, h]

/-- The sparse image of bytes that stand from place n: it reads as they stand. -/
theorem val_image (bs : List Byte) (n k : Nat) :
    SMap.val (((bs.zipIdx n).filter fun b => b.1 != 0).map fun b => (b.2, b.1)) k 0 = if n ≤ k then bs.getD (k - n) 0 else 0 := by
  induction bs generalizing n with
  | nil => simp [SMap.val, SMap.find]
  | cons b r ih =>
    have hcons : (if n ≤ k then (b :: r).getD (k - n) 0 else 0) =
        if n = k then b else if n + 1 ≤ k then r.getD (k - (n + 1)) 0 else 0 := by
      rcases Nat.lt_trichotomy n k with h | rfl | h
      · rw [if_pos h.le, if_neg h.ne, if_pos (Nat.succ_le_of_lt h), show k - n = k - (n + 1) + 1 by omega, List.getD_cons_succ]
      · simp
      · rw [if_neg (by omega), if_neg (by omega), if_neg (by omega)]
    rw [List.zipIdx_cons, hcons]
    by_cases hb : b = 0
    · rw [List.filter_cons_of_neg (by simp [hb]), ih]
      by_cases hk : n = k
      · rw [if_neg (by omega), if_pos hk, hb]
      · rw [if_neg hk]
    · rw [List.filter_cons_of_pos (by simpa using hb), List.map_cons, SMap.val_cons, ih]

/-! ### Exposure of storage (R48) -/

theorem exposeUnit_eq (w g draw idx v : Nat) :
    exposeUnit w g draw idx v = if unitKept w v then v else exposeL (exposureBits w g) none draw idx v := rfl

theorem unitReads_exposeUnit {w : Nat} (hw : KnownWidth w) (g draw idx : Nat) {v : Nat} (hv : v < 2 ^ w) :
    UnitReads w g v (exposeUnit w g draw idx v) := by
  have hkept : unitKept w v = true ↔ (w = 16 ∧ (v / 2 ^ 10 % 2 ^ 5 = 2 ^ 5 - 1 ∨ v / 2 ^ 7 % 2 ^ 8 = 2 ^ 8 - 1) ∨
      w = 32 ∧ v / 2 ^ 23 % 2 ^ 8 = 2 ^ 8 - 1 ∨ w = 64 ∧ v / 2 ^ 52 % 2 ^ 11 = 2 ^ 11 - 1) := by
    rcases hw with rfl | rfl | rfl | rfl <;> simp [unitKept]
  rw [exposeUnit_eq]
  refine ⟨?_, fun h => ?_, fun h => ?_⟩
  · split
    · exact hv
    · exact exposeL_lt (exposureBits_le w g hw) none draw idx hv
  · rw [if_pos (hkept.2 h)]
  · rw [if_neg (mt hkept.1 h), exposeL_div]

/-! ### Reading records (R195, R48) -/

theorem KnownWidth.eight_dvd {w : Nat} (hw : KnownWidth w) : 8 ∣ w := by
  rcases hw with rfl | rfl | rfl | rfl <;> decide

/-- A naturally aligned unit of a known width lies in one line. -/
theorem lineOf_unit {w : Nat} (hw : KnownWidth w) (x : Nat) : lineOf (x / (w / 8) * (w / 8)) = lineOf x := by
  unfold lineOf
  rcases hw with rfl | rfl | rfl | rfl <;> norm_num <;> omega

/-- A line of a larder whose parts are whole lines is of one grade. -/
theorem Team.larderGrade_line {tm : Team} (hA : tm.st.larderA % 128 = 0) {x y : Nat} (h : lineOf x = lineOf y) :
    tm.larderGrade x = tm.larderGrade y := by
  unfold lineOf at h
  unfold Team.larderGrade
  have : x < tm.st.larderA ↔ y < tm.st.larderA := by omega
  simp only [this]

@[simp] theorem readStorage_length (get : Nat → Byte) (grade width draw salt a n : Nat) :
    (readStorage get grade width draw salt a n).length = n := by simp [readStorage]

/-- The bytes of a read within one line. -/
theorem readStorage_getD (get : Nat → Byte) (grade width draw salt a : Nat) {n k : Nat} (hk : k < n) :
    (readStorage get grade width draw salt a n).getD k 0 =
      if grade = 8 then get (a + k)
      else BitVec.ofNat 8 (exposeUnit width grade draw ((a + k) / (width / 8) * (width / 8) * 64 + salt)
        (bytesNat ((List.range (width / 8)).map fun q => get ((a + k) / (width / 8) * (width / 8) + q))) /
          256 ^ ((a + k) % (width / 8))) := by
  have hm : a + k - (a + k) / (width / 8) * (width / 8) = (a + k) % (width / 8) := by
    rw [Nat.mod_eq_sub_div_mul]
  simp [readStorage, List.getD_eq_getElem?_getD, hk, hm]

/-- The unit of storage at b, as one draw of the unspecified bits exposes it. -/
def Team.exposedUnit (tm : Team) (draw salt b : Nat) : Nat :=
  let w := tm.larderW.val (lineOf b) 32
  exposeUnit w (tm.larderGrade b) draw (b * 64 + salt) (bytesNat ((List.range (w / 8)).map fun q => tm.larderByte (b + q)))

/-- A byte of a record of whole lines: it reads as its line does. -/
theorem Team.recordBytes_getD (tm : Team) (draw salt a : Nat) {n k : Nat} (hk : k < 128 * n) :
    (tm.recordBytes draw salt a (128 * n)).getD k 0 = (tm.readLarder draw salt (a + 128 * (k / 128)) 128).getD (k % 128) 0 := by
  rw [Team.recordBytes, Nat.mul_div_cancel_left _ (by norm_num)]
  exact getD_flatMap_range _ _ (fun _ => readStorage_length ..) hk

/-- A record of whole lines is what a read of the larder gives. -/
theorem Team.larderReads_recordBytes {tm : Team} (hA : tm.st.larderA % 128 = 0) {a : Nat} (ha : a % 128 = 0) (draw salt n : Nat) :
    LarderReads tm a (128 * n) fun o => (tm.recordBytes draw salt a (128 * n)).getD o 0 := by
  refine ⟨tm.exposedUnit draw salt, fun b _ (hw : KnownWidth _) => unitReads_exposeUnit hw _ _ _ ?_, fun k hk => ?_⟩
  · have h := bytesNat_lt ((List.range (tm.larderW.val (lineOf b) 32 / 8)).map fun q => tm.larderByte (b + q))
    rw [List.length_map, List.length_range, show 256 = 2 ^ 8 from rfl, ← Nat.pow_mul] at h
    rwa [Nat.mul_div_cancel' hw.eight_dvd] at h
  · have hx : a + 128 * (k / 128) + k % 128 = a + k := by omega
    have hl : lineOf (a + 128 * (k / 128)) = lineOf (a + k) := by unfold lineOf; omega
    have hg := Team.larderGrade_line hA hl
    dsimp only
    rw [tm.recordBytes_getD draw salt a hk, Team.readLarder, readStorage_getD _ _ _ _ _ _ (Nat.mod_lt k (by norm_num)), hx, hl, hg]
    refine ⟨fun h => if_pos h, fun h hw => ?_⟩
    have hu := lineOf_unit hw (a + k)
    rw [if_neg h, Team.exposedUnit, hu, Team.larderGrade_line hA hu]

/-! ### One element of an array entry (R204) -/

theorem expose_f32 (g draw idx v : Nat) :
    expose .f32 g draw idx v = exposeL (exposureBits 32 g) (some FFmt.f32) draw idx v := rfl

/-- Exposure leaves an FP32 pattern with the greatest exponent field alone (R45). -/
theorem exposeL_f32_of_expMax {v : Nat} (h : v / 2 ^ 23 % 2 ^ 8 = 2 ^ 8 - 1) (l draw idx : Nat) :
    exposeL l (some FFmt.f32) draw idx v = v := by
  have hk : (FFmt.f32.value v).isNan || (FFmt.f32.value v).isInf := by
    have he : v / 2 ^ (FFmt.f32.p - 1) % 2 ^ (FFmt.f32.w - FFmt.f32.p) = FFmt.f32.expMax := h
    simp only [FFmt.value, if_pos he]
    split <;> rfl
  exact if_pos hk

/-- The pair of an approximate element after its first `n` blocks. -/
def approxAfter (g draw idx : Nat) (ps : List FV) (p : Nat × Nat) (n : Nat) : Nat × Nat :=
  (List.range n).foldl (fun q b =>
    (expose .f32 g draw (idx * 4 + b) (rn32 (sumFV [val32 q.1, val32 q.2, sumFV (blockOf ps b)])), 0)) p

theorem approxAfter_succ (g draw idx : Nat) (ps : List FV) (p : Nat × Nat) (n : Nat) :
    let q := approxAfter g draw idx ps p n
    approxAfter g draw idx ps p (n + 1) =
      (expose .f32 g draw (idx * 4 + n) (rn32 (sumFV [val32 q.1, val32 q.2, sumFV (blockOf ps n)])), 0) := by
  simp [approxAfter, List.range_succ]

theorem mmaElem_precise (ty : Ty) (g draw idx : Nat) (ps : List FV) (p : Nat × Nat) :
    mmaElem ty false g draw idx ps p = accumulated ty ps p := by
  simp [mmaElem, accumulated, List.foldl_map, blockOf]

theorem mmaElem_approx (ty : Ty) (g draw idx : Nat) (ps : List FV) (p : Nat × Nat) :
    mmaElem ty true g draw idx ps p = approxAfter g draw idx ps p (recordK ty / 32) := by
  simp [mmaElem, approxAfter, List.foldl_map]

/-- An element of the array is what R204 makes of its pair. -/
theorem accumulates_mmaElem (ty : Ty) (apx : Bool) (g draw idx : Nat) (ps : List FV) (p : Nat × Nat) :
    Accumulates ty apx g ps p (mmaElem ty apx g draw idx ps p) := by
  refine ⟨fun h => ?_, fun h => ⟨approxAfter g draw idx ps p, rfl, ?_, fun b _ => ?_⟩⟩
  · rw [h, mmaElem_precise]
  · rw [h, mmaElem_approx]
  · rw [approxAfter_succ, expose_f32]
    dsimp only
    exact ⟨rfl, exposeL_div _ _ _ _ _, fun hv => exposeL_f32_of_expMax hv _ _ _⟩

/-! ### Bins -/

@[simp] theorem Matrix.pair_setPair_same (m : Matrix) (z row col : Nat) (p : Nat × Nat) :
    (m.setPair z row col p).pair z row col = p := by simp [Matrix.pair, Matrix.setPair]

theorem binKey_inj {z z' row row' col col' : Nat} (hr : row < 64) (hr' : row' < 64) (hc : col < 64) (hc' : col' < 64)
    (h : binKey z row col = binKey z' row' col') : z = z' ∧ row = row' ∧ col = col' := by
  unfold binKey at h; omega

theorem Matrix.pair_setPair_ne (m : Matrix) {z z' row row' col col' : Nat} (p : Nat × Nat) (hr : row < 64) (hr' : row' < 64)
    (hc : col < 64) (hc' : col' < 64) (h : ¬ (z' = z ∧ row' = row ∧ col' = col)) :
    (m.setPair z row col p).pair z' row' col' = m.pair z' row' col' :=
  SMap.val_store_ne _ _ _ fun hk => h (binKey_inj hr' hr hc' hc hk)

/-- Updates of the first `n` columns of a row, one after another, each from its own pair. -/
theorem Matrix.pair_fold_setPair (m : Matrix) (z : Nat) {row : Nat} (hr : row < 64) (f : Nat → Nat × Nat → Nat × Nat) {n : Nat}
    (hn : n ≤ 64) (z' : Nat) {row' col' : Nat} (hr' : row' < 64) (hc' : col' < 64) :
    ((List.range n).foldl (fun (x : Matrix) c => x.setPair z row c (f c (x.pair z row c))) m).pair z' row' col' =
      if z' = z ∧ row' = row ∧ col' < n then f col' (m.pair z row col') else m.pair z' row' col' := by
  induction n generalizing z' row' col' with
  | zero => simp
  | succ n ih =>
    specialize ih (by omega)
    rw [List.range_succ, List.foldl_append, List.foldl_cons, List.foldl_nil]
    by_cases h : z' = z ∧ row' = row ∧ col' = n
    · obtain ⟨rfl, rfl, rfl⟩ := h
      simp [ih z' hr' hc']
    · rw [Matrix.pair_setPair_ne _ _ hr hr' (by omega) hc' h, ih z' hr' hc']
      refine if_congr ?_ rfl rfl
      omega

/-- The matrix state with other bins and another shadow copy of them. -/
def Matrix.withBins (m : Matrix) (bins shadow : SMap (Nat × Nat)) : Matrix := { m with bins := bins, shadow := shadow }

theorem Matrix.fold_setPair_withBins (m : Matrix) (z row : Nat) (f : Nat → Nat × Nat → Nat × Nat) (cs : List Nat) :
    let x := cs.foldl (fun (x : Matrix) c => x.setPair z row c (f c (x.pair z row c))) m
    x = m.withBins x.bins m.shadow := by
  induction cs generalizing m with
  | nil => rfl
  | cons c r ih => exact ih (m.setPair z row c (f c (m.pair z row c)))

/-- Work done twice in a paired team leaves the first run's bins, beside the second's in the shadow copy (R197). -/
theorem Matrix.twice_withBins {m : Matrix} (paired : Bool) {run : Matrix → Matrix} (second : Matrix → Matrix)
    (h : run m = m.withBins (run m).bins m.shadow) : ∃ sh, m.twice paired run second = m.withBins (run m).bins sh := by
  cases paired
  · exact ⟨_, h⟩
  · refine ⟨(second { m with bins := m.shadow }).bins, ?_⟩
    rw [Matrix.twice, h]
    rfl

/-! ### Rows of an array entry -/

/-- The products of a record and a column, at one element of its bin row. -/
def SeqEntry.element (e : SeqEntry) (w : Latch) (draw j : Nat) (vals : List FV) (n : Nat) (p : Nat × Nat) : Nat × Nat :=
  mmaElem e.ty e.apx e.grade draw (j * 64 + n) (List.zipWith FV.mul vals (w.column e.ty n)) p

theorem Matrix.mmaRow_eq (m : Matrix) (e : SeqEntry) (draw j row : Nat) (vals : List FV) :
    m.mmaRow e draw j row vals = (List.range 64).foldl (fun (x : Matrix) n =>
      x.setPair e.z row n (e.element (m.latch e.latch) draw j vals n (x.pair e.z row n))) m := rfl

theorem Matrix.mmaRow_withBins (m : Matrix) (e : SeqEntry) (draw j row : Nat) (vals : List FV) :
    m.mmaRow e draw j row vals = m.withBins (m.mmaRow e draw j row vals).bins m.shadow :=
  m.fold_setPair_withBins e.z row (e.element (m.latch e.latch) draw j vals) (List.range 64)

theorem Matrix.pair_mmaRow (m : Matrix) (e : SeqEntry) (draw j : Nat) {row : Nat} (vals : List FV) (hr : row < 64)
    (z : Nat) {r n : Nat} (hr' : r < 64) (hn : n < 64) :
    (m.mmaRow e draw j row vals).pair z r n = if z = e.z ∧ r = row
      then e.element (m.latch e.latch) draw j vals n (m.pair e.z row n) else m.pair z r n := by
  rw [Matrix.mmaRow_eq, Matrix.pair_fold_setPair m e.z hr _ le_rfl z hr' hn]
  simp [hn]

/-- The bytes of row record j, as one draw of the unspecified bits gives them. -/
def Team.entryRow (src : Team) (e : SeqEntry) (a : Nat) (d : Word) (draw salt j o : Nat) : Byte :=
  (src.recordBytes draw salt (rowAddr a d j) e.recSize).getD o 0

/-- One run of an array entry's row j. -/
def Matrix.arrayRun (src : Team) (e : SeqEntry) (a : Nat) (d : Word) (draw j salt : Nat) (m : Matrix) : Matrix :=
  m.mmaRow e draw j (descFirst e.desc + j) (recordValues e.ty (src.entryRow e a d draw salt j))

theorem Matrix.arrayRun_withBins (m : Matrix) (src : Team) (e : SeqEntry) (a : Nat) (d : Word) (draw j salt : Nat) :
    m.arrayRun src e a d draw j salt = m.withBins (m.arrayRun src e a d draw j salt).bins m.shadow :=
  m.mmaRow_withBins ..

/-- A row of an array entry changes the bins, as one run of it does, and their shadow copy. -/
theorem Team.arrayRow_withBins (tm src : Team) (e : SeqEntry) (a : Nat) (d : Word) (draw j : Nat) :
    ∃ sh, tm.arrayRow src e a d draw j =
      { tm with matrix := tm.matrix.withBins (tm.matrix.arrayRun src e a d draw j j).bins sh } := by
  obtain ⟨sh, h⟩ := Matrix.twice_withBins (tm.st.mode == 2) (run := Matrix.arrayRun src e a d draw j j)
    (Matrix.arrayRun src e a d draw j (j + 64)) (tm.matrix.arrayRun_withBins src e a d draw j j)
  exact ⟨sh, congrArg (fun m => { tm with matrix := m }) h⟩

@[simp] theorem Matrix.pair_withBins (m : Matrix) (b sh : SMap (Nat × Nat)) (z r n : Nat) :
    (m.withBins b sh).pair z r n = b.val (binKey z r n) (0, 0) := rfl

@[simp] theorem Matrix.latch_withBins (m : Matrix) (b sh : SMap (Nat × Nat)) (k : Nat) : (m.withBins b sh).latch k = m.latch k := rfl

/-- What rows `lo` to `hi - 1` of an array entry make of the pair at row r and column n of bin z. -/
def Team.arrayPair (tm src : Team) (e : SeqEntry) (a : Nat) (d : Word) (draw lo hi z r n : Nat) : Nat × Nat :=
  let j := r - descFirst e.desc
  if z = e.z ∧ descFirst e.desc + lo ≤ r ∧ r < descFirst e.desc + hi then
    e.element (tm.matrix.latch e.latch) draw j (recordValues e.ty (src.entryRow e a d draw j j)) n (tm.matrix.pair e.z r n)
  else tm.matrix.pair z r n

theorem Team.arrayPair_row (tm src : Team) (e : SeqEntry) (a : Nat) (d : Word) (draw : Nat) {lo hi j : Nat} (h0 : lo ≤ j)
    (h1 : j < hi) (n : Nat) : tm.arrayPair src e a d draw lo hi e.z (descFirst e.desc + j) n =
      e.element (tm.matrix.latch e.latch) draw j (recordValues e.ty (src.entryRow e a d draw j j)) n
        (tm.matrix.pair e.z (descFirst e.desc + j) n) := by
  rw [Team.arrayPair, if_pos (by omega), Nat.add_sub_cancel_left]

theorem Team.arrayPair_other (tm src : Team) (e : SeqEntry) (a : Nat) (d : Word) (draw : Nat) {lo hi z r : Nat}
    (h : ¬ (z = e.z ∧ descFirst e.desc + lo ≤ r ∧ r < descFirst e.desc + hi)) (n : Nat) :
    tm.arrayPair src e a d draw lo hi z r n = tm.matrix.pair z r n := if_neg h

/-- One more row changes the elements of its own bin row alone. -/
theorem Team.arrayPair_succ (tm src : Team) (e : SeqEntry) (a : Nat) (d : Word) (draw : Nat) {lo hi z r : Nat}
    (h : ¬ (lo ≤ hi ∧ z = e.z ∧ r = descFirst e.desc + hi)) (n : Nat) :
    tm.arrayPair src e a d draw lo (hi + 1) z r n = tm.arrayPair src e a d draw lo hi z r n :=
  if_congr (by omega) rfl rfl

/-- Rows `lo` to `hi - 1` of an array entry, one after another. -/
theorem Team.fold_arrayRow (tm src : Team) (e : SeqEntry) (a : Nat) (d : Word) (draw lo : Nat) {hi : Nat}
    (hh : descFirst e.desc + hi ≤ 64) :
    ∃ b sh, ((List.range hi).filter fun j => lo ≤ j).foldl (fun (x : Team) j => x.arrayRow src e a d draw j) tm =
        { tm with matrix := tm.matrix.withBins b sh } ∧
      ∀ z r n, r < 64 → n < 64 → b.val (binKey z r n) (0, 0) = tm.arrayPair src e a d draw lo hi z r n := by
  induction hi with
  | zero =>
    exact ⟨tm.matrix.bins, tm.matrix.shadow, rfl, fun z r n _ _ => (tm.arrayPair_other src e a d draw (by omega) n).symm⟩
  | succ hi ih =>
    obtain ⟨b, sh, hfold, hval⟩ := ih (by omega)
    rw [List.range_succ, List.filter_append, List.foldl_append, hfold]
    by_cases hlo : lo ≤ hi
    · obtain ⟨sh', hrow⟩ := Team.arrayRow_withBins { tm with matrix := tm.matrix.withBins b sh } src e a d draw hi
      rw [List.filter_cons_of_pos (by simpa using hlo), List.filter_nil, List.foldl_cons, List.foldl_nil, hrow]
      refine ⟨_, sh', rfl, fun z r n hr hn => ?_⟩
      refine (Matrix.pair_mmaRow (tm.matrix.withBins b sh) e draw hi (recordValues e.ty (src.entryRow e a d draw hi hi))
        (row := descFirst e.desc + hi) (by omega) z hr hn).trans ?_
      rw [Matrix.pair_withBins, Matrix.pair_withBins, Matrix.latch_withBins]
      split
      · next hz =>
        obtain ⟨rfl, rfl⟩ := hz
        rw [tm.arrayPair_row src e a d draw hlo hi.lt_succ_self, hval _ _ _ hr hn, tm.arrayPair_other _ _ _ _ _ (by omega)]
      · next hz => rw [hval z r n hr hn, tm.arrayPair_succ _ _ _ _ _ (fun h => hz h.2)]
    · rw [List.filter_cons_of_neg (by simpa using hlo), List.filter_nil, List.foldl_nil]
      refine ⟨b, sh, rfl, fun z r n hr hn => ?_⟩
      rw [hval z r n hr hn, tm.arrayPair_succ _ _ _ _ _ fun h => hlo h.1]

variable {s : State} {t id : Nat} {tm : Team} {e : SeqEntry}

/-! ### An entry that works alone -/

theorem Matrix.id_of_entry? {m : Matrix} {id : Nat} {e : SeqEntry} (h : m.entry? id = some e) : e.id = id := by
  simpa using List.find?_some h

theorem Matrix.entry?_modEntry {m : Matrix} {id : Nat} {e : SeqEntry} (h : m.entry? id = some e) {f : SeqEntry → SeqEntry}
    (hf : ∀ q, (f q).id = q.id) : (m.modEntry id f).entry? id = some (f e) := by
  have hid (q : SeqEntry) : (if q.id == id then f q else q).id = q.id := by split <;> simp [hf]
  unfold Matrix.entry? at h
  simp only [Matrix.entry?, Matrix.modEntry, List.find?_map, Function.comp_def, hid, h, Option.map_some,
    Matrix.id_of_entry? h, beq_self_eq_true, if_true]

theorem Matrix.modEntry_queue_filter (m : Matrix) (id : Nat) {f : SeqEntry → SeqEntry} (hf : ∀ q, (f q).id = q.id) :
    (m.modEntry id f).queue.filter (fun q => q.id != id) = m.queue.filter fun q => q.id != id := by
  unfold Matrix.modEntry
  induction m.queue with
  | nil => rfl
  | cons q r ih =>
    by_cases hq : q.id = id
    · simpa [hq, hf] using ih
    · simpa [hq] using ih

theorem State.peers_alone (hc : e.op ≠ .chain) : s.peers t tm e = [(t, e.id)] := by
  simp [State.peers, hc]

theorem State.rowSource_alone (hc : e.op ≠ .chain) : s.rowSource t tm e = some (tm, e.addr, e.desc) := by
  simp [State.rowSource, hc]

theorem State.peersError_alone (ht : s.team? t = some tm) (he : tm.matrix.entry? e.id = some e) (hc : e.op ≠ .chain) {upto : Nat}
    (hn : s.entryError tm tm e e.addr e.desc upto = none) : s.peersError t tm e upto = none := by
  simp [State.peersError, State.rowSource_alone hc, State.peers_alone hc, ht, he, hn]

theorem State.chainTransfers_alone {k : Nat} (h : s.chainOf k t id = none) : s.chainTransfers k t id = s := by
  simp [State.chainTransfers, h]

theorem State.chainBroken_alone {k : Nat} (h : s.chainOf k t id = none) : s.chainBroken k t id = false := by
  simp [State.chainBroken, h]

/-- A sequencer that has met no difference rolls nothing back. -/
theorem State.checkMismatch_of_none (ht : s.team? t = some tm) (hg : ∀ g, tm.guarded = some g → g.mismatch = none) :
    s.checkMismatch t = s := by
  cases h : tm.guarded with
  | none => simp [State.checkMismatch, ht, h]
  | some g => simp [State.checkMismatch, ht, h, hg g h]

/-- An array entry's rows up to `upto` are one update of its team, and take one draw of the unspecified bits. -/
theorem State.advanceEntry_alone (ht : s.team? t = some tm) (he : tm.matrix.entry? e.id = some e) (hc : e.op ≠ .chain) (upto : Nat) :
    (s.advanceEntry t tm e upto).team? t = some (tm.runRows tm e e.addr e.desc s.free upto) := by
  have ht' : ({ s with free := s.free + 1 } : State).team? t = some tm := ht
  simp only [State.advanceEntry, State.rowSource_alone hc, State.peers_alone hc, List.foldl_cons, List.foldl_nil,
    State.team?_modTeam_same, ht', Option.map_some, he, beq_self_eq_true, Bool.true_and, bne_iff_ne, ne_eq, hc, not_false_eq_true,
    if_true]

/-- The matrix state with bin z cleared (R207). -/
def Matrix.clearBin (m : Matrix) (z : Nat) : Matrix :=
  { m with bins := m.bins.filter fun b => b.1 / 4096 != z, shadow := m.shadow.filter fun b => b.1 / 4096 != z,
           binTag := setBit16 m.binTag z false }

/-- The work that an entry's finish event does before the entry leaves the queue. -/
def State.entryWork (s : State) (t : Nat) (tm : Team) (e : SeqEntry) : State :=
  match e.op with
  | .wld => s.loadTile t tm e
  | .wswp => s.modMatrix t fun m => { m with latch0 := m.latch1, latch1 := m.latch0 }
  | .zclr => s.modMatrix t fun m => m.clearBin e.z
  | _ => s.advanceEntry t tm e e.rows

theorem exec_sequencerEntryFinish (t id : Nat) (s : State) :
    exec (.sequencerEntryFinish t id) s = execSequencerEntryFinish t id s := rfl

theorem exec_interruptionPointReached (t id : Nat) (s : State) :
    exec (.interruptionPointReached t id) s = execInterruptionPointReached t id s := rfl

/-- The finish of an entry of no chain that meets no error and no difference: its work, and it leaves the queue. -/
theorem exec_sequencerEntryFinish_alone (ht : s.team? t = some tm) (he : tm.matrix.entry? id = some e) (hr : Runs s t tm e)
    (hc : e.op ≠ .chain) (hn : s.entryError tm tm e e.addr e.desc e.rows = none) {m : Matrix} {e' : SeqEntry}
    (hw : (s.entryWork t tm e).team? t = some { tm with matrix := m }) (he' : m.entry? id = some e') :
    exec (.sequencerEntryFinish t id) s =
      .next (((s.entryWork t tm e).dropEntry t e' (Team.zrdFlags { tm with matrix := m } e')).settled t) := by
  obtain ⟨hst, hh, hch, hg⟩ := hr
  obtain rfl := Matrix.id_of_entry? he
  have hrun : e.running = true := by simp [SeqEntry.running, hst, hc]
  have hmis : (((s.entryWork t tm e).team? t).bind Team.guarded).elim false (fun g => g.mismatch.isSome) = false := by
    rw [hw]
    cases h : tm.guarded with
    | none => simp only [Option.bind_some, Option.elim_none]
    | some g => simp only [Option.bind_some, Option.elim_some, hg g h, Option.isSome_none]
  have hfin : (s.entryWork t tm e).finishEntry t e.id =
      ((s.entryWork t tm e).dropEntry t e' (Team.zrdFlags { tm with matrix := m } e')).settled t := by
    simp only [State.finishEntry, hw, he']
  have hexec : exec (.sequencerEntryFinish t e.id) s =
      if (((s.entryWork t tm e).team? t).bind Team.guarded).elim false (fun g => g.mismatch.isSome)
      then .next ((s.entryWork t tm e).checkMismatch t) else .next ((s.entryWork t tm e).finishEntry t e.id) := by
    simp only [exec_sequencerEntryFinish, execSequencerEntryFinish, ht, he, hrun, hh, State.rowSource_alone hc,
      State.peersError_alone ht he hc hn, State.chainTransfers_alone hch, State.chainBroken_alone hch,
      State.peers_alone hc, Bool.not_true, Bool.or_self, Bool.false_eq_true, if_false, Option.isSome_none,
      beq_iff_eq, hc, List.foldl_cons, List.foldl_nil] <;> rfl
  rw [hexec, hmis, hfin]
  rfl

/-- The interruption point of an entry of no chain that meets no error: its rows up to the point. -/
theorem exec_interruptionPointReached_alone (ht : s.team? t = some tm) (he : tm.matrix.entry? id = some e) (hr : Runs s t tm e)
    (hc : e.op ≠ .chain) (hlt : (e.step / 16 + 1) * 16 < e.rows)
    (hn : s.entryError tm tm e e.addr e.desc ((e.step / 16 + 1) * 16) = none) {m : Matrix}
    (hw : (s.advanceEntry t tm e ((e.step / 16 + 1) * 16)).team? t = some { tm with matrix := m }) :
    exec (.interruptionPointReached t id) s = .next (s.advanceEntry t tm e ((e.step / 16 + 1) * 16)) := by
  obtain ⟨hst, hh, hch, hg⟩ := hr
  obtain rfl := Matrix.id_of_entry? he
  have hrun : e.running = true := by simp [SeqEntry.running, hst, hc]
  simp only [exec_interruptionPointReached, execInterruptionPointReached, ht, he, hrun, hh, hlt, decide_true,
    State.chainBroken_alone hch, Bool.not_false, Bool.and_self, if_true,
    State.chainTransfers_alone hch, State.peersError_alone ht he hc hn,
    State.checkMismatch_of_none hw hg]

/-! ### An entry leaves the queue -/

/-- A result without writes, once ready, returns: it is outstanding no more, and no strand changes. -/
theorem Sheaf.returnResult_without_writes {sh : Sheaf} {seq : Nat} (h : ∀ p ∈ sh.pend, p.seq = seq → p = { seq := seq })
    (lanes : Lanes) :
    (sh.returnResult seq lanes).strands = sh.strands ∧ ∀ p ∈ (sh.returnResult seq lanes).pend, p.seq ≠ seq := by
  cases hf : sh.pend.find? fun p => p.seq == seq && p.due.isNone && p.ready && p.waits == 0 with
  | none =>
    simp only [Sheaf.returnResult, hf, true_and]
    intro p hp hs
    have hne := List.find?_eq_none.1 hf p hp
    simp [h p hp hs] at hne
  | some p =>
    have hs : p.seq = seq := by
      have hfound := List.find?_some hf
      simp only [Bool.and_eq_true, beq_iff_eq] at hfound
      obtain ⟨⟨⟨hs, _⟩, _⟩, _⟩ := hfound
      exact hs
    obtain rfl := h p (List.mem_of_find?_eq_some hf) hs
    have hfree : lanesOf ((0 : Lanes) &&& lanes) = [] := by simp [lanesOf]
    simp only [Sheaf.returnResult, hf, List.filter_nil, hfree, Sheaf.modLanes, List.foldl_nil, Sheaf.commit, true_and]
    intro q hq
    obtain ⟨r, hr, rfl⟩ := List.mem_map.1 hq
    have hkeep := (List.mem_filter.1 hr).2
    have hseq : (r.outdated seq none []).seq = r.seq := by unfold Pending.outdated; split <;> rfl
    rw [hseq]
    simpa using hkeep

/-- What a sheaf takes of its entry that leaves the queue: the outstanding result becomes ready and returns (R208). -/
def Sheaf.entryDone (sh : Sheaf) (e : SeqEntry) (flags : Flags) : Sheaf :=
  if sh.pend.any fun p => p.seq == e.seq then
    ((sh.modPend e.seq fun p => { p with ready := true, writes := p.writes.map fun w => match w with
        | .f l _ _ => Wr.f l flags 0
        | x => x }).returnResult e.seq (BitVec.allOnes 32))
  else if e.op == .zrd then
    sh.modLanes sh.used fun st => { st with flags := st.flags ||| flags }
  else sh

theorem Sheaf.entryDone_without_writes {sh : Sheaf} (hz : e.op ≠ .zrd)
    (h : ∀ p ∈ sh.pend, p.seq = e.seq → p = { seq := e.seq, ready := false }) (flags : Flags) :
    (sh.entryDone e flags).strands = sh.strands ∧ ∀ p ∈ (sh.entryDone e flags).pend, p.seq ≠ e.seq := by
  unfold Sheaf.entryDone
  split
  · refine Sheaf.returnResult_without_writes (fun p hp hs => ?_) _
    obtain ⟨q, hq, rfl⟩ := List.mem_map.1 hp
    split at hs
    · next hqs => rw [if_pos hqs, h q hq (by simpa using hqs)]; rfl
    · next hqs => exact absurd hs (by simpa using hqs)
  · next hany =>
    rw [if_neg (by simpa using hz)]
    exact ⟨rfl, fun p hp hs => hany (List.any_eq_true.2 ⟨p, hp, by simpa using hs⟩)⟩

theorem Team.sheaf_modSheaf (tm : Team) (j k : Nat) (f : Sheaf → Sheaf) :
    (tm.modSheaf j f).sheaf k = if k = j ∧ j < tm.sheaves.length then f (tm.sheaf j) else tm.sheaf k := by
  by_cases hk : j = k
  · subst hk
    by_cases hj : j < tm.sheaves.length
    · simp [Team.sheaf, Team.modSheaf, List.getD_eq_getElem?_getD, hj]
    · simp [Team.sheaf, Team.modSheaf, List.getD_eq_getElem?_getD, hj]
  · simp [Team.sheaf, Team.modSheaf, List.getD_eq_getElem?_getD, hk, Ne.symm hk]

theorem State.dropEntry_team? (ht : s.team? t = some tm) (flags : Flags) :
    (s.dropEntry t e flags).team? t =
      some (Team.modSheaf { tm with matrix := { tm.matrix with queue := tm.matrix.queue.filter fun q => q.id != e.id } } e.sheaf
        fun sh => sh.entryDone e flags) := by
  simp only [State.dropEntry, State.modSheaf, State.modMatrix, State.team?_modTeam_same, ht, Option.map_some] <;> rfl

/-- Team `tm'` is `tm` once entry `e`, whose work left the matrix state `m`, is out of the queue and its result is written. -/
structure EntryGone (tm tm' : Team) (e : SeqEntry) (m : Matrix) : Prop where
  matrix : tm'.matrix = { m with queue := tm.matrix.queue.filter fun q => q.id != e.id }
  result : ∀ p ∈ (tm'.sheaf e.sheaf).pend, p.seq ≠ e.seq
  strands : ∀ j, (tm'.sheaf j).strands = (tm.sheaf j).strands
  larder : tm'.larder = tm.larder

theorem EntryGone.larderByte {tm' : Team} {m : Matrix} (h : EntryGone tm tm' e m) (a : Nat) : tm'.larderByte a = tm.larderByte a := by
  rw [Team.larderByte, h.larder, Team.larderByte]

theorem EntryGone.queue {tm' : Team} {m : Matrix} (h : EntryGone tm tm' e m) :
    tm'.matrix.queue = tm.matrix.queue.filter fun q => q.id != e.id := by rw [h.matrix]

theorem EntryGone.strand {tm' : Team} {m : Matrix} (h : EntryGone tm tm' e m) (j l : Nat) :
    (tm'.sheaf j).strand l = (tm.sheaf j).strand l := by
  rw [Sheaf.strand, h.strands, Sheaf.strand]

theorem State.dropEntry_gone {m : Matrix} (hz : e.op ≠ .zrd) (ht : s.team? t = some { tm with matrix := m })
    (hq : m.queue.filter (fun q => q.id != e.id) = tm.matrix.queue.filter fun q => q.id != e.id)
    (hp : ∀ p ∈ (tm.sheaf e.sheaf).pend, p.seq = e.seq → p = { seq := e.seq, ready := false }) (flags : Flags) :
    ∃ tm', (s.dropEntry t e flags).team? t = some tm' ∧ EntryGone tm tm' e m := by
  obtain ⟨hst, hpend⟩ := Sheaf.entryDone_without_writes hz hp flags
  refine ⟨_, State.dropEntry_team? ht flags, by simp only [Team.modSheaf, hq], ?_, fun j => ?_, rfl⟩
  · rw [Team.sheaf_modSheaf]
    split
    · exact hpend
    · next h =>
      have hd : Team.sheaf tm e.sheaf = {} := List.getD_eq_default _ _ (by simpa using h)
      intro p hmem
      change p ∈ (Team.sheaf tm e.sheaf).pend at hmem
      simp [hd] at hmem
  · rw [Team.sheaf_modSheaf]
    split
    · next h => rw [h.1]; exact hst
    · rfl

/-- The finish of an entry alone, from the matrix state that its work leaves. -/
theorem sequencerEntryFinish_gone (ht : s.team? t = some tm) (he : tm.matrix.entry? id = some e) (hr : Runs s t tm e)
    (hc : e.op ≠ .chain) (hz : e.op ≠ .zrd) (hn : s.entryError tm tm e e.addr e.desc e.rows = none)
    (hp : ∀ p ∈ (tm.sheaf e.sheaf).pend, p.seq = e.seq → p = { seq := e.seq, ready := false }) {m : Matrix} {k : Nat}
    (hw : (s.entryWork t tm e).team? t = some { tm with matrix := m }) (he' : m.entry? id = some { e with step := k })
    (hq : m.queue.filter (fun q => q.id != id) = tm.matrix.queue.filter fun q => q.id != id) :
    ∃ (u : State) (tm' : Team), exec (.sequencerEntryFinish t id) s = .next (u.settled t) ∧ u.team? t = some tm' ∧
      EntryGone tm tm' e m := by
  obtain rfl := Matrix.id_of_entry? he
  obtain ⟨tm', hu, hgone⟩ := State.dropEntry_gone (e := { e with step := k }) hz hw hq hp
    (Team.zrdFlags { tm with matrix := m } { e with step := k })
  exact ⟨_, tm', exec_sequencerEntryFinish_alone ht he hr hc hn hw he', hu, hgone.matrix, hgone.result, hgone.strands, hgone.larder⟩

/-! ### Latches, tags and cleared bins -/

@[simp] theorem Matrix.latch_setLatch_same (m : Matrix) (k : Nat) (w : Latch) : (m.setLatch k w).latch k = w := by
  unfold Matrix.setLatch Matrix.latch
  split <;> rfl

@[simp] theorem Matrix.setLatch_bins (m : Matrix) (k : Nat) (w : Latch) : (m.setLatch k w).bins = m.bins := by
  unfold Matrix.setLatch
  split <;> rfl

@[simp] theorem Matrix.setLatch_queue (m : Matrix) (k : Nat) (w : Latch) : (m.setLatch k w).queue = m.queue := by
  unfold Matrix.setLatch
  split <;> rfl

theorem getLsbD_setBit16_same (w : BitVec 16) {k : Nat} (hk : k < 16) (b : Bool) : (setBit16 w k b).getLsbD k = b := by
  have hbit : (BitVec.ofNat 16 (2 ^ k)).getLsbD k = true := by
    rw [BitVec.getLsbD_ofNat, Nat.testBit_two_pow_self, decide_eq_true hk]; rfl
  cases b
  · simp only [setBit16, Bool.false_eq_true, if_false, BitVec.getLsbD_and, BitVec.getLsbD_not, hbit, Bool.not_true, Bool.and_false]
  · simp only [setBit16, if_true, BitVec.getLsbD_or, hbit, Bool.or_true]

theorem SMap.val_filter {α : Type} (m : SMap α) (p : Nat → Bool) (k : Nat) (d : α) :
    SMap.val (m.filter fun b => p b.1) k d = if p k then m.val k d else d := by
  rw [SMap.val, SMap.find_filter m p]
  split <;> rfl

theorem Matrix.pair_clearBin (m : Matrix) (z z' : Nat) {row col : Nat} (hr : row < 64) (hc : col < 64) :
    (m.clearBin z).pair z' row col = if z' = z then (0, 0) else m.pair z' row col := by
  have hk : binKey z' row col / 4096 = z' := by unfold binKey; omega
  refine (SMap.val_filter m.bins (fun k => k / 4096 != z) _ _).trans ?_
  simp only [hk]
  by_cases h : z' = z <;> simp [h, Matrix.pair]

/-! ### WLD (R202) -/

/-- The bytes of the tile image that a WLD loads. -/
def State.tileBytes (s : State) (tm : Team) (e : SeqEntry) (salt : Nat) : List Byte :=
  if e.x % 2 == 1 then tm.recordBytes s.free salt e.addr (8192 * planesOf e.ty)
  else (List.range (8192 * planesOf e.ty)).map fun k => (s.atticOf tm).val (e.addr + k) 0

/-- The latch that a WLD leaves. -/
def State.loadedLatch (s : State) (tm : Team) (e : SeqEntry) : Latch where
  fmt := latchFmt e.ty
  tag := tm.entryApprox e || e.gtag
  tile := ((s.tileBytes tm e 0).zipIdx.filter fun b => b.1 != 0).map fun b => (b.2, b.1)

/-- Precise lines read alike at every draw. -/
theorem Team.recordBytes_precise {a : Nat} (ha : tm.st.larderA ≤ a) (draw salt n : Nat) :
    tm.recordBytes draw salt a n = (List.range (n / 128)).flatMap fun k =>
      (List.range 128).map fun q => tm.larderByte (a + 128 * k + q) := by
  have hg (k : Nat) : tm.larderGrade (a + 128 * k) = 8 := if_neg (by omega)
  simp only [Team.recordBytes, Team.readLarder, readStorage, hg, if_true]

/-- A paired team's second read of a precise tile gives the first's bytes (R197). -/
theorem State.tileBytes_precise (hop : e.op = .wld) (h : tm.entryApprox e = false) (salt : Nat) :
    s.tileBytes tm e salt = s.tileBytes tm e 0 := by
  unfold State.tileBytes
  split
  · next hx =>
    have ha : tm.st.larderA ≤ e.addr := by simpa [Team.entryApprox, hop, hx] using h
    rw [Team.recordBytes_precise ha, Team.recordBytes_precise ha]
  · rfl

theorem State.loadTile_team? (ht : s.team? t = some tm) (hop : e.op = .wld) :
    (s.loadTile t tm e).team? t = some { tm with matrix := tm.matrix.setLatch e.latch (s.loadedLatch tm e) } := by
  have hd : (tm.st.mode == 2 && !tm.entryApprox e && s.tileBytes tm e 1 != s.tileBytes tm e 0) = false := by
    cases h : tm.entryApprox e
    · simp [State.tileBytes_precise hop h]
    · simp
  have ht' : ({ s with free := s.free + 1 } : State).team? t = some tm := ht
  have hl : s.loadTile t tm e = (({ s with free := s.free + 1 } : State).modTeam t fun x =>
      if tm.st.mode == 2 && !tm.entryApprox e && s.tileBytes tm e 1 != s.tileBytes tm e 0 then x.mark e else x).modMatrix t
        fun m => m.setLatch e.latch (s.loadedLatch tm e) := by
    unfold State.loadTile State.loadedLatch State.tileBytes
    by_cases hx : (e.x % 2 == 1) = true
    · simp only [hx, if_true]
    · simp only [hx, if_false, Bool.false_eq_true]
  simp only [hl, hd, State.modMatrix, State.team?_modTeam_same, ht', Option.map_some, Bool.false_eq_true, if_false]

theorem State.loadedLatch_tile_val (k : Nat) : (s.loadedLatch tm e).tile.val k 0 = (s.tileBytes tm e 0).getD k 0 :=
  (val_image (s.tileBytes tm e 0) 0 k).trans (if_pos (Nat.zero_le k))

theorem State.loadedLatch_attic (hop : e.op = .wld) (hx : e.x % 2 = 0) :
    (s.loadedLatch tm e).tag = e.gtag ∧
      ∀ k < 8192 * planesOf e.ty, (s.loadedLatch tm e).tile.val k 0 = (s.atticOf tm).val (e.addr + k) 0 := by
  refine ⟨by simp [State.loadedLatch, Team.entryApprox, hop, hx], fun k hk => ?_⟩
  rw [State.loadedLatch_tile_val]
  simp [State.tileBytes, hx, List.getD_eq_getElem?_getD, hk]

theorem State.loadedLatch_larder (hop : e.op = .wld) (hx : e.x % 2 = 1) (ha : e.addr % 128 = 0) (hA : tm.st.larderA % 128 = 0) :
    (s.loadedLatch tm e).tag = (decide (e.addr < tm.st.larderA) || e.gtag) ∧
      ∃ get : Nat → Byte, LarderReads tm e.addr (8192 * planesOf e.ty) get ∧
        ∀ k < 8192 * planesOf e.ty, (s.loadedLatch tm e).tile.val k 0 = get k := by
  have hread := Team.larderReads_recordBytes hA ha s.free 0 (64 * planesOf e.ty)
  rw [← Nat.mul_assoc] at hread
  refine ⟨by simp [State.loadedLatch, Team.entryApprox, hop, hx], _, hread, fun k _ => ?_⟩
  rw [State.loadedLatch_tile_val, State.tileBytes, if_pos (by simp [hx])]

/-! ### MMA, RDC and SCAN (R204, R206) -/

/-- The entries of the array that are no chain's. -/
def SeqEntry.ArrayAlone (e : SeqEntry) : Prop := e.op = .mma ∨ e.op = .rdc ∨ e.op = .scan

theorem SeqEntry.ArrayAlone.ne_chain (h : e.ArrayAlone) : e.op ≠ .chain := by
  rcases h with h | h | h <;> simp [h]

theorem SeqEntry.ArrayAlone.ne_zrd (h : e.ArrayAlone) : e.op ≠ .zrd := by
  rcases h with h | h | h <;> simp [h]

theorem SeqEntry.ArrayAlone.rows_eq (h : e.ArrayAlone) : e.rows = descRows e.desc := by
  rcases h with h | h | h <;> simp [SeqEntry.rows, h]

theorem SeqEntry.ArrayAlone.recSize_eq (h : e.ArrayAlone) : e.recSize = recordSize e.ty false := by
  have hpair : e.pair = false := by
    rcases h with h | h | h <;> rw [SeqEntry.pair, h] <;> exact Bool.and_false _
  rw [SeqEntry.recSize, hpair]

theorem SeqEntry.ArrayAlone.entryWork_eq (h : e.ArrayAlone) : s.entryWork t tm e = s.advanceEntry t tm e e.rows := by
  rcases h with h | h | h <;> simp [State.entryWork, h]

/-- What rows `e.step` to `upto - 1` of an array entry leave of a matrix state but for the bins `b` and their shadow copy `sh`. -/
def Matrix.advanced (m : Matrix) (e : SeqEntry) (lines : Bool) (upto : Nat) (b sh : SMap (Nat × Nat)) : Matrix :=
  ((m.withBins b sh).orTag e.z (e.apx || (m.latch e.latch).tag || lines || e.gtag)).modEntry e.id fun q => { q with step := upto }

theorem Team.runRows_array (src : Team) (h : e.ArrayAlone) (a : Nat) (d : Word) (draw : Nat) {upto : Nat}
    (hh : descFirst e.desc + upto ≤ 64) :
    ∃ b sh, tm.runRows src e a d draw upto = { tm with matrix := tm.matrix.advanced e (src.rowsApprox a d) upto b sh } ∧
      ∀ z r n, r < 64 → n < 64 → b.val (binKey z r n) (0, 0) = tm.arrayPair src e a d draw e.step upto z r n := by
  obtain ⟨b, sh, hfold, hval⟩ := Team.fold_arrayRow tm src e a d draw e.step hh
  refine ⟨b, sh, ?_, hval⟩
  rcases h with h | h | h <;> simp only [Team.runRows, h, hfold] <;> rfl

/-- The bins that an array entry's rows up to `upto` leave: R204's result in the elements of its rows, every other as it was. -/
def ArrayDone (tm : Team) (e : SeqEntry) (m : Matrix) (upto : Nat) : Prop :=
  ∃ row : Nat → Nat → Byte,
    (∀ j < upto, LarderReads tm (rowAddr e.addr e.desc j) (recordSize e.ty false) (row j)) ∧
    (∀ j n, e.step ≤ j → j < upto → n < 64 →
      Accumulates e.ty e.apx e.grade (List.zipWith FV.mul (recordValues e.ty (row j)) ((tm.matrix.latch e.latch).column e.ty n))
        (tm.matrix.pair e.z (descFirst e.desc + j) n) (m.pair e.z (descFirst e.desc + j) n)) ∧
    ∀ z r n, r < 64 → n < 64 → ¬ (z = e.z ∧ descFirst e.desc + e.step ≤ r ∧ r < descFirst e.desc + upto) →
      m.pair z r n = tm.matrix.pair z r n

theorem Team.larderReads_entryRow (h : e.ArrayAlone) (hA : tm.st.larderA % 128 = 0) (ha : e.addr % 128 = 0) (draw salt j : Nat) :
    LarderReads tm (rowAddr e.addr e.desc j) (recordSize e.ty false) (tm.entryRow e e.addr e.desc draw salt j) := by
  have haddr : rowAddr e.addr e.desc j % 128 = 0 := by
    rw [rowAddr, Nat.mul_assoc, Nat.add_mul_mod_self_left, ha]
  have hsize : 128 ∣ recordSize e.ty false := by cases e.ty <;> decide
  obtain ⟨n, hn⟩ := hsize
  unfold Team.entryRow
  rw [h.recSize_eq, hn]
  exact Team.larderReads_recordBytes hA haddr draw salt n

/-- Rows of an array entry alone do R204's work, leave the rest of the matrix state but the bin's tag and the entry's step, and leave
the team. -/
theorem State.advanceEntry_array (ht : s.team? t = some tm) (he : tm.matrix.entry? id = some e) (h : e.ArrayAlone)
    (ha : e.addr % 128 = 0) (hA : tm.st.larderA % 128 = 0) {upto : Nat} (hh : descFirst e.desc + upto ≤ 64) :
    ∃ b sh, (s.advanceEntry t tm e upto).team? t =
        some { tm with matrix := tm.matrix.advanced e (tm.rowsApprox e.addr e.desc) upto b sh } ∧
      ∀ m : Matrix, m.bins = b → ArrayDone tm e m upto := by
  obtain rfl := Matrix.id_of_entry? he
  obtain ⟨b, sh, hrun, hval⟩ := Team.runRows_array (tm := tm) tm h e.addr e.desc s.free hh
  refine ⟨b, sh, by rw [State.advanceEntry_alone ht he h.ne_chain, hrun], ?_⟩
  rintro m rfl
  refine ⟨fun j => tm.entryRow e e.addr e.desc s.free j j, fun j _ => Team.larderReads_entryRow h hA ha _ _ _, fun j n h0 h1 hn => ?_,
    fun z r n hr hn hne => (hval z r n hr hn).trans (tm.arrayPair_other tm e _ _ _ hne n)⟩
  have hp : m.pair e.z (descFirst e.desc + j) n = _ := hval e.z (descFirst e.desc + j) n (by omega) hn
  rw [hp, tm.arrayPair_row tm e _ _ _ h0 h1]
  exact accumulates_mmaElem ..

theorem Matrix.advanced_entry? {m : Matrix} (he : m.entry? id = some e) (lines : Bool) (upto : Nat) (b sh : SMap (Nat × Nat)) :
    (m.advanced e lines upto b sh).entry? id = some { e with step := upto } := by
  obtain rfl := Matrix.id_of_entry? he
  exact Matrix.entry?_modEntry (m := (m.withBins b sh).orTag _ _) he fun _ => rfl

theorem Matrix.advanced_queue_filter (m : Matrix) (lines : Bool) (upto : Nat) (b sh : SMap (Nat × Nat)) :
    (m.advanced e lines upto b sh).queue.filter (fun q => q.id != e.id) = m.queue.filter fun q => q.id != e.id :=
  Matrix.modEntry_queue_filter _ _ fun _ => rfl

theorem Matrix.advanced_binTag (m : Matrix) (lines : Bool) (upto : Nat) (b sh : SMap (Nat × Nat)) (hz : e.z < 16) :
    (m.advanced e lines upto b sh).binTag.getLsbD e.z =
      (m.binTag.getLsbD e.z || e.apx || (m.latch e.latch).tag || lines || e.gtag) := by
  refine (getLsbD_setBit16_same m.binTag hz _).trans ?_
  simp only [Bool.or_assoc, Matrix.withBins]

/-! ### The entries' finish and interruption point -/

theorem State.entryWork_wld (ht : s.team? t = some tm) (hop : e.op = .wld) : (s.entryWork t tm e).team? t =
    some { tm with matrix := tm.matrix.setLatch e.latch (s.loadedLatch tm e) } := by
  simp only [State.entryWork, hop]
  exact State.loadTile_team? ht hop

theorem State.entryWork_wswp (ht : s.team? t = some tm) (hop : e.op = .wswp) : (s.entryWork t tm e).team? t =
    some { tm with matrix := { tm.matrix with latch0 := tm.matrix.latch1, latch1 := tm.matrix.latch0 } } := by
  simp only [State.entryWork, hop, State.modMatrix, State.team?_modTeam_same, ht, Option.map_some]

theorem State.entryWork_zclr (ht : s.team? t = some tm) (hop : e.op = .zclr) : (s.entryWork t tm e).team? t =
    some { tm with matrix := tm.matrix.clearBin e.z } := by
  simp only [State.entryWork, hop, State.modMatrix, State.team?_modTeam_same, ht, Option.map_some]

section Finish

variable (ht : s.team? t = some tm) (he : tm.matrix.entry? id = some e) (hr : Runs s t tm e)
  (hn : s.entryError tm tm e e.addr e.desc e.rows = none)
  (hp : ∀ p ∈ (tm.sheaf e.sheaf).pend, p.seq = e.seq → p = { seq := e.seq, ready := false })
include ht he hr hn hp

/-- R202: a WLD loads its latch. -/
theorem sequencerEntryFinish_wld (hop : e.op = .wld) : ∃ (u : State) (tm' : Team),
    exec (.sequencerEntryFinish t id) s = .next (u.settled t) ∧ u.team? t = some tm' ∧
      EntryGone tm tm' e (tm.matrix.setLatch e.latch (s.loadedLatch tm e)) :=
  sequencerEntryFinish_gone (k := e.step) ht he hr (by simp [hop]) (by simp [hop]) hn hp (State.entryWork_wld ht hop)
    (by rw [Matrix.entry?, Matrix.setLatch_queue]; exact he) (by rw [Matrix.setLatch_queue])

/-- R203: a WSWP exchanges the latches. -/
theorem sequencerEntryFinish_wswp (hop : e.op = .wswp) : ∃ (u : State) (tm' : Team),
    exec (.sequencerEntryFinish t id) s = .next (u.settled t) ∧ u.team? t = some tm' ∧
      EntryGone tm tm' e { tm.matrix with latch0 := tm.matrix.latch1, latch1 := tm.matrix.latch0 } :=
  sequencerEntryFinish_gone (k := e.step) ht he hr (by simp [hop]) (by simp [hop]) hn hp (State.entryWork_wswp ht hop) he rfl

/-- R207: a ZCLR clears its bin. -/
theorem sequencerEntryFinish_zclr (hop : e.op = .zclr) : ∃ (u : State) (tm' : Team),
    exec (.sequencerEntryFinish t id) s = .next (u.settled t) ∧ u.team? t = some tm' ∧
      EntryGone tm tm' e (tm.matrix.clearBin e.z) :=
  sequencerEntryFinish_gone (k := e.step) ht he hr (by simp [hop]) (by simp [hop]) hn hp (State.entryWork_zclr ht hop) he rfl

/-- R204, R206: an array entry alone does the rest of its rows. -/
theorem sequencerEntryFinish_array (h : e.ArrayAlone) (ha : e.addr % 128 = 0) (hA : tm.st.larderA % 128 = 0)
    (hrows : descFirst e.desc + descRows e.desc ≤ 64) : ∃ (u : State) (tm' : Team) (b sh : SMap (Nat × Nat)),
    exec (.sequencerEntryFinish t id) s = .next (u.settled t) ∧ u.team? t = some tm' ∧
      EntryGone tm tm' e (tm.matrix.advanced e (tm.rowsApprox e.addr e.desc) (descRows e.desc) b sh) ∧
      ∀ m : Matrix, m.bins = b → ArrayDone tm e m (descRows e.desc) := by
  obtain ⟨b, sh, hadv, hdone⟩ := State.advanceEntry_array ht he h ha hA hrows
  rw [← h.rows_eq, ← h.entryWork_eq, h.rows_eq] at hadv
  have hq := tm.matrix.advanced_queue_filter (e := e) (tm.rowsApprox e.addr e.desc) (descRows e.desc) b sh
  rw [Matrix.id_of_entry? he] at hq
  obtain ⟨u, tm', hexec, hu, hgone⟩ := sequencerEntryFinish_gone ht he hr h.ne_chain h.ne_zrd hn hp hadv
    (Matrix.advanced_entry? he _ _ _ _) hq
  exact ⟨u, tm', b, sh, hexec, hu, hgone, hdone⟩

end Finish

/-- R194: an array entry alone reaches an interruption point with the rows before it done. -/
theorem interruptionPointReached_array (ht : s.team? t = some tm) (he : tm.matrix.entry? id = some e) (hr : Runs s t tm e)
    (h : e.ArrayAlone) (ha : e.addr % 128 = 0) (hA : tm.st.larderA % 128 = 0)
    (hrows : descFirst e.desc + descRows e.desc ≤ 64) (hlt : (e.step / 16 + 1) * 16 < descRows e.desc)
    (hn : s.entryError tm tm e e.addr e.desc ((e.step / 16 + 1) * 16) = none) :
    ∃ (u : State) (tm' : Team), exec (.interruptionPointReached t id) s = .next u ∧ u.team? t = some tm' ∧
      ArrayDone tm e tm'.matrix ((e.step / 16 + 1) * 16) ∧
      (tm'.matrix.entry? id).map (fun q => q.step) = some ((e.step / 16 + 1) * 16) ∧ tm'.sheaves = tm.sheaves ∧
      ∀ a, tm'.larderByte a = tm.larderByte a := by
  obtain ⟨b, sh, hadv, hdone⟩ := State.advanceEntry_array ht he h ha hA (upto := (e.step / 16 + 1) * 16) (by omega)
  exact ⟨_, _, exec_interruptionPointReached_alone ht he hr h.ne_chain (h.rows_eq ▸ hlt) hn hadv, hadv, hdone _ rfl,
    by rw [Matrix.advanced_entry? he, Option.map_some], rfl, fun _ => rfl⟩

end Sys2Proof.Machine

open Sys2Proof Sys2Proof.Machine

/-- Settles O27: each entry's finish is the work on its latch or bin and its way out of the queue (`EntryGone`); an array entry's
rows, at its finish or at an interruption point, are R204's accumulation element by element (`ArrayDone`). -/
theorem latchAndArrayEntries : Obligations.LatchAndArrayEntries := by
  unfold Obligations.LatchAndArrayEntries
  constructor
  · intro s t id tm e ht he hr hn hop _ hp
    obtain rfl := Matrix.id_of_entry? he
    rcases hop with hop | hop | hop
    · obtain ⟨u, tm', hx, hu, hg⟩ := sequencerEntryFinish_wld ht he hr hn hp hop
      have hl : tm'.matrix.latch e.latch = s.loadedLatch tm e := by
        rw [hg.matrix]; exact Matrix.latch_setLatch_same ..
      refine ⟨u, tm', hx, hu, hg.queue, hg.result, hg.larderByte, fun _ => ?_, fun h => (nomatch hop.symm.trans h),
        fun h => (nomatch hop.symm.trans h)⟩
      rw [hl]
      exact ⟨rfl, rfl, State.loadedLatch_attic hop, State.loadedLatch_larder hop, by rw [hg.matrix]; exact Matrix.setLatch_bins ..⟩
    · obtain ⟨u, tm', hx, hu, hg⟩ := sequencerEntryFinish_wswp ht he hr hn hp hop
      refine ⟨u, tm', hx, hu, hg.queue, hg.result, hg.larderByte, fun h => (nomatch hop.symm.trans h), fun _ => ?_,
        fun h => (nomatch hop.symm.trans h)⟩
      rw [hg.matrix]
      exact ⟨rfl, rfl, rfl, rfl⟩
    · obtain ⟨u, tm', hx, hu, hg⟩ := sequencerEntryFinish_zclr ht he hr hn hp hop
      refine ⟨u, tm', hx, hu, hg.queue, hg.result, hg.larderByte, fun h => (nomatch hop.symm.trans h),
        fun h => (nomatch hop.symm.trans h), fun _ => ?_⟩
      rw [hg.matrix]
      exact ⟨fun _ _ hrow hcol => (tm.matrix.pair_clearBin _ _ hrow hcol).trans (if_pos rfl),
        fun hz => getLsbD_setBit16_same _ hz _,
        fun _ _ _ hrow hcol hne => (tm.matrix.pair_clearBin _ _ hrow hcol).trans (if_neg hne), rfl, rfl⟩
  · intro s t id tm e ht he hr hop ha hA _ hrows hp _
    refine ⟨fun hn => ?_, fun hlt hn => interruptionPointReached_array ht he hr hop ha hA hrows hlt hn⟩
    obtain ⟨u, tm', b, sh, hx, hu, hg, hdone⟩ := sequencerEntryFinish_array ht he hr hn hp hop ha hA hrows
    obtain rfl := Matrix.id_of_entry? he
    refine ⟨u, tm', hx, hu, hdone _ (by rw [hg.matrix]; rfl), hg.queue, by rw [hg.matrix]; rfl, by rw [hg.matrix]; rfl, fun hz => ?_,
      fun j _ l => by rw [hg.strand], hg.larderByte⟩
    rw [hg.matrix]
    exact tm.matrix.advanced_binTag (tm.rowsApprox e.addr e.desc) (descRows e.desc) b sh hz

end
